-- ==== Sys2Proof/Word.lean ====
section
/-! DEFINITION. The plain words of the model: bytes, epoch numbers, digests, station numbers and maps, instants,
and tables of a fixed number of rows. -/

namespace Sys2Proof

/-- A byte on the line or at the service port (R20, R172). -/
abbrev Byte := BitVec 8

/-- An epoch number or fold point, 0 to 65,535, wrapping (00_scope.md, Numbering). -/
abbrev Epoch := BitVec 16

/-- A 16-bit check: line CRC, balance digest or profile digest (R84, R167, R187). -/
abbrev Digest := BitVec 16

/-- A station map: bit n stands for station n (R186). Also the form of a record's station sets. -/
abbrev StationMap := BitVec 32

/-- A station number, 0 to 31 (00_scope.md, Numbering). -/
abbrev Station := Fin 32

/-- An instant, in nanoseconds. DESIGN CHOICE, notes/assumptions/1.md. -/
abbrev Instant := Int

/-- A table of exactly n rows: 32 roster entries, 8 pools, 4 channels, 4 drives. -/
structure Tbl (α : Type) (n : Nat) where
  rows : List α
  size : rows.length = n
  deriving DecidableEq, Repr

/-- A table with the same row everywhere. -/
def Tbl.fill {α : Type} (n : Nat) (a : α) : Tbl α n := ⟨List.replicate n a, List.length_replicate⟩

/-- Row i. -/
def Tbl.get {α : Type} {n : Nat} (t : Tbl α n) (i : Fin n) : α := t.rows[i.val]'(t.size.symm ▸ i.isLt)

/-- The table with row i replaced. -/
def Tbl.set {α : Type} {n : Nat} (t : Tbl α n) (i : Fin n) (a : α) : Tbl α n :=
  ⟨t.rows.set i.val a, List.length_set.trans t.size⟩

/-- The table with every row changed by f. -/
def Tbl.map {α : Type} {n : Nat} (f : α → α) (t : Tbl α n) : Tbl α n :=
  ⟨t.rows.map f, (List.length_map f).trans t.size⟩

end Sys2Proof
end

