-- ==== Sys2Proof/Config.lean ====
section
/-! DEFINITION. The free values: what the manual leaves open and the machine goes on with. They have no body, so
nothing in Lean can say what they are. State.free counts the values drawn, so that every draw is a fresh one. -/

namespace Sys2Proof

/-- The n-th free choice between two orders the manual both allows (R160, R43, R50, R89, R173).
notes/assumptions/6.md and 7.md. -/
opaque Config.freeOrder : Nat → Bool

/-- The n-th free choice of which block's next event enters the event queue first, where events of different blocks
arise at one instant (R182), and of which of several filtered changes at one instant comes first (R141, R148).
notes/assumptions/5.md. -/
opaque Config.freeBlock : Nat → Nat

end Sys2Proof
end

