-- ==== Sys2Proof/Syntax.lean ====
section
/-! DEFINITION. The commands of the block: one constructor for each row of spec/opcode_table.json, with the fields of
the frames and transactions they carry. -/

namespace Sys2Proof

/-- A MARK frame's fields (R2, R186). -/
structure MarkFrame where
  sender : Station
  epoch : Epoch
  founding : Bool
  digest : Digest
  map : StationMap
  deriving DecidableEq, Repr

/-- A fold point with the digest of the balances at it (R83). -/
structure FoldMark where
  point : Epoch
  digest : Digest
  deriving DecidableEq, Repr

/-- A REPORT's or RESEND's fields; fold is none while the flags byte's bit 1 is clear (R57, R60, R188). The pool count
is the number of deltas. -/
structure ReportFrame where
  sender : Station
  epoch : Epoch
  deltas : List (BitVec 16)
  fold : Option FoldMark
  clean : Bool
  deriving DecidableEq, Repr

/-- A pair of a REQUEST. Its station byte may be above 31 (R188). -/
structure Pair where
  station : Byte
  epoch : Epoch
  deriving DecidableEq, Repr

/-- A REQUEST's fields; target is none while the snapshot-wanted flag is clear (R76, R188). -/
structure RequestFrame where
  sender : Station
  target : Option Byte
  pairs : List Pair
  deriving DecidableEq, Repr

/-- A SNAPSHOT's fields (R97). -/
structure SnapshotFrame where
  sender : Station
  point : Epoch
  balances : List (BitVec 32)
  digest : Digest
  map : StationMap
  deriving DecidableEq, Repr

/-- An adjustment item as bytes carry it: any pool and kind byte (R101, R186). -/
structure RawItem where
  pool : Byte
  kind : Byte
  value : BitVec 32
  deriving DecidableEq, Repr

/-- An ADJUST's fields (R105, R186). -/
structure AdjustFrame where
  sender : Station
  serial : Byte
  effective : Epoch
  pools : Byte
  items : List RawItem
  deriving DecidableEq, Repr

/-- A JOIN's fields (R127). -/
structure JoinFrame where
  sender : Station
  digest : Digest
  deriving DecidableEq, Repr

/-- A LEAVE's field (R133). -/
structure LeaveFrame where
  sender : Station
  deriving DecidableEq, Repr

/-- The commands and events of the block. dt is the time in nanoseconds since the step before, for a step that comes from
outside; a step whose instant the state fixes carries none (notes/assumptions/1.md, 2.md). -/
inductive Instr where
  /-- RESET is driven low, or power comes on (R137). -/
  | hardwareReset (dt : Nat)
  /-- Hardware reset ends with these levels on the strap pins (R137, R164). -/
  | hardwareResetEnd (dt : Nat) (id : Station) (rate auto : Bool)
  | autoTimerExpiry
  | listenTimerExpiry
  | joinSilenceExpiry
  | markTimerExpiry
  | markBegin
  | ownMark
  | slotStart
  | slotReportBegin
  | slotReportMissed
  | slotReportSent
  | slotPhaseEnd
  | openWindowGapComplete
  | resendSent
  | snapshotSent
  | adjustSent
  | requestSent
  | joinSent
  | leaveSent
  | leaveDeadline
  | arbitrationLost (dt : Nat)
  | driveFault (dt : Nat)
  | frameAbandoned (dt : Nat)
  /-- A frame of these bytes ends and fails a check (R22). -/
  | frameDiscarded (dt : Nat) (bytes : List Byte)
  | markReceived (dt : Nat) (f : MarkFrame)
  | reportReceived (dt : Nat) (f : ReportFrame)
  | resendReceived (dt : Nat) (f : ReportFrame)
  | requestReceived (dt : Nat) (f : RequestFrame)
  | snapshotReceived (dt : Nat) (f : SnapshotFrame)
  | adjustReceived (dt : Nat) (f : AdjustFrame)
  | joinReceived (dt : Nat) (f : JoinFrame)
  | leaveReceived (dt : Nat) (f : LeaveFrame)
  | filteredCntRise (dt : Nat) (ch : Fin 4)
  | filteredDirChange (dt : Nat) (ch : Fin 4)
  | filteredGateRise (dt : Nat) (ch : Fin 4)
  | filteredGateFall (dt : Nat) (ch : Fin 4)
  | status (dt : Nat)
  | readPool (dt : Nat) (index : Byte)
  | readRoster (dt : Nat) (station : Byte)
  | readRecord (dt : Nat) (position : Byte)
  | readGaps (dt : Nat)
  | readChannel (dt : Nat) (channel : Byte)
  | takeBatch (dt : Nat) (channel : Byte)
  | takeEvent (dt : Nat)
  | writeProfile (dt : Nat) (item : Byte) (value : BitVec 32)
  | start (dt : Nat)
  /-- The item count byte and the items that follow it; none follow a count outside 1 to 4 (R175). -/
  | postAdjustment (dt : Nat) (count : Byte) (items : List RawItem)
  | setDrive (dt : Nat) (index mode : Byte)
  | leaveCommand (dt : Nat)
  | restart (dt : Nat)
  | unknownCommand (dt : Nat) (code : Byte)
  | transactionAbandoned (dt : Nat)
  /-- A glitch on the line has ended (R19). -/
  | glitch (dt : Nat)
  | abandonedFrameEnd (dt : Nat)
  deriving DecidableEq, Repr

end Sys2Proof
end

