-- ==== Sys2Proof/WellFormed.lean ====
section
/-! DEFINITION. Which commands can be given: the bounds on counts and lengths that the formats put on a command's
operands (R20, R22, R175, R189). -/

namespace Sys2Proof

/-- The command codes of the service port (R189). -/
def commandCodes : List Byte := [0x01, 0x02, 0x03, 0x04, 0x05, 0x06, 0x07, 0x08, 0x10, 0x11, 0x12, 0x13, 0x14, 0x15]

/-- A good REPORT or RESEND carries 1 to 8 deltas (R22). -/
def ReportFrame.wf (f : ReportFrame) : Bool := decide (1 ≤ f.deltas.length) && decide (f.deltas.length ≤ 8)

/-- A good REQUEST carries 0 to 4 pairs (R22). -/
def RequestFrame.wf (f : RequestFrame) : Bool := decide (f.pairs.length ≤ 4)

/-- A good SNAPSHOT carries 1 to 8 balances (R22). -/
def SnapshotFrame.wf (f : SnapshotFrame) : Bool := decide (1 ≤ f.balances.length) && decide (f.balances.length ≤ 8)

/-- A good ADJUST carries 1 to 4 items and a pool count of 1 to 8 (R22). -/
def AdjustFrame.wf (f : AdjustFrame) : Bool :=
  decide (1 ≤ f.items.length) && decide (f.items.length ≤ 4) && decide (1 ≤ f.pools.toNat) && decide (f.pools.toNat ≤ 8)

/-- The number of items that follow a POST ADJUSTMENT's count byte (R175). -/
def postedItems (count : Byte) : Nat := if 1 ≤ count.toNat ∧ count.toNat ≤ 4 then count.toNat else 0

/-- A command that can be given. -/
def Instr.wf : Instr → Bool
  | .hardwareReset _ => true
  | .hardwareResetEnd _ _ _ _ => true
  | .autoTimerExpiry => true
  | .listenTimerExpiry => true
  | .joinSilenceExpiry => true
  | .markTimerExpiry => true
  | .markBegin => true
  | .ownMark => true
  | .slotStart => true
  | .slotReportBegin => true
  | .slotReportMissed => true
  | .slotReportSent => true
  | .slotPhaseEnd => true
  | .openWindowGapComplete => true
  | .resendSent => true
  | .snapshotSent => true
  | .adjustSent => true
  | .requestSent => true
  | .joinSent => true
  | .leaveSent => true
  | .leaveDeadline => true
  | .arbitrationLost _ => true
  | .driveFault _ => true
  | .frameAbandoned _ => true
  | .frameDiscarded _ bytes => decide (1 ≤ bytes.length) && decide (bytes.length ≤ 64)
  | .markReceived _ _ => true
  | .reportReceived _ f => f.wf
  | .resendReceived _ f => f.wf
  | .requestReceived _ f => f.wf
  | .snapshotReceived _ f => f.wf
  | .adjustReceived _ f => f.wf
  | .joinReceived _ _ => true
  | .leaveReceived _ _ => true
  | .filteredCntRise _ _ => true
  | .filteredDirChange _ _ => true
  | .filteredGateRise _ _ => true
  | .filteredGateFall _ _ => true
  | .status _ => true
  | .readPool _ _ => true
  | .readRoster _ _ => true
  | .readRecord _ _ => true
  | .readGaps _ => true
  | .readChannel _ _ => true
  | .takeBatch _ _ => true
  | .takeEvent _ => true
  | .writeProfile _ _ _ => true
  | .start _ => true
  | .postAdjustment _ count items => decide (items.length = postedItems count)
  | .setDrive _ _ _ => true
  | .leaveCommand _ => true
  | .restart _ => true
  | .unknownCommand _ code => !commandCodes.contains code
  | .transactionAbandoned _ => true
  | .glitch _ => true
  | .abandonedFrameEnd _ => true

end Sys2Proof
end

