-- ==== Sys2Proof/Decode.lean ====
section
/-! DEFINITION. The command a word spells by the table's bits. No row of spec/opcode_table.json gives bits (its
"fields" are empty and it has no "fixed"), so no word spells a command. The bytes of frames and transactions are laid
out in Machine/Operands.lean and Machine/Frames.lean. -/

namespace Sys2Proof

/-- The command spelled by the nbits low bits of w: none, since no row gives bits. -/
def decodeTableWord (_nbits _w : Nat) : Option Instr := none

end Sys2Proof
end

