-- ==== Sys2Proof/Machine/State.lean ====
section
/-! DEFINITION. The state of the station, block by block as 00_scope.md's block diagram gives them, the reset state,
and the reasons a step could stop. State is plain data. -/

namespace Sys2Proof.Machine

/-- The life-cycle states (R115), in the order of their codes (R189). -/
inductive Life where
  | config | listen | joining | run | mute | quiet
  deriving DecidableEq, Repr

/-- The mute causes (R115, R135). -/
inductive MuteCause where
  | none | identity | profile | join
  deriving DecidableEq, Repr

/-- The agreement states (R89). -/
inductive Agreement where
  | none | agreed | uncertain | diverged | resyncing
  deriving DecidableEq, Repr

/-- The roster states (R36). -/
inductive RosterState where
  | absent | joining | present | missing | gone | self
  deriving DecidableEq, Repr

/-- The record states (R62). -/
inductive RecordState where
  | collecting | settled | folded
  deriving DecidableEq, Repr

/-- The channel modes (R138). -/
inductive ChannelMode where
  | off | pulse | pulseDir
  deriving DecidableEq, Repr

/-- The drives' runtime modes (R157). -/
inductive DriveMode where
  | auto | forceOn | forceOff
  deriving DecidableEq, Repr

/-- The drives' uncertain actions (R159). -/
inductive UncertainAction where
  | hold | assert | release
  deriving DecidableEq, Repr

/-- The drive rule states (R154, R156). -/
inductive RuleState where
  | off
  | arming (n : Nat)
  | on
  | disarming (n : Nat)
  deriving DecidableEq, Repr

/-- The rows of R158, as the DRIVE event names them (R161). -/
inductive PinRow where
  | config | disabled | forced | rule | uncertain
  deriving DecidableEq, Repr

/-- The leave stage (R133). -/
inductive LeaveStage where
  | none | taken | leaving
  deriving DecidableEq, Repr

/-- The mark timer (R4); a founder's starts expired (R15). -/
inductive MarkTimer where
  | stopped
  | running (expiry : Instant)
  | expired
  deriving DecidableEq, Repr

/-- The slot-phase timer (R8): stopped, delivering the slot phase's events, or past the slot-phase end, which is the open
window (R9). -/
inductive SlotTimer where
  | stopped | slots | window
  deriving DecidableEq, Repr

/-- What the line access unit knows of the line (R19, R21): the receiver is off; the line has been idle since an instant;
a frame of ours or one that won over ours is on it; or an abandoned frame is waited out. -/
inductive LineState where
  | off
  | idle (since : Instant)
  | busy
  | abandoned
  deriving DecidableEq, Repr

/-- The epoch clock (R3). -/
structure Clock where
  cur : Epoch
  pacing : Option Station
  timer : MarkTimer
  pending : Bool
  origin : Option Instant
  slotTimer : SlotTimer
  slotCount : Nat
  probation : Nat
  deriving DecidableEq, Repr

/-- The class and subject of a send-queue entry (R31, R32). -/
inductive QKey where
  | resend (epoch : Epoch)
  | snapshot
  | adjust (serial : Byte)
  | request
  | join
  | leave
  deriving DecidableEq, Repr

/-- A send-queue entry. The two parts are a REQUEST's snapshot part and pairs part (R31). -/
structure QEntry where
  key : QKey
  target : Option Station
  pairs : Option (List Pair)
  deriving DecidableEq, Repr

/-- A frame as the station sends it (R186). -/
inductive Frame where
  | mark (f : MarkFrame)
  | report (f : ReportFrame)
  | resend (f : ReportFrame)
  | request (f : RequestFrame)
  | snapshot (f : SnapshotFrame)
  | adjust (f : AdjustFrame)
  | join (f : JoinFrame)
  | leave (f : LeaveFrame)
  deriving DecidableEq, Repr

/-- Who offered the frame in transmission (R26): the epoch clock, the report builder for its slot, or the send queue. -/
inductive TxOwner where
  | mark
  | slot (epoch : Epoch)
  | queue (key : QKey)
  deriving DecidableEq, Repr

/-- A frame in transmission: its fields, the instant its first start bit began, its owner, and whether a merge changed a
part of its queue entry while it was being sent (R33). -/
structure Tx where
  frame : Frame
  began : Instant
  owner : TxOwner
  changed : Bool
  deriving DecidableEq, Repr

/-- The receiver's place in the bits on the line (R21): no byte is begun; a fall of the line at fall may begin a byte, the
frame's whole bytes before it ending at stop; the byte whose start bit began at fall has these data bits so far, least
significant first, true for a 1; the last stop bit ended at stop; or a frame given up is waited out. bytes are the frame's
whole bytes before. -/
inductive Rx where
  | idle
  | start (fall : Instant) (bytes : List Byte) (stop : Instant)
  | data (fall : Instant) (bits : List Bool) (bytes : List Byte)
  | gap (stop : Instant) (bytes : List Byte)
  | wait
  deriving DecidableEq, Repr

/-- The line access unit (R31, R35). slotWaiting is the slot REPORT as handed over, built at the start of the own slot, while
it waits for its line (R28, R57). -/
structure Line where
  tx : Option Tx
  rx : Rx
  state : LineState
  overlap : Bool
  queue : List QEntry
  discarded : Nat
  slotWaiting : Option ReportFrame
  taken : Bool
  deriving DecidableEq, Repr

/-- The last report part of a roster entry (R36). -/
structure LastReport where
  epoch : Epoch
  fold : Option FoldMark
  clean : Bool
  deriving DecidableEq, Repr

/-- A roster entry (R36). -/
structure RosterEntry where
  state : RosterState
  miss : Nat
  firstHeard : Option Epoch
  lastJoin : Option Epoch
  lastReport : Option LastReport
  deriving DecidableEq, Repr

/-- The roster (R36, R45, R50). -/
structure Roster where
  entries : Tbl RosterEntry 32
  reference : Option Station
  conflicts : Nat
  conflictFree : Nat
  deriving DecidableEq, Repr

/-- An outbox entry (R53). -/
structure OutEntry where
  epoch : Epoch
  deltas : List (BitVec 16)
  transmitted : Bool
  resends : Nat
  designated : Bool
  deriving DecidableEq, Repr

/-- The report builder (R53); the outbox is oldest first. -/
structure Builder where
  carry : Tbl (BitVec 64) 8
  outbox : List OutEntry
  deriving DecidableEq, Repr

/-- An item of an adjustment (R101). -/
structure AdjItem where
  pool : Nat
  set : Bool
  value : BitVec 32
  deriving DecidableEq, Repr

/-- An adjustment (R101). -/
structure Adjustment where
  originator : Station
  serial : Byte
  effective : Epoch
  items : List AdjItem
  deriving DecidableEq, Repr

/-- An epoch record (R62). An empty applied list stands for no list. -/
structure Record where
  epoch : Epoch
  state : RecordState
  expected : StationMap
  heard : StationMap
  sums : List (BitVec 32)
  late : List (BitVec 32)
  applied : List Adjustment
  deriving DecidableEq, Repr

/-- The epoch window: records newest first (R62), asked set (R75). -/
structure Window where
  records : List Record
  asked : List Pair
  deriving DecidableEq, Repr

/-- A pool table entry (R79). -/
structure PoolEntry where
  balance : BitVec 32
  clipped : Bool
  deriving DecidableEq, Repr

/-- A digest history entry (R83). -/
structure HistEntry where
  point : Epoch
  digest : Digest
  complete : Bool
  deriving DecidableEq, Repr

/-- A gap (R86). -/
structure Gap where
  station : Station
  epoch : Epoch
  deriving DecidableEq, Repr

/-- A held snapshot (R79, R98). -/
structure HeldSnapshot where
  point : Epoch
  balances : List (BitVec 32)
  map : StationMap
  deriving DecidableEq, Repr

/-- The pool unit and agreement monitor (R79); the history is oldest first. -/
structure Pool where
  table : Tbl PoolEntry 8
  foldPoint : Option Epoch
  history : List HistEntry
  gaps : List Gap
  clean : Bool
  agreement : Agreement
  target : Option Station
  held : Option HeldSnapshot
  holdBack : Nat
  wait : Nat
  noComparison : Nat
  uncleanSelf : Nat
  deriving DecidableEq, Repr

/-- The adjustment unit (R101). -/
structure Adjuster where
  queue : List Adjustment
  lastSerial : Byte
  deriving DecidableEq, Repr

/-- The strap values (R164). -/
structure Straps where
  id : Station
  rate : Bool
  auto : Bool
  deriving DecidableEq, Repr

/-- A channel's profile items (R166): gate use USE, filter width in 0.5 µs steps, sign −1. -/
structure ChannelCfg where
  mode : ChannelMode
  gateUse : Bool
  width : Nat
  pool : Fin 8
  negative : Bool
  deriving DecidableEq, Repr

/-- A drive's profile items (R166); pool none disables the drive. -/
structure DriveCfg where
  pool : Option (Fin 8)
  high : BitVec 32
  low : BitVec 32
  riseDwell : Nat
  fallDwell : Nat
  activeHigh : Bool
  action : UncertainAction
  deriving DecidableEq, Repr

/-- The profile (R165, R166), less the line-rate item, which is the RATE strap. -/
structure Profile where
  period : Nat
  foldLag : Nat
  pools : Nat
  eviction : Nat
  lead : Nat
  initial : Tbl (BitVec 32) 8
  channels : Tbl ChannelCfg 4
  drives : Tbl DriveCfg 4
  deriving DecidableEq, Repr

/-- The station controller (R115), and whether a hardware reset is in progress (R137). -/
structure Controller where
  life : Life
  cause : MuteCause
  autoTimer : Option Instant
  listenTimer : Option Instant
  matching : Nat
  mismatched : Nat
  joinWait : Nat
  joinAttempts : Nat
  silence : Option Instant
  leave : LeaveStage
  profile : Profile
  frozen : Bool
  digest : Option Digest
  straps : Straps
  inReset : Bool
  deriving DecidableEq, Repr

/-- A batch holder (R147). -/
structure Holder where
  value : BitVec 32
  new : Bool
  overwritten : Bool
  deriving DecidableEq, Repr

/-- A channel's runtime state (R138). -/
structure Channel where
  cntHigh : Bool
  dirHigh : Bool
  gateHigh : Bool
  lastRise : Option Instant
  acc : BitVec 32
  accSat : Bool
  lifetime : BitVec 32
  batch : BitVec 32
  holder : Holder
  deriving DecidableEq, Repr

/-- A drive's runtime state and pin (R154). held true is active; pin true is high; row is the row of R158 that governs
the pin (R161). -/
structure Drive where
  rule : RuleState
  mode : DriveMode
  held : Bool
  pin : Bool
  row : PinRow
  deriving DecidableEq, Repr

/-- The drive unit (R154, R162). -/
structure DriveUnit where
  drives : Tbl Drive 4
  fault : Bool
  deriving DecidableEq, Repr

/-- The event kinds (R182, R190). -/
inductive EventKind where
  | state | agreement | peer | gapExpired | gapOverflow | adjustApplied | adjustRefused | foreignMark | profileConflict
  | discontinuity | identityConflict | rebaseline | lineError | batch | accOverflow | clipped | drive
  deriving DecidableEq, Repr

/-- An event entry (R182). The subject is a station number or an index, or none. -/
structure Event where
  kind : EventKind
  epoch : Epoch
  subject : Option Station
  value : BitVec 16
  deriving DecidableEq, Repr

/-- The blocks that raise events (R182). -/
inductive Block where
  | clock | line | roster | pool | adjust | controller | channel | drive
  deriving DecidableEq, Repr

/-- The outcome codes (R175). -/
inductive PortOutcome where
  | done | wrongState | badArgument | noRoom | empty
  deriving DecidableEq, Repr

/-- What a command's transaction returns: outcome and result bytes (R172, R173). -/
structure Reply where
  outcome : PortOutcome
  result : List Byte
  deriving DecidableEq, Repr

/-- A transaction of the service port (R172): the bits of the byte being clocked in, first one first, the whole bytes before
it, whether its command has been taken (R173), and the SCK falls since then. -/
structure Txn where
  shift : List Bool
  bytes : List Byte
  taken : Bool
  falls : Nat
  deriving DecidableEq, Repr

/-- The service port (R172, R182, R184). txn is the transaction in progress, none while CS is high. arising holds the events
of the present step until they enter the queue; it is empty between steps. -/
structure Port where
  events : List Event
  lost : Bool
  irq : Bool
  reply : Option Reply
  txn : Option Txn
  arising : List (Block × Event)
  deriving DecidableEq, Repr

/-- A channel's input pins (R138, R139). -/
inductive InputPin where
  | cnt | dir | gate
  deriving DecidableEq, Repr

/-- The level of an input pin, and the instant from which it has held that level (R139). -/
structure Pin where
  high : Bool
  since : Instant
  deriving DecidableEq, Repr

/-- The input pins of a channel (R139). -/
structure ChannelPins where
  cnt : Pin
  dir : Pin
  gate : Pin
  deriving DecidableEq, Repr

/-- The levels of the input pins: CNT, DIR and GATE of each channel, CS, SCK and SDI (00_scope.md, Pin list); and the level
that the other stations give the tally line, high for recessive, which is a 1 (R19). -/
structure Inputs where
  channels : Tbl ChannelPins 4
  cs : Bool
  sck : Bool
  sdi : Bool
  tally : Pin
  deriving DecidableEq, Repr

/-- What comes to the station below the steps of the table: an input pin takes a level (R139, R172), the other stations give
the tally line a level (R19, R20), or a frame of another station begins on the line whose end comes as a step of the table
(R19). notes/assumptions/4.md. -/
inductive Wire where
  | input (ch : Fin 4) (pin : InputPin) (high : Bool)
  | cs (high : Bool)
  | sck (high : Bool)
  | sdi (high : Bool)
  | line (high : Bool)
  | frameBegins
  deriving DecidableEq, Repr

/-- A wire's change that waits, dt nanoseconds after the step before it. -/
structure WireChange where
  dt : Nat
  wire : Wire
  deriving DecidableEq, Repr

/-- The state of the station. now, free, wires and pending are the model's own (INVENTORY.md). -/
structure State where
  now : Instant
  free : Nat
  clock : Clock
  line : Line
  roster : Roster
  builder : Builder
  window : Window
  pool : Pool
  adjust : Adjuster
  ctl : Controller
  channels : Tbl Channel 4
  drives : DriveUnit
  port : Port
  inputs : Inputs
  wires : List WireChange
  pending : List Instr
  deriving DecidableEq, Repr

/-- The reasons a step could end in a fault. There is none: the manual names nothing that stops the station (INVENTORY.md,
Faults), so no step faults. Safe: a type with no value hides no behaviour. -/
inductive Fault where
  deriving DecidableEq, Repr

/-- The reasons a step could be refused. -/
inductive Refusal where
  /-- Raised by exec for a command that has no meaning yet; no arm does so. Safe: the model stops. -/
  | notModelled (mnemonic : String)
  deriving DecidableEq, Repr

/-- A roster entry in ABSENT: miss count 0 and no optional parts (R36, R52). -/
def RosterEntry.blank : RosterEntry :=
  { state := .absent, miss := 0, firstHeard := none, lastJoin := none, lastReport := none }

/-- The defaults of a channel's profile items: channel 0 PULSE +1, channel 1 PULSE −1, channels 2 and 3 OFF (R166). -/
def ChannelCfg.default (mode : ChannelMode) (negative : Bool) : ChannelCfg :=
  { mode := mode, gateUse := false, width := 4, pool := 0, negative := negative }

/-- The defaults of a drive's profile items (R166). -/
def DriveCfg.default : DriveCfg :=
  { pool := none, high := 1, low := 0, riseDwell := 0, fallDwell := 0, activeHigh := true, action := .hold }

/-- The default profile (R165, R166). -/
def Profile.default : Profile :=
  { period := 100, foldLag := 2, pools := 1, eviction := 4, lead := 3
    initial := Tbl.fill 8 0
    channels := ⟨[.default .pulse false, .default .pulse true, .default .off false, .default .off false], rfl⟩
    drives := Tbl.fill 4 .default }

/-- The epoch clock after hardware reset (R18). -/
def Clock.reset : Clock :=
  { cur := 0, pacing := none, timer := .stopped, pending := false, origin := none, slotTimer := .stopped
    slotCount := 0, probation := 0 }

/-- The line access unit after hardware reset (R35). -/
def Line.reset : Line :=
  { tx := none, rx := .idle, state := .off, overlap := false, queue := [], discarded := 0, slotWaiting := none
    taken := false }

/-- The roster after hardware reset (R52). -/
def Roster.reset : Roster :=
  { entries := Tbl.fill 32 .blank, reference := none, conflicts := 0, conflictFree := 0 }

/-- The report builder after hardware reset (R61). -/
def Builder.reset : Builder := { carry := Tbl.fill 8 0, outbox := [] }

/-- The epoch window after hardware reset (R78). -/
def Window.reset : Window := { records := [], asked := [] }

/-- The pool unit after hardware reset (R100). -/
def Pool.reset : Pool :=
  { table := Tbl.fill 8 { balance := 0, clipped := false }, foldPoint := none, history := [], gaps := [], clean := false
    agreement := .none, target := none, held := none, holdBack := 0, wait := 0, noComparison := 0, uncleanSelf := 0 }

/-- The adjustment unit after hardware reset (R114). -/
def Adjuster.reset : Adjuster := { queue := [], lastSerial := 255 }

/-- The station controller as hardware reset ends at the instant now with these strap values (R137, R171): CONFIG, the
AUTO timer 200 ms ahead if AUTO is high (R119). -/
def Controller.reset (now : Instant) (straps : Straps) : Controller :=
  { life := .config, cause := .none, autoTimer := if straps.auto then some (now + 200000000) else none
    listenTimer := none, matching := 0, mismatched := 0, joinWait := 0, joinAttempts := 0, silence := none, leave := .none
    profile := .default, frozen := false, digest := none, straps := straps, inReset := false }

/-- A channel after hardware reset (R153). -/
def Channel.reset : Channel :=
  { cntHigh := false, dirHigh := false, gateHigh := false, lastRise := none, acc := 0, accSat := false, lifetime := 0
    batch := 0, holder := { value := 0, new := false, overwritten := false } }

/-- A drive after hardware reset (R163). -/
def Drive.reset : Drive := { rule := .off, mode := .auto, held := false, pin := false, row := .config }

/-- The drive unit after hardware reset (R163). -/
def DriveUnit.reset : DriveUnit := { drives := Tbl.fill 4 .reset, fault := false }

/-- The service port after hardware reset (R185). -/
def Port.reset : Port := { events := [], lost := false, irq := false, reply := none, txn := none, arising := [] }

/-- The input pins right after reset, a DESIGN CHOICE (notes/assumptions/9.md): CS high, every other pin low, and the tally
line recessive. -/
def Inputs.reset : Inputs :=
  let low : Pin := { high := false, since := 0 }
  { channels := Tbl.fill 4 { cnt := low, dir := low, gate := low }, cs := true, sck := false, sdi := false
    tally := { high := true, since := 0 } }

/-- The filters begin at the instant now: every channel pin holds its level from there (R139). -/
def Inputs.filtersFrom (i : Inputs) (now : Instant) : Inputs :=
  { i with channels := i.channels.map (fun c =>
      { cnt := { c.cnt with since := now }, dir := { c.dir with since := now }, gate := { c.gate with since := now } }) }

/-- The station as hardware reset ends: every block at its reset value (R137); the pins keep their levels, and the filters
run from here (R139). -/
def State.atReset (now : Instant) (free : Nat) (straps : Straps) (inputs : Inputs) (wires : List WireChange)
    (pending : List Instr) : State :=
  { now := now, free := free, clock := .reset, line := .reset, roster := .reset, builder := .reset, window := .reset
    pool := .reset, adjust := .reset, ctl := .reset now straps, channels := Tbl.fill 4 .reset, drives := .reset
    port := .reset, inputs := inputs.filtersFrom now, wires := wires, pending := pending }

/-- The machine right after reset. The straps and the input pins stand low, CS high and the tally line recessive, a DESIGN
CHOICE (notes/assumptions/9.md); now and free stand at 0 (notes/assumptions/8.md). -/
def State.reset : State := State.atReset 0 0 { id := 0, rate := false, auto := false } .reset [] []

end Sys2Proof.Machine
end

