-- ==== Sys2Proof/Machine/Operands.lean ====
section
/-! DEFINITION. The operand forms: epoch comparison, station sets, durations, bytes of multi-byte values, the line CRC,
the two digests, and the codes of the service port. -/

namespace Sys2Proof.Machine

/-- x is ahead of y: (x − y) mod 65,536 lies in 1 to 32,767 (00_scope.md, Epoch arithmetic). -/
def ahead (x y : Epoch) : Bool := decide (1 ≤ (x - y).toNat) && decide ((x - y).toNat ≤ 32767)

/-- x is behind y: (x − y) mod 65,536 lies in 32,768 to 65,535 (00_scope.md, Epoch arithmetic). -/
def behind (x y : Epoch) : Bool := decide (32768 ≤ (x - y).toNat)

/-- x is at or ahead of y. -/
def atOrAhead (x y : Epoch) : Bool := x == y || ahead x y

/-- x is at or behind y. -/
def atOrBehind (x y : Epoch) : Bool := x == y || behind x y

/-- Every station number, lowest first. -/
def stations : List Station :=
  [0, 1, 2, 3, 4, 5, 6, 7, 8, 9, 10, 11, 12, 13, 14, 15, 16, 17, 18, 19, 20, 21, 22, 23, 24, 25, 26, 27, 28, 29, 30, 31]

/-- Every channel or drive index, lowest first. -/
def indexes4 : List (Fin 4) := [0, 1, 2, 3]

/-- The map that holds station n alone (R186). -/
def mapOf (n : Station) : StationMap := 1#32 <<< n.val

/-- Station n is in the map (R186). -/
def mapHas (m : StationMap) (n : Station) : Bool := m.getLsbD n.val

/-- The map of the stations that satisfy p. -/
def mapWhere (p : Station → Bool) : StationMap :=
  stations.foldl (fun m n => if p n then m ||| mapOf n else m) 0

/-- A station number as a byte. -/
def stationByte (n : Station) : Byte := BitVec.ofNat 8 n.val

/-- The bit time in nanoseconds: 1 µs at 1 Mbit/s, 4 µs at 250 kbit/s (00_scope.md, Time). -/
def bitTime (rate : Bool) : Int := if rate then 1000 else 4000

/-- n bit times at the station's line rate. -/
def State.bits (s : State) (n : Int) : Int := n * bitTime s.ctl.straps.rate

/-- The epoch period P (R4, R165). -/
def State.period (s : State) : Int := (s.ctl.profile.period : Int) * 1000000

/-- This station's own number, its ID straps (R115). -/
def State.own (s : State) : Station := s.ctl.straps.id

/-- The mark timer's interval P + 64 × n (R4). -/
def State.markInterval (s : State) : Int := s.period + s.bits (64 * (s.own.val : Int))

/-- The listen span and the join silence span, 3 × P + 2,048 bit times (R121, R130). -/
def State.listenSpan (s : State) : Int := 3 * s.period + s.bits 2048

/-- The open-window gap of 24 + 2 × n bit times (R27). -/
def State.windowGap (s : State) : Int := s.bits (24 + 2 * (s.own.val : Int))

/-- The two bytes of a 16-bit value, most significant first (R186). -/
def bytes16 (v : BitVec 16) : List Byte := [v.extractLsb' 8 8, v.extractLsb' 0 8]

/-- The four bytes of a 32-bit value, most significant first (R186). -/
def bytes32 (v : BitVec 32) : List Byte := [v.extractLsb' 24 8, v.extractLsb' 16 8, v.extractLsb' 8 8, v.extractLsb' 0 8]

/-- The eight bytes of a 64-bit value, most significant first (R189). -/
def bytes64 (v : BitVec 64) : List Byte := bytes32 (v.extractLsb' 32 32) ++ bytes32 (v.extractLsb' 0 32)

/-- A byte of single-bit fields, bit 0 first in the list (R186, R189). -/
def flagsByte (l : List Bool) : Byte := l.foldr (fun b (acc : Byte) => (acc <<< 1) ||| (if b then 1 else 0)) 0

/-- One bit of the line CRC (R187): the register's top bit is compared with the data bit, the register shifts, and
0x1021 is combined if they differed. -/
def crcBit (r : Digest) (d : Bool) : Digest := if r.getLsbD 15 != d then (r <<< 1) ^^^ 0x1021#16 else r <<< 1

/-- One byte of the line CRC, most significant bit first (R187). -/
def crcByte (r : Digest) (b : Byte) : Digest := [7, 6, 5, 4, 3, 2, 1, 0].foldl (fun r i => crcBit r (b.getLsbD i)) r

/-- The line CRC of a byte sequence, from a register of all ones (R187). -/
def crc (bytes : List Byte) : Digest := bytes.foldl crcByte 0xFFFF#16

/-- The balance digest of a fold point and the balances of the pools in use (R84). -/
def balanceDigest (point : Epoch) (balances : List (BitVec 32)) : Digest :=
  crc (bytes16 point ++ balances.flatMap bytes32)

/-- The profile digest over line rate, P, F, k, L and A (R167, R188). -/
def profileDigest (rate : Bool) (p : Profile) : Digest :=
  crc ((if rate then 1 else 0) :: bytes16 (BitVec.ofNat 16 p.period) ++
    [BitVec.ofNat 8 p.foldLag, BitVec.ofNat 8 p.pools, BitVec.ofNat 8 p.eviction, BitVec.ofNat 8 p.lead])

/-- v limited to lo to hi. -/
def clampInt (lo hi v : Int) : Int := if v < lo then lo else if hi < v then hi else v

/-- Codes of the life-cycle states (R189). -/
def Life.code : Life → Byte
  | .config => 0 | .listen => 1 | .joining => 2 | .run => 3 | .mute => 4 | .quiet => 5

/-- Codes of the mute causes (R189). -/
def MuteCause.code : MuteCause → Byte
  | .none => 0 | .identity => 1 | .profile => 2 | .join => 3

/-- Codes of the agreement states (R189). -/
def Agreement.code : Agreement → Byte
  | .none => 0 | .agreed => 1 | .uncertain => 2 | .diverged => 3 | .resyncing => 4

/-- Codes of the roster states (R189). -/
def RosterState.code : RosterState → Byte
  | .absent => 0 | .joining => 1 | .present => 2 | .missing => 3 | .gone => 4 | .self => 5

/-- Codes of the record states (R189). -/
def RecordState.code : RecordState → Byte
  | .collecting => 0 | .settled => 1 | .folded => 2

/-- Codes of the pin rows (R189). -/
def PinRow.code : PinRow → Byte
  | .config => 0 | .disabled => 1 | .forced => 2 | .rule => 3 | .uncertain => 4

/-- The outcome byte (R189). -/
def PortOutcome.code : PortOutcome → Byte
  | .done => 0 | .wrongState => 1 | .badArgument => 2 | .noRoom => 3 | .empty => 4

/-- Codes of the event kinds (R190). -/
def EventKind.code : EventKind → Byte
  | .state => 1 | .agreement => 2 | .peer => 3 | .gapExpired => 4 | .gapOverflow => 5 | .adjustApplied => 6
  | .adjustRefused => 7 | .foreignMark => 8 | .profileConflict => 9 | .discontinuity => 10 | .identityConflict => 11
  | .rebaseline => 12 | .lineError => 13 | .batch => 14 | .accOverflow => 15 | .clipped => 16 | .drive => 17

/-- A station number or none as a byte, none as 0xFF (R189). -/
def optStationByte : Option Station → Byte
  | some n => stationByte n
  | none => 0xFF

/-- The six bytes of an event entry (R190). -/
def Event.bytes (e : Event) : List Byte :=
  e.kind.code :: bytes16 e.epoch ++ optStationByte e.subject :: bytes16 e.value

/-- An epoch that may be none, sent as 0 when it is not given (R189). -/
def optEpoch (e : Option Epoch) : Epoch := e.getD 0

/-- The bytes clocked from the outcome byte on: outcome, result, then filler of all ones (R172, R189). -/
def Reply.sdo (r : Reply) (n : Nat) : Byte := (r.outcome.code :: r.result)[n]?.getD 0xFF

end Sys2Proof.Machine
end

