-- ==== Sys2Proof/Machine/Frames.lean ====
section
/-! DEFINITION. The tally-line frames as bytes (R186 to R188): the layouts a sender builds, the checks a receiver makes
(R22) and the fields it reads. -/

namespace Sys2Proof.Machine

/-- The kind codes (R186). -/
def Frame.kindCode : Frame → Byte
  | .mark _ => 0x30 | .report _ => 0x41 | .resend _ => 0x42 | .request _ => 0x53 | .snapshot _ => 0x64
  | .adjust _ => 0x75 | .join _ => 0x86 | .leave _ => 0x97

/-- The sender of a frame (R186). -/
def Frame.sender : Frame → Station
  | .mark f => f.sender | .report f => f.sender | .resend f => f.sender | .request f => f.sender
  | .snapshot f => f.sender | .adjust f => f.sender | .join f => f.sender | .leave f => f.sender

/-- The bytes of a pair: station and epoch (R186). -/
def Pair.bytes (p : Pair) : List Byte := p.station :: bytes16 p.epoch

/-- The bytes of an adjustment item: pool index, kind and value (R186). -/
def RawItem.bytes (i : RawItem) : List Byte := i.pool :: i.kind :: bytes32 i.value

/-- A REPORT's or RESEND's fields from the report epoch on; the fold point and digest are 0 when not given (R186). -/
def reportFields (f : ReportFrame) : List Byte :=
  bytes16 f.epoch ++ BitVec.ofNat 8 f.deltas.length :: f.deltas.flatMap bytes16 ++
    (match f.fold with
     | some m => bytes16 m.point ++ bytes16 m.digest
     | none => [0, 0, 0, 0]) ++
    [flagsByte [f.clean, f.fold.isSome]]

/-- A frame's fields after the sender byte (R186). -/
def Frame.fields : Frame → List Byte
  | .mark f => bytes16 f.epoch ++ flagsByte [f.founding] :: bytes16 f.digest ++ bytes32 f.map
  | .report f => reportFields f
  | .resend f => reportFields f
  | .request f =>
      flagsByte [f.target.isSome] :: f.target.getD 0xFF :: BitVec.ofNat 8 f.pairs.length :: f.pairs.flatMap Pair.bytes
  | .snapshot f =>
      bytes16 f.point ++ BitVec.ofNat 8 f.balances.length :: f.balances.flatMap bytes32 ++ bytes16 f.digest ++
        bytes32 f.map
  | .adjust f =>
      f.serial :: bytes16 f.effective ++ f.pools :: BitVec.ofNat 8 f.items.length :: f.items.flatMap RawItem.bytes
  | .join f => bytes16 f.digest
  | .leave _ => []

/-- A frame's bytes before the CRC (R186). -/
def Frame.body (f : Frame) : List Byte := f.kindCode :: stationByte f.sender :: f.fields

/-- A frame's bytes, the CRC over all before it last (R187). -/
def Frame.bytes (f : Frame) : List Byte := f.body ++ bytes16 (crc f.body)

/-- The ten bits of a byte on the line, true for recessive: a dominant start bit, the eight data bits, least significant
first, and a recessive stop bit (R19, R20). -/
def lineBits (b : Byte) : List Bool :=
  [false, b.getLsbD 0, b.getLsbD 1, b.getLsbD 2, b.getLsbD 3, b.getLsbD 4, b.getLsbD 5, b.getLsbD 6, b.getLsbD 7, true]

/-- A frame's bits on the line, its bytes back to back (R20). -/
def Frame.lineBits (f : Frame) : List Bool := f.bytes.flatMap Sys2Proof.Machine.lineBits

/-- A frame's length in bytes (R22's table). -/
def Frame.size : Frame → Nat
  | .mark _ => 13
  | .report f => 12 + 2 * f.deltas.length
  | .resend f => 12 + 2 * f.deltas.length
  | .request f => 7 + 3 * f.pairs.length
  | .snapshot f => 13 + 4 * f.balances.length
  | .adjust f => 9 + 6 * f.items.length
  | .join _ => 6
  | .leave _ => 4

/-- The 16-bit values of a byte sequence, most significant byte first. -/
def words16 : List Byte → List (BitVec 16)
  | a :: b :: t => (a ++ b) :: words16 t
  | _ => []

/-- The 32-bit values of a byte sequence, most significant byte first. -/
def words32 : List Byte → List (BitVec 32)
  | a :: b :: c :: d :: t => (a ++ b ++ c ++ d) :: words32 t
  | _ => []

/-- The pairs of a byte sequence (R186). -/
def readPairs : List Byte → List Pair
  | s :: a :: b :: t => { station := s, epoch := a ++ b } :: readPairs t
  | _ => []

/-- The adjustment items of a byte sequence (R186). -/
def readItems : List Byte → List RawItem
  | p :: k :: a :: b :: c :: d :: t => { pool := p, kind := k, value := a ++ b ++ c ++ d } :: readItems t
  | _ => []

/-- Reads a REPORT's or RESEND's fields: pool count k and length are checked (R22), and a fold point not given is
disregarded (R188). -/
def readReport (k : Nat) (s : Station) : List Byte → Option ReportFrame
  | e1 :: e0 :: kc :: t =>
      if kc.toNat = k ∧ t.length = 2 * k + 5 then
        match t.drop (2 * k) with
        | [p1, p0, d1, d0, fl] =>
            some { sender := s, epoch := e1 ++ e0, deltas := words16 (t.take (2 * k))
                   fold := if fl.getLsbD 1 then some { point := p1 ++ p0, digest := d1 ++ d0 } else none
                   clean := fl.getLsbD 0 }
        | _ => none
      else none
  | _ => none

/-- Reads a MARK's fields (R186). -/
def readMark (s : Station) : List Byte → Option MarkFrame
  | [e1, e0, fl, d1, d0, m3, m2, m1, m0] =>
      some { sender := s, epoch := e1 ++ e0, founding := fl.getLsbD 0, digest := d1 ++ d0, map := m3 ++ m2 ++ m1 ++ m0 }
  | _ => none

/-- Reads a REQUEST's fields; the target is disregarded while the snapshot-wanted flag is clear (R188). -/
def readRequest (s : Station) : List Byte → Option RequestFrame
  | fl :: tg :: mc :: t =>
      if mc.toNat ≤ 4 ∧ t.length = 3 * mc.toNat then
        some { sender := s, target := if fl.getLsbD 0 then some tg else none, pairs := readPairs t }
      else none
  | _ => none

/-- Reads a SNAPSHOT's fields; the pool count must be k (R22). -/
def readSnapshot (k : Nat) (s : Station) : List Byte → Option SnapshotFrame
  | p1 :: p0 :: kc :: t =>
      if kc.toNat = k ∧ t.length = 4 * k + 6 then
        match t.drop (4 * k) with
        | [d1, d0, m3, m2, m1, m0] =>
            some { sender := s, point := p1 ++ p0, balances := words32 (t.take (4 * k)), digest := d1 ++ d0
                   map := m3 ++ m2 ++ m1 ++ m0 }
        | _ => none
      else none
  | _ => none

/-- Reads an ADJUST's fields; the originator's pool count must lie in 1 to 8 and the item count in 1 to 4 (R22). -/
def readAdjust (s : Station) : List Byte → Option AdjustFrame
  | n :: e1 :: e0 :: pc :: mc :: t =>
      if 1 ≤ pc.toNat ∧ pc.toNat ≤ 8 ∧ 1 ≤ mc.toNat ∧ mc.toNat ≤ 4 ∧ t.length = 6 * mc.toNat then
        some { sender := s, serial := n, effective := e1 ++ e0, pools := pc, items := readItems t }
      else none
  | _ => none

/-- Reads a JOIN's field (R186). -/
def readJoin (s : Station) : List Byte → Option JoinFrame
  | [d1, d0] => some { sender := s, digest := d1 ++ d0 }
  | _ => none

/-- Reads a LEAVE (R186). -/
def readLeave (s : Station) : List Byte → Option LeaveFrame
  | [] => some { sender := s }
  | _ => none

/-- Reads the fields of a frame of the given kind code; an unknown kind gives none (R22). -/
def readFields (k : Nat) (kind : Byte) (s : Station) (t : List Byte) : Option Frame :=
  if kind = 0x30 then (readMark s t).map .mark
  else if kind = 0x41 then (readReport k s t).map .report
  else if kind = 0x42 then (readReport k s t).map .resend
  else if kind = 0x53 then (readRequest s t).map .request
  else if kind = 0x64 then (readSnapshot k s t).map .snapshot
  else if kind = 0x75 then (readAdjust s t).map .adjust
  else if kind = 0x86 then (readJoin s t).map .join
  else if kind = 0x97 then (readLeave s t).map .leave
  else none

/-- Reads a frame's bytes before the CRC; a sender above 31 gives none (R22). -/
def readBody (k : Nat) : List Byte → Option Frame
  | kind :: sender :: t => if h : sender.toNat < 32 then readFields k kind ⟨sender.toNat, h⟩ t else none
  | _ => none

/-- The receiver's checks of a frame that has ended (R22), at a station with pool count k: the good frame, or none for a
frame it discards. A frame is 4 to 64 bytes long (R20, R21). -/
def checkFrame (k : Nat) (bytes : List Byte) : Option Frame :=
  if 4 ≤ bytes.length ∧ bytes.length ≤ 64 then
    let body := bytes.take (bytes.length - 2)
    if bytes.drop (bytes.length - 2) = bytes16 (crc body) then readBody k body else none
  else none

/-- The counts a good frame keeps to at a station with pool count k (R22). -/
def Frame.good (k : Nat) : Frame → Bool
  | .mark _ => true
  | .report f => f.wf && f.deltas.length == k
  | .resend f => f.wf && f.deltas.length == k
  | .request f => f.wf
  | .snapshot f => f.wf && f.balances.length == k
  | .adjust f => f.wf
  | .join _ => true
  | .leave _ => true

end Sys2Proof.Machine
end

