-- ==== Sys2Proof/Machine/Flags.lean ====
section
/-! DEFINITION. What a step shows outside beside its reply: events and the event queue (R182), IRQ (R184), FAULT (R162),
the agreement state and its event (R89), the clean flag (R88), the life-cycle state and its event (R116), and the drive
pins (R156 to R161). -/

namespace Sys2Proof.Machine

/-- An event arises, with cur as its epoch (R182). It enters the queue when the step's other work is done (finish). -/
def State.raise (s : State) (b : Block) (kind : EventKind) (subject : Option Station) (value : BitVec 16) : State :=
  { s with port := { s.port with
      arising := s.port.arising ++ [(b, { kind := kind, epoch := s.clock.cur, subject := subject, value := value })] } }

/-- Brings the events of one instant into one order: events of one block keep theirs, and where several blocks have
events left a free value says which goes first (R182). Answers the order and the counter after the draws. -/
def interleave : Nat → Nat → List (Block × Event) → List Event × Nat
  | 0, n, _ => ([], n)
  | _ + 1, n, [] => ([], n)
  | fuel + 1, n, (b, e) :: t =>
    if t.all (fun p => p.1 == b) then (e :: t.map (fun p => p.2), n)
    else
      let all := (b, e) :: t
      let pick := (all[Config.freeBlock n % all.length]?.getD (b, e)).1
      let first := (all.find? (fun p => p.1 == pick)).getD (b, e)
      let rest := interleave fuel (n + 1) (all.eraseP (fun p => p.1 == pick))
      (first.2 :: rest.1, rest.2)

/-- Events enter the queue one after another; one that finds 32 entries is dropped and sets LOST (R182). -/
def enterEvents : List Event → Bool → List Event → List Event × Bool
  | q, lost, [] => (q, lost)
  | q, lost, e :: t => if q.length < 32 then enterEvents (q ++ [e]) lost t else enterEvents q true t

/-- The condition of the FAULT pin (R162). -/
def State.faultWanted (s : State) : Bool :=
  s.ctl.life == .mute || (s.ctl.life == .run && (s.pool.agreement == .diverged || s.pool.agreement == .resyncing))

/-- The end of a step: its events enter the queue (R182), and IRQ and FAULT follow their conditions (R184, R162); during
hardware reset neither is asserted (R137). -/
def State.finish (s : State) : State :=
  let order := interleave s.port.arising.length s.free s.port.arising
  let q := enterEvents s.port.events s.port.lost order.1
  { s with
    free := order.2
    port := { s.port with events := q.1, lost := q.2, irq := !s.ctl.inReset && (!q.1.isEmpty || q.2), arising := [] }
    drives := { s.drives with fault := !s.ctl.inReset && s.faultWanted } }

/-- A step from outside, dt nanoseconds after the step before (notes/assumptions/1.md). During hardware reset it has no
effect but that time passes (notes/assumptions/10.md). -/
def State.outside (s : State) (dt : Nat) (f : State → State) : Host.Outcome State Fault Refusal :=
  let t := { s with now := s.now + dt }
  .next (if t.ctl.inReset then t else f t).finish

/-- A step of the station's own, whose instant the state fixes (notes/assumptions/2.md). During hardware reset it has no
effect (notes/assumptions/10.md). -/
def State.inside (s : State) (f : State → State) : Host.Outcome State Fault Refusal :=
  .next (if s.ctl.inReset then s else f s).finish

/-- Draws a free choice between two orders. -/
def State.draw (s : State) : State := { s with free := s.free + 1 }

/-- The value the next draw answers. -/
def State.coin (s : State) : Bool := Config.freeOrder s.free

/-- The life-cycle state changes, with its STATE event (R116, R190). -/
def State.setLife (s : State) (l : Life) (c : MuteCause) : State :=
  { s with ctl := { s.ctl with life := l, cause := c } }.raise .controller .state none (l.code ++ c.code)

/-- The agreement state becomes a; a change raises an AGREEMENT event with the given subject (R89). -/
def State.setAgreementFor (s : State) (subject : Option Station) (a : Agreement) : State :=
  if s.pool.agreement = a then s
  else { s with pool := { s.pool with agreement := a } }.raise .pool .agreement subject (a.code.setWidth 16)

/-- The agreement state becomes a; the event's subject is the reference station as the roster holds it (R89). -/
def State.setAgreement (s : State) (a : Agreement) : State := s.setAgreementFor s.roster.reference a

/-- The clean flag takes a value (R88). -/
def State.setClean (s : State) (c : Bool) : State := { s with pool := { s.pool with clean := c } }

/-- What gap expiry, gap loss and a refused adjustment do: clean flag 0, and AGREED becomes UNCERTAIN (R86, R87, R108). -/
def State.loseClean (s : State) : State :=
  if (s.setClean false).pool.agreement = .agreed then (s.setClean false).setAgreement .uncertain else s.setClean false

/-- The row of R158 that governs a drive's pin, for the agreement state ag. -/
def pinRow (life : Life) (ag : Agreement) (cfg : DriveCfg) (mode : DriveMode) : PinRow :=
  if life = .config then .config
  else if cfg.pool = none then .disabled
  else if mode ≠ .auto then .forced
  else if ag = .agreed then .rule
  else .uncertain

/-- The rule states at which a drive in the rule row stands at its active level (R158). -/
def RuleState.active : RuleState → Bool
  | .off => false
  | .arming _ => false
  | .on => true
  | .disarming _ => true

/-- The pin level that stands for active or inactive (R154). -/
def DriveCfg.level (cfg : DriveCfg) (active : Bool) : Bool := active == cfg.activeHigh

/-- The pin level the row gives (R158, R159). -/
def pinLevel (row : PinRow) (cfg : DriveCfg) (d : Drive) (held : Bool) : Bool :=
  match row with
  | .config => false
  | .disabled => false
  | .forced => cfg.level (d.mode == .forceOn)
  | .rule => cfg.level d.rule.active
  | .uncertain =>
    match cfg.action with
    | .hold => cfg.level held
    | .assert => cfg.level true
    | .release => cfg.level false

/-- The held level as a drive comes under a row: set on passing from another row to the uncertain-action row, to the
pin's level just before, or to inactive on leaving CONFIG (R159). -/
def heldLevel (row : PinRow) (cfg : DriveCfg) (d : Drive) : Bool :=
  if row = .uncertain ∧ d.row ≠ .uncertain then
    if d.row = .config then false else d.pin == cfg.activeHigh
  else d.held

/-- The drive as R158 and R159 find it afresh. -/
def Drive.refreshed (d : Drive) (cfg : DriveCfg) (life : Life) (ag : Agreement) : Drive :=
  let row := pinRow life ag cfg d.mode
  let held := heldLevel row cfg d
  { d with row := row, held := held, pin := pinLevel row cfg d held }

/-- Finds drive i's pin afresh for the agreement state ag; a change of level raises a DRIVE event (R161). -/
def State.refreshDrive (s : State) (ag : Agreement) (i : Fin 4) : State :=
  let cfg := s.ctl.profile.drives.get i
  let d := s.drives.drives.get i
  let d' := d.refreshed cfg s.ctl.life ag
  let s' := { s with drives := { s.drives with drives := s.drives.drives.set i d' } }
  if d'.pin = d.pin then s'
  else s'.raise .drive .drive (some (i.castLE (by decide)))
    ((if d'.pin == cfg.activeHigh then 0x100#16 else 0#16) ||| d'.row.code.setWidth 16)

/-- Finds every drive's pin afresh for the agreement state ag (R158). -/
def State.refreshDrivesFor (s : State) (ag : Agreement) : State :=
  indexes4.foldl (fun s i => s.refreshDrive ag i) s

/-- Finds every drive's pin afresh. -/
def State.refreshDrives (s : State) : State := s.refreshDrivesFor s.pool.agreement

/-- The agreement state becomes a, and the drive pins follow at that instant (R89, R158). -/
def State.agree (s : State) (a : Agreement) : State := (s.setAgreement a).refreshDrives

/-- The rule state's move by a balance at an evaluation (R156). -/
def RuleState.next (cfg : DriveCfg) (b : Int) : RuleState → RuleState
  | .off => if cfg.high.toInt ≤ b then (if cfg.riseDwell = 0 then .on else .arming cfg.riseDwell) else .off
  | .arming n => if cfg.high.toInt ≤ b then (if n ≤ 1 then .on else .arming (n - 1)) else .off
  | .on => if b ≤ cfg.low.toInt then (if cfg.fallDwell = 0 then .off else .disarming cfg.fallDwell) else .on
  | .disarming n => if b ≤ cfg.low.toInt then (if n ≤ 1 then .off else .disarming (n - 1)) else .on

/-- Evaluates drive i's rule on its pool's balance; a disabled drive is not evaluated (R155). -/
def State.evaluateDrive (s : State) (i : Fin 4) : State :=
  let cfg := s.ctl.profile.drives.get i
  let d := s.drives.drives.get i
  match cfg.pool with
  | none => s
  | some p =>
    { s with drives := { s.drives with
        drives := s.drives.drives.set i { d with rule := d.rule.next cfg (s.pool.table.get p).balance.toInt } } }

/-- Evaluates every enabled drive's rule (R155). -/
def State.evaluateDrives (s : State) : State := indexes4.foldl (fun s i => s.evaluateDrive i) s

/-- Answers a service-port command: outcome and result are latched (R173). -/
def State.answer (s : State) (o : PortOutcome) (result : List Byte) : State :=
  { s with port := { s.port with reply := some { outcome := o, result := result } } }

end Sys2Proof.Machine
end

