-- ==== Sys2Proof/Machine/Ops.lean ====
section
/-! DEFINITION. The named operations over the station's registers and queues that many commands share: the discarded
count, the send queue, the roster's entries, withdrawal and capture, the epoch clock's new epoch. -/

namespace Sys2Proof.Machine

/-- The instant moves on to t, or stays if it is past t already (notes/assumptions/2.md). -/
def State.until (s : State) (t : Instant) : State := { s with now := if s.now < t then t else s.now }

/-- The states in which the receiver takes frames (R23, R35). -/
def State.listening (s : State) : Bool := s.ctl.life == .listen || s.ctl.life == .joining || s.ctl.life == .run

/-! ### The line access unit -/

/-- The discarded count rises by one, staying at 65,535 (R24). -/
def State.countDiscarded (s : State) : State :=
  { s with line := { s.line with discarded := if s.line.discarded < 65535 then s.line.discarded + 1 else 65535 } }

/-- The discarded count is reported: one LINE_ERROR event if it is above 0, and then it is 0 (R24). -/
def State.reportDiscarded (s : State) : State :=
  if s.line.discarded = 0 then s
  else { s with line := { s.line with discarded := 0 } }.raise .line .lineError none (BitVec.ofNat 16 s.line.discarded)

/-- The class order of the send queue (R31). -/
def QKey.rank : QKey → Nat
  | .resend _ => 0 | .snapshot => 1 | .adjust _ => 2 | .request => 3 | .join => 4 | .leave => 5

/-- The offers a life-cycle state accepts (R30). -/
def acceptsOffer (life : Life) (key : QKey) : Bool := life == .run || (life == .joining && key == .join)

/-- A new entry's place: after every entry of its class or an earlier one (R31). -/
def placeEntry (q : List QEntry) (e : QEntry) : List QEntry :=
  q.takeWhile (fun x => decide (x.key.rank ≤ e.key.rank)) ++ e :: q.dropWhile (fun x => decide (x.key.rank ≤ e.key.rank))

/-- An offered part replaces the entry's part; a part that is not offered is kept (R32). -/
def QEntry.merged (e : QEntry) (target : Option Station) (pairs : Option (List Pair)) : QEntry :=
  { e with target := target <|> e.target, pairs := pairs <|> e.pairs }

/-- The frame in transmission notes a merge that changed its entry's parts (R33). -/
def Tx.noteMerge (t : Tx) (old new : QEntry) : Tx :=
  if t.owner = .queue old.key ∧ new ≠ old then { t with changed := true } else t

/-- An offer to the send queue (R32): refused by the state, merged into the entry of the same class and subject, placed,
or refused by a full queue. Answers the state and whether the offer was accepted or merged. A new entry lets the queue
be taken again in the present gap (R33). -/
def State.offer (s : State) (key : QKey) (target : Option Station) (pairs : Option (List Pair)) : State × Bool :=
  if acceptsOffer s.ctl.life key = false then (s, false)
  else
    match s.line.queue.find? (fun e => e.key == key) with
    | some e =>
      ({ s with line := { s.line with
          queue := s.line.queue.map (fun x => if x.key = key then x.merged target pairs else x)
          tx := s.line.tx.map (fun t => t.noteMerge e (e.merged target pairs)) } }, true)
    | none =>
      if s.line.queue.length < 8 then
        ({ s with line := { s.line with
            queue := placeEntry s.line.queue { key := key, target := target, pairs := pairs }
            taken := false } }, true)
      else (s, false)

/-- An offer of an entry without parts, its answer not needed (R59, R96, R106, R127, R133). -/
def State.offerKey (s : State) (key : QKey) : State := (s.offer key none none).1

/-- The entries with a key leave the send queue. -/
def State.dropEntry (s : State) (key : QKey) : State :=
  { s with line := { s.line with queue := s.line.queue.filter (fun e => e.key != key) } }

/-- A frame, ours or another's, has ended at the instant t: the line is idle from there, and the queue may be taken in
the gap after it (R19, R27, R33). -/
def State.lineIdle (s : State) (t : Instant) : State :=
  { s with line := { s.line with state := .idle t, overlap := false, taken := false } }

/-- Our transmission is over. -/
def State.endTx (s : State) : State := { s with line := { s.line with tx := none } }

/-! ### The roster -/

/-- The entry of station n. -/
def State.entry (s : State) (n : Station) : RosterEntry := s.roster.entries.get n

/-- Entry n is replaced; a change of its state raises a PEER event (R42). -/
def State.setEntry (s : State) (n : Station) (e : RosterEntry) : State :=
  let s' := { s with roster := { s.roster with entries := s.roster.entries.set n e } }
  if e.state = (s.entry n).state then s' else s'.raise .roster .peer (some n) (e.state.code.setWidth 16)

/-- The present map: SELF, PRESENT and MISSING (R41). -/
def State.presentMap (s : State) : StationMap :=
  mapWhere (fun n => (s.entry n).state == .self || (s.entry n).state == .present || (s.entry n).state == .missing)

/-- A mark is taken while the conflict count is above 0: the conflict-free mark count rises, and at 8 both counts
become 0 (R50). -/
def State.conflictFreeMark (s : State) : State :=
  if s.roster.conflicts = 0 then s
  else if 8 ≤ s.roster.conflictFree + 1 then { s with roster := { s.roster with conflicts := 0, conflictFree := 0 } }
  else { s with roster := { s.roster with conflictFree := s.roster.conflictFree + 1 } }

/-! ### The report builder -/

/-- Adds deltas to the carries of pools i, i + 1, … (R56). -/
def addDeltas (carry : Tbl (BitVec 64) 8) : Nat → List (BitVec 16) → Tbl (BitVec 64) 8
  | _, [] => carry
  | i, d :: t =>
    addDeltas (if h : i < 8 then carry.set ⟨i, h⟩ (carry.get ⟨i, h⟩ + d.signExtend 64) else carry) (i + 1) t

/-- Every untransmitted entry is withdrawn into the carry (R56). -/
def State.withdrawAll (s : State) : State :=
  { s with builder :=
    { carry := s.builder.outbox.foldl (fun c e => if e.transmitted then c else addDeltas c 0 e.deltas) s.builder.carry
      outbox := s.builder.outbox.filter (fun e => e.transmitted) } }

/-- No entry carries the slot designation (R57, R61). -/
def State.clearDesignation (s : State) : State :=
  { s with builder := { s.builder with outbox := s.builder.outbox.map (fun e => { e with designated := false }) } }

/-- What a channel hands over at a capture: its accumulator times its sign; a channel in mode OFF hands over nothing
(R144). -/
def channelValue (cfg : ChannelCfg) (c : Channel) : BitVec 64 :=
  if cfg.mode = .off then 0 else if cfg.negative then -(c.acc.signExtend 64) else c.acc.signExtend 64

/-- What the channels mapped to pool p hand over (R54, R144). -/
def State.handedOver (s : State) (p : Fin 8) : BitVec 64 :=
  indexes4.foldl (fun sum i =>
    if (s.ctl.profile.channels.get i).pool = p then sum + channelValue (s.ctl.profile.channels.get i) (s.channels.get i)
    else sum) 0

/-- The delta of a total, limited to ±32,767, and the carry that is left (R54). -/
def clampDelta (total : BitVec 64) : BitVec 16 × BitVec 64 :=
  if 32767 < total.toInt then (32767#16, total - 32767#64)
  else if total.toInt < -32767 then (-32767#16, total + 32767#64)
  else (total.setWidth 16, 0)

/-- The total of pool p at a capture: carry plus what is handed over (R54). -/
def State.captureTotal (s : State) (p : Fin 8) : BitVec 64 := s.builder.carry.get p + s.handedOver p

/-- The deltas of a capture, pools 0 to k − 1 (R54). -/
def State.captureDeltas (s : State) : List (BitVec 16) :=
  (List.range s.ctl.profile.pools).map (fun p => if h : p < 8 then (clampDelta (s.captureTotal ⟨p, h⟩)).1 else 0)

/-- The carries after a capture (R54). -/
def State.captureCarry (s : State) : Tbl (BitVec 64) 8 :=
  (List.range s.ctl.profile.pools).foldl (fun c p =>
    if h : p < 8 then c.set ⟨p, h⟩ (clampDelta (s.captureTotal ⟨p, h⟩)).2 else c) s.builder.carry

/-- The channels after a capture: every accumulator handed over is 0 and its ACC_SAT clear (R144). -/
def State.captureChannels (s : State) : Tbl Channel 4 :=
  indexes4.foldl (fun cs i =>
    if (s.ctl.profile.channels.get i).mode = .off then cs
    else cs.set i { cs.get i with acc := 0, accSat := false }) s.channels

/-- The outbox makes room for a ninth entry: the oldest leaves, withdrawn first if it is untransmitted (R55). -/
def makeRoom (b : Builder) : Builder :=
  if b.outbox.length < 8 then b
  else match b.outbox with
    | [] => b
    | e :: t => { carry := if e.transmitted then b.carry else addDeltas b.carry 0 e.deltas, outbox := t }

/-- The report builder after a capture whose deltas and carries are given; the new entry alone is designated, if the mark
was direct (R54, R55, R57). -/
def placeReport (b : Builder) (epoch : Epoch) (deltas : List (BitVec 16)) (direct : Bool) : Builder :=
  let b' := makeRoom b
  { b' with outbox := b'.outbox.map (fun e => { e with designated := false }) ++
      [{ epoch := epoch, deltas := deltas, transmitted := false, resends := 0, designated := direct }] }

/-- A capture at a mark in RUN (R54). direct is true at the station's own MARK or an accepted MARK, and false at an
implied mark, which offers the report as a RESEND (R57). -/
def State.capture (s : State) (direct : Bool) : State :=
  let s' := { s with
    builder := placeReport { s.builder with carry := s.captureCarry } (s.clock.cur - 1) s.captureDeltas direct
    channels := s.captureChannels }
  if direct then s' else s'.offerKey (.resend (s.clock.cur - 1))

/-- The newest history entry's fold point and digest, as reports carry them (R57, R83). -/
def State.foldMark (s : State) : Option FoldMark :=
  s.pool.history.getLast?.map (fun h => { point := h.point, digest := h.digest })

/-- A REPORT or RESEND of an outbox entry as built at this instant (R57, R60). -/
def State.buildReport (s : State) (e : OutEntry) : ReportFrame :=
  { sender := s.own, epoch := e.epoch, deltas := e.deltas, fold := s.foldMark, clean := s.pool.clean }

/-! ### The epoch clock -/

/-- A new epoch x begins at an origin, paced by p: cur, pacing station, origin and slot-phase timer are set, and a pending
MARK is cancelled (R4, R6, R11, R12, R14, R16). A slot REPORT of the epoch before that still waits is given up, a DESIGN
CHOICE (notes/assumptions/17.md). -/
def State.beginEpoch (s : State) (x : Epoch) (p : Option Station) (origin : Instant) (count : Nat) : State :=
  { s with
    clock := { s.clock with
      cur := x, pacing := p, origin := some origin, slotTimer := .slots, slotCount := count, pending := false }
    line := { s.line with slotWaiting := none } }

/-- The mark timer is reloaded from the instant t (R4). -/
def State.reloadMarkTimer (s : State) (t : Instant) : State :=
  { s with clock := { s.clock with timer := .running (t + s.markInterval) } }

/-- The mark timer is reloaded from t in RUN; it is stopped in every other state (R3, R4). -/
def State.reloadInRun (s : State) (t : Instant) : State := if s.ctl.life = .run then s.reloadMarkTimer t else s

/-- The station controller's join silence timer is reloaded from the present instant (R130). -/
def State.reloadSilence (s : State) : State := { s with ctl := { s.ctl with silence := some (s.now + s.listenSpan) } }

end Sys2Proof.Machine
end

