-- ==== Sys2Proof/Machine/Bits.lean ====
section
/-! DEFINITION. The bits on the tally line: the level the station drives (R19, R20), the instants at which transmitter and
receiver sample it (R21, R25), and what each sample brings. notes/assumptions/41.md. -/

namespace Sys2Proof.Machine

/-- The command by which a good frame comes to the blocks. -/
def Frame.received (dt : Nat) : Frame → Instr
  | .mark f => .markReceived dt f
  | .report f => .reportReceived dt f
  | .resend f => .resendReceived dt f
  | .request f => .requestReceived dt f
  | .snapshot f => .snapshotReceived dt f
  | .adjust f => .adjustReceived dt f
  | .join f => .joinReceived dt f
  | .leave f => .leaveReceived dt f

/-- The receiver comes to a place in the bits on the line. -/
def State.setRx (s : State) (r : Rx) : State := { s with line := { s.line with rx := r } }

/-- The level at which this station stands on the line, true for recessive: the bit of its frame that the present instant
falls in, and recessive while it sends nothing (R19, R20). -/
def State.driven (s : State) : Bool :=
  match s.line.tx with
  | none => true
  | some t => t.frame.lineBits[((s.now - t.began) / s.bits 1).toNat]?.getD true

/-- The level of the line, true for recessive: dominant while any station drives it (R19). -/
def State.lineHigh (s : State) : Bool := s.inputs.tally.high && s.driven

/-- A frame of another station begins on an idle line, and the line is busy from here (R19). -/
def State.frameBegins (s : State) : State :=
  match s.line.state with
  | .idle since =>
    { s with line := { s.line with state := if s.listening ∧ s.line.tx = none then .busy else .idle since } }
  | .off => s
  | .busy => s
  | .abandoned => s

/-- The line falls to dominant while this station is not transmitting: a byte may begin, the first of a frame or the next one
after a stop bit (R21). In CONFIG the receiver is off (R23), and while a frame given up is waited out none begins (R21). -/
def State.lineFalls (s : State) : State :=
  if s.ctl.life = .config ∨ s.line.tx ≠ none then s
  else
    match s.line.rx with
    | .idle => if s.line.state = .abandoned then s else s.frameBegins.setRx (.start s.now [] s.now)
    | .gap stop bytes => s.setRx (.start s.now bytes stop)
    | .start _ _ _ => s
    | .data _ _ _ => s
    | .wait => s

/-- The other stations give the line a level at the present instant; during hardware reset nothing follows from it (R19,
R137). A level already dominant when the receiver is switched on, whose fall it has not seen, is no glitch: its end restarts
no idle time, a DESIGN CHOICE, since R19 and R21 leave it open (notes/assumptions/43.md). -/
def State.lineTakes (s : State) (high : Bool) : State :=
  if s.inputs.tally.high = high then s
  else
    let t : State := { s with inputs := { s.inputs with tally := { high := high, since := s.now } } }
    if high ∨ t.ctl.inReset then t else t.lineFalls

/-- The instant at which bit k of the frame in transmission is sampled, the middle of its bit time (R21, R25). -/
def State.bitSampled (s : State) (t : Tx) (k : Nat) : Instant := t.began + s.bits (2 * (k : Int) + 1) / 2

/-- The first bit of the frame in transmission, of those not sampled yet, that this station sends recessive. -/
def State.nextRecessive (s : State) (t : Tx) : Option Nat :=
  (t.frame.lineBits.zipIdx.find? (fun p => p.1 && decide (s.now ≤ s.bitSampled t p.2))).map (fun p => p.2)

/-- The instant of the next sample that can bring anything, while the levels stay as they are. A transmitter reads back
dominant for recessive only while others drive the line (R25). A receiver samples half a bit time after a fall, and then
the data bits and the stop bit in the middle of their bit times (R21); the end of a frame, or of one given up, comes when
the line has been recessive for 3 bit times (R20, R21). -/
def State.nextSample (s : State) : Option Instant :=
  if s.ctl.inReset ∨ s.ctl.life = .config then none
  else
    match s.line.tx with
    | some t => if s.inputs.tally.high then none else (s.nextRecessive t).map (s.bitSampled t)
    | none =>
      match s.line.rx with
      | .idle => none
      | .start fall _ _ => some (fall + s.bits 1 / 2)
      | .data fall bits _ => some (fall + s.bits (2 * (bits.length : Int) + 3) / 2)
      | .gap stop _ => if s.inputs.tally.high then some (max stop s.inputs.tally.since + s.bits 3) else none
      | .wait => if s.inputs.tally.high then some (s.inputs.tally.since + s.bits 3) else none

/-- The receiver's place as the frame in transmission loses arbitration at its bit k: it has sampled the same bits and goes
on with the other station's frame from where it stands (R25). -/
def State.rxAfter (s : State) (t : Tx) (k : Nat) : Rx :=
  .data (t.began + s.bits (10 * ((k / 10 : Nat) : Int)))
    ((t.frame.lineBits.drop (10 * (k / 10) + 1)).take (k % 10 - 1)) (t.frame.bytes.take (k / 10))

/-- The command that a frame of these bytes brings as it ends: a good frame is handed on, and any other is discarded
(R22, R23). -/
def frameEnded (k : Nat) (bytes : List Byte) : Instr :=
  match checkFrame k bytes with
  | some f => f.received 0
  | none => .frameDiscarded 0 bytes

/-- The receiver gives up the frame in progress, and waits for the line to be recessive for 3 bit times (R21). -/
def State.rxGivesUp (s : State) : State × Option (Instr × Instant) := (s.setRx .wait, some (.frameAbandoned 0, s.now))

/-- The sample half a bit time after a fall (R21): a start bit begins the next byte, the 65th of a frame makes it too long,
and a recessive line tells that the fall was a glitch. -/
def State.sampleStart (s : State) (fall : Instant) (bytes : List Byte) (stop : Instant) :
    State × Option (Instr × Instant) :=
  if s.lineHigh then
    if bytes = [] then
      let t := s.setRx .idle
      (if t.line.state = .busy ∧ t.listening then { t with line := { t.line with state := .idle fall } } else t,
        some (.glitch 0, s.inputs.tally.since))
    else (s.setRx (.gap stop bytes), none)
  else if 64 ≤ bytes.length then s.rxGivesUp
  else (s.setRx (.data fall [] bytes), none)

/-- The sample of a data bit, or of the stop bit after the eighth; a dominant stop bit is a framing fault (R21). -/
def State.sampleData (s : State) (fall : Instant) (bits : List Bool) (bytes : List Byte) :
    State × Option (Instr × Instant) :=
  if bits.length < 8 then (s.setRx (.data fall (bits ++ [s.lineHigh]) bytes), none)
  else if s.lineHigh then (s.setRx (.gap (fall + s.bits 10) (bytes ++ [flagsByte bits])), none)
  else s.rxGivesUp

/-- What the sample that is due brings: the state, with the command to take next and the instant it is taken as of. -/
def State.sample (s : State) : State × Option (Instr × Instant) :=
  match s.line.tx with
  | some t =>
    match s.nextRecessive t with
    | some k => (s.setRx (s.rxAfter t k), some (.arbitrationLost 0, s.now))
    | none => (s, none)
  | none =>
    match s.line.rx with
    | .idle => (s, none)
    | .start fall bytes stop => s.sampleStart fall bytes stop
    | .data fall bits bytes => s.sampleData fall bits bytes
    | .gap stop bytes => (s.setRx .idle, some (frameEnded s.ctl.profile.pools bytes, stop))
    | .wait => (s.setRx .idle, some (.abandonedFrameEnd 0, s.inputs.tally.since + s.bits 3))

/-- The idle time runs from the end of a glitch that came after the frame's last stop bit, the line having this level (R19).
-/
def State.idleFromGlitch (s : State) (tally : Pin) : State :=
  match s.line.state with
  | .idle t => { s with line := { s.line with state := .idle (if tally.high then max t tally.since else t) } }
  | .off => s
  | .busy => s
  | .abandoned => s

end Sys2Proof.Machine
end

