-- ==== Sys2Proof/Machine/Channels.lean ====
section
/-! DEFINITION. The steps of the channel unit: FILTERED_CNT_RISE, FILTERED_DIR_CHANGE, FILTERED_GATE_RISE,
FILTERED_GATE_FALL (R139 to R148, R152). The filters that bring them about from the pins are in Machine/Pins.lean. -/

namespace Sys2Proof.Machine

/-- Channel i is replaced. -/
def State.setChannel (s : State) (i : Fin 4) (c : Channel) : State := { s with channels := s.channels.set i c }

/-- The profile items the channel unit has taken: the defaults until the freeze, the frozen ones from then on (R138, R152,
R153, R170). -/
def State.takenChannel (s : State) (i : Fin 4) : ChannelCfg :=
  (if s.ctl.frozen then s.ctl.profile else Profile.default).channels.get i

/-- Channel i's filter width in nanoseconds (R138, R166: steps of 0.5 µs), as the channel unit has taken it. -/
def State.filterWidth (s : State) (i : Fin 4) : Int := 500 * ((s.takenChannel i).width : Int)

/-- An input pin of a channel. -/
def ChannelPins.get (c : ChannelPins) : InputPin → Pin
  | .cnt => c.cnt | .dir => c.dir | .gate => c.gate

/-- A channel's pins with one of them replaced. -/
def ChannelPins.set (c : ChannelPins) (x : InputPin) (p : Pin) : ChannelPins :=
  match x with
  | .cnt => { c with cnt := p }
  | .dir => { c with dir := p }
  | .gate => { c with gate := p }

/-- A pin of channel i. -/
def State.pin (s : State) (i : Fin 4) (x : InputPin) : Pin := (s.inputs.channels.get i).get x

/-- A pin of channel i is replaced. -/
def State.setPin (s : State) (i : Fin 4) (x : InputPin) (p : Pin) : State :=
  { s with inputs := { s.inputs with channels := s.inputs.channels.set i ((s.inputs.channels.get i).set x p) } }

/-- A filtered change to a level shows that the pin has held it for the filter width (R139, notes/assumptions/15.md). -/
def State.sawPin (s : State) (i : Fin 4) (x : InputPin) (high : Bool) : State :=
  if (s.pin i x).high = high then s else s.setPin i x { high := high, since := s.now - s.filterWidth i }

/-- The rise at the instant now is taken: the first, or at least 5 µs after the last one taken (R140). -/
def riseTaken (last : Option Instant) (now : Instant) : Bool :=
  match last with
  | none => true
  | some t => decide (t + 5000 ≤ now)

/-- The mode and the gate let a rise make a count (R141). -/
def countMade (cfg : ChannelCfg) (c : Channel) : Bool := cfg.mode != .off && (!cfg.gateUse || c.gateHigh)

/-- The direction of a count: down is true for −1 (R141). -/
def countDown (cfg : ChannelCfg) (c : Channel) : Bool := cfg.mode == .pulseDir && c.dirHigh

/-- The accumulator's limit in the direction of a count (R142). -/
def accLimit (down : Bool) : BitVec 32 := if down then -2147483647#32 else 2147483647#32

/-- A value one further in a direction. -/
def stepValue (v : BitVec 32) (down : Bool) : BitVec 32 := if down then v - 1 else v + 1

/-- The batch count after a count: one further, or kept at its limit (R146). -/
def nextBatch (v : BitVec 32) (down : Bool) : BitVec 32 :=
  if v = (if down then 0x80000000#32 else 0x7FFFFFFF#32) then v else stepValue v down

/-- The channel after a count: the accumulator accepts or refuses it, the lifetime count rises, and in gate use USE the
batch count moves (R142, R143, R146). -/
def Channel.counted (c : Channel) (cfg : ChannelCfg) (down : Bool) : Channel :=
  { c with
    acc := if c.acc = accLimit down then c.acc else stepValue c.acc down
    accSat := c.accSat || c.acc == accLimit down
    lifetime := c.lifetime + 1
    batch := if cfg.gateUse then nextBatch c.batch down else c.batch }

/-- The channel unit takes a count; the first refused one of a saturation raises ACC_OVERFLOW (R142). -/
def State.count (s : State) (i : Fin 4) (down : Bool) : State :=
  let c := s.channels.get i
  let s' := s.setChannel i (c.counted (s.ctl.profile.channels.get i) down)
  if c.acc = accLimit down ∧ c.accSat = false then
    s'.raise .channel .accOverflow (some (i.castLE (by decide))) (if down then 0 else 1)
  else s'

/-- A filtered CNT rise outside CONFIG (R140, R141). -/
def State.cntRise (s : State) (i : Fin 4) : State :=
  let c := s.channels.get i
  if riseTaken c.lastRise s.now then
    let s' := s.setChannel i { c with lastRise := some s.now }
    let cfg := s.ctl.profile.channels.get i
    if countMade cfg c then s'.count i (countDown cfg c) else s'
  else s

/-- A filtered CNT rise: the level is high, and outside CONFIG the channel takes the rise (R139, R145, R152). -/
def State.cntEdge (s : State) (i : Fin 4) : State :=
  let s' := s.setChannel i { s.channels.get i with cntHigh := true }
  if s.ctl.life = .config then s' else s'.cntRise i

/-- A filtered CNT fall: the level is low (R139). -/
def State.cntFall (s : State) (i : Fin 4) : State := s.setChannel i { s.channels.get i with cntHigh := false }

/-- FILTERED_CNT_RISE (R141). -/
def execFilteredCntRise (dt : Nat) (ch : Fin 4) (s : State) : Host.Outcome State Fault Refusal :=
  s.outside dt (fun s => (s.sawPin ch .cnt true).cntEdge ch)

/-- A filtered DIR change: the level turns over (R139, R141). -/
def State.dirEdge (s : State) (i : Fin 4) : State :=
  s.setChannel i { s.channels.get i with dirHigh := !(s.channels.get i).dirHigh }

/-- FILTERED_DIR_CHANGE (R141). -/
def execFilteredDirChange (dt : Nat) (ch : Fin 4) (s : State) : Host.Outcome State Fault Refusal :=
  s.outside dt (fun s => (s.sawPin ch .dir (!(s.channels.get ch).dirHigh)).dirEdge ch)

/-- The gate's edges act on batches: gate use USE, a mode other than OFF, outside CONFIG (R146, R147, R152). -/
def State.gateActs (s : State) (i : Fin 4) : Bool :=
  s.ctl.life != .config && (s.ctl.profile.channels.get i).gateUse && (s.ctl.profile.channels.get i).mode != .off

/-- A filtered GATE rise: the level is high, and a batch opens at 0 (R139, R146). -/
def State.gateRise (s : State) (i : Fin 4) : State :=
  let c := s.channels.get i
  if c.gateHigh then s
  else s.setChannel i { c with gateHigh := true, batch := if s.gateActs i then 0 else c.batch }

/-- FILTERED_GATE_RISE (R146). -/
def execFilteredGateRise (dt : Nat) (ch : Fin 4) (s : State) : Host.Outcome State Fault Refusal :=
  s.outside dt (fun s => (s.sawPin ch .gate true).gateRise ch)

/-- The BATCH event's value: the limited batch value in 15 bits, bit 15 set if overwritten (R147, R190). -/
def batchValue (batch : BitVec 32) (overwritten : Bool) : BitVec 16 :=
  ((BitVec.ofInt 15 (clampInt (-16384) 16383 batch.toInt)).setWidth 16) ||| (if overwritten then 0x8000#16 else 0)

/-- The holder after a batch capture (R147). -/
def Holder.captured (h : Holder) (batch : BitVec 32) : Holder :=
  { value := batch, new := true, overwritten := h.overwritten || h.new }

/-- A filtered GATE fall: the level is low, and the batch is captured (R139, R147). -/
def State.gateFall (s : State) (i : Fin 4) : State :=
  let c := s.channels.get i
  if c.gateHigh = false then s
  else if s.gateActs i then
    let holder := c.holder.captured c.batch
    (s.setChannel i { c with gateHigh := false, holder := holder }).raise .channel .batch (some (i.castLE (by decide)))
      (batchValue c.batch holder.overwritten)
  else s.setChannel i { c with gateHigh := false }

/-- FILTERED_GATE_FALL (R147). -/
def execFilteredGateFall (dt : Nat) (ch : Fin 4) (s : State) : Host.Outcome State Fault Refusal :=
  s.outside dt (fun s => (s.sawPin ch .gate false).gateFall ch)

end Sys2Proof.Machine
end

