-- ==== Sys2Proof/Machine/PoolOps.lean ====
section
/-! DEFINITION. The pool unit's, adjustment unit's and epoch window's shared operations: saturating additions (R80),
folds and late folds (R71, R72, R81), gaps (R86, R87), reports taken (R66 to R69), comparisons and snapshot requests
(R90 to R93), snapshots tested and installed (R98, R99). -/

namespace Sys2Proof.Machine

/-! ### Balances -/

/-- The saturating sum, and the limit it met: true for the upper (R80). -/
def satAdd (b v : BitVec 32) : BitVec 32 × Option Bool :=
  if 2147483647 < b.toInt + v.toInt then (0x7FFFFFFF#32, some true)
  else if b.toInt + v.toInt < -2147483648 then (0x80000000#32, some false)
  else (b + v, none)

/-- Adds v to pool p's balance. An addition that saturates a pool whose CLIPPED flag is clear sets the flag and raises a
CLIPPED event (R80). -/
def State.addBalance (s : State) (p : Fin 8) (v : BitVec 32) : State :=
  let e := s.pool.table.get p
  let r := satAdd e.balance v
  let s' := { s with pool := { s.pool with
    table := s.pool.table.set p { balance := r.1, clipped := e.clipped || r.2.isSome } } }
  match r.2 with
  | none => s'
  | some upper =>
    if e.clipped then s'
    else s'.raise .pool .clipped (some (p.castLE (by decide))) (if upper then 1 else 0)

/-- Adds values to pools i, i + 1, …, each on its own, in pool order (R80, R81). -/
def State.addEach (s : State) : Nat → List (BitVec 32) → State
  | _, [] => s
  | i, v :: t => State.addEach (if h : i < 8 then s.addBalance ⟨i, h⟩ v else s) (i + 1) t

/-- The balances of the pools in use, pool 0 first (R79). -/
def State.balances (s : State) : List (BitVec 32) := (s.pool.table.rows.take s.ctl.profile.pools).map (fun e => e.balance)

/-- The balances of pools i, i + 1, … become the given values; the CLIPPED flags stay (R80, R99, R124). -/
def setBalances (t : Tbl PoolEntry 8) : Nat → List (BitVec 32) → Tbl PoolEntry 8
  | _, [] => t
  | i, v :: r => setBalances (if h : i < 8 then t.set ⟨i, h⟩ { t.get ⟨i, h⟩ with balance := v } else t) (i + 1) r

/-- An adjustment's item is applied: SET replaces the balance, ADD adds with saturation (R80, R110). -/
def State.applyItem (s : State) (i : AdjItem) : State :=
  if h : i.pool < 8 then
    if i.set then
      { s with pool := { s.pool with
        table := s.pool.table.set ⟨i.pool, h⟩ { s.pool.table.get ⟨i.pool, h⟩ with balance := i.value } } }
    else s.addBalance ⟨i.pool, h⟩ i.value
  else s

/-- An adjustment's items are applied in the order they were posted (R81). -/
def State.applyItems (s : State) (a : Adjustment) : State := a.items.foldl State.applyItem s

/-- An adjustment falls due: its items are applied, and ADJUST_APPLIED is raised (R110). It is raised as an event of the
pool unit, after the CLIPPED events of its items: a DESIGN CHOICE, notes/assumptions/40.md. -/
def State.applyDue (s : State) (a : Adjustment) : State :=
  (s.applyItems a).raise .pool .adjustApplied (some a.originator) (a.serial.setWidth 16)

/-! ### Gaps -/

/-- The gap list's order: oldest epoch first, then lowest station (R86). -/
def gapBefore (a b : Gap) : Bool := behind a.epoch b.epoch || (a.epoch == b.epoch && decide (a.station < b.station))

/-- A gap enters the list in its place; no pair appears twice (R86). -/
def insertGap (l : List Gap) (g : Gap) : List Gap :=
  if l.contains g then l
  else l.takeWhile (fun x => gapBefore x g) ++ g :: l.dropWhile (fun x => gapBefore x g)

/-- The gaps of a record at its fold: expected, not heard, and neither GONE nor ABSENT (R71). -/
def State.gapsOf (s : State) (r : Record) : List Gap :=
  (stations.filter (fun n => mapHas r.expected n && !mapHas r.heard n &&
    (s.entry n).state != .gone && (s.entry n).state != .absent)).map (fun n => { station := n, epoch := r.epoch })

/-- Gaps are handed over one after another; one that finds sixteen is lost. Answers the list and how many were lost
(R86). -/
def enterGaps : List Gap → Nat → List Gap → List Gap × Nat
  | l, lost, [] => (l, lost)
  | l, lost, g :: t => if l.length < 16 then enterGaps (insertGap l g) lost t else enterGaps l (lost + 1) t

/-- The gaps of a folded record are entered, and lost ones reported (R86). -/
def State.openGaps (s : State) (r : Record) : State :=
  let g := enterGaps s.pool.gaps 0 (s.gapsOf r)
  let s' := { s with pool := { s.pool with gaps := g.1 } }
  if g.2 = 0 then s' else (s'.raise .pool .gapOverflow none (BitVec.ofNat 16 g.2)).loseClean

/-- The gap (n, e) is closed if it is open (R87). -/
def State.closeGap (s : State) (n : Station) (e : Epoch) : State :=
  { s with pool := { s.pool with gaps := s.pool.gaps.filter (fun g => g != { station := n, epoch := e }) } }

/-- The gaps of epoch e expire, with one GAP_EXPIRED event each, in list order (R87). -/
def State.expireGaps (s : State) (e : Epoch) : State :=
  let out := s.pool.gaps.filter (fun g => g.epoch == e)
  if out = [] then s
  else
    let s' := { s with pool := { s.pool with gaps := s.pool.gaps.filter (fun g => g.epoch != e) } }
    (out.foldl (fun s g => s.raise .pool .gapExpired (some g.station) g.epoch) s').loseClean

/-! ### Folds -/

/-- Every record of epoch e is replaced by f of it; there is at most one (R62). -/
def State.changeRecord (s : State) (e : Epoch) (f : Record → Record) : State :=
  { s with window := { s.window with records := s.window.records.map (fun r => if r.epoch = e then f r else r) } }

/-- The record of epoch e, if it is held. -/
def State.record (s : State) (e : Epoch) : Option Record := s.window.records.find? (fun r => r.epoch == e)

/-- The oldest record held. -/
def State.oldest (s : State) : Option Record := s.window.records.getLast?

/-- The pool unit takes the adjustments due at e: they leave the queue, are applied in its order, and are listed in the
record (R81, R110). -/
def State.applyDueAt (s : State) (e : Epoch) : State :=
  let due := s.adjust.queue.filter (fun a => a.effective == e)
  let s' := { s with adjust := { s.adjust with queue := s.adjust.queue.filter (fun a => a.effective != e) } }
  (due.foldl State.applyDue s').changeRecord e (fun r => { r with applied := due })

/-- Steps 1 and 2 of a fold: the record's sums, its gaps, the adjustments due; the record becomes FOLDED (R71, R81). -/
def State.foldRecord (s : State) (r : Record) : State :=
  (((s.addEach 0 r.sums).openGaps r).applyDueAt r.epoch).changeRecord r.epoch (fun x => { x with state := .folded })

/-- The late fold: the late pending of every FOLDED record, other than one folded at this same mark, is added to the
balances, oldest record first, and set to 0 (R72, R82). -/
def State.lateFold (s : State) (skip : Option Epoch) : State :=
  let due := s.window.records.filter (fun r => r.state == .folded && some r.epoch != skip)
  let s' := due.reverse.foldl (fun s r => s.addEach 0 r.late) s
  { s' with window := { s'.window with records := s'.window.records.map (fun r =>
      if r.state = .folded ∧ some r.epoch ≠ skip then { r with late := r.late.map (fun _ => 0) } else r) } }

/-- The digest of the balances as they stand at a fold point. -/
def State.digestAt (s : State) (e : Epoch) : Digest := balanceDigest e s.balances

/-- Step 4 of a fold: the latest fold point becomes e, and the digest history takes an entry for it, the oldest leaving if
it holds eight (R81, R83). -/
def State.recordDigest (s : State) (e : Epoch) : State :=
  let entry : HistEntry := { point := e, digest := s.digestAt e, complete := s.pool.gaps.isEmpty }
  { s with pool := { s.pool with
    foldPoint := some e
    history := (if s.pool.history.length < 8 then s.pool.history else s.pool.history.tail) ++ [entry] } }

/-- The fold at a mark: record cur − 1 − F if it is held and not folded, the late fold in any case, and the digest of a
fold (R64, R71, R72, R81). -/
def State.foldAtMark (s : State) : State :=
  let e := s.clock.cur - 1 - BitVec.ofNat 16 s.ctl.profile.foldLag
  match s.record e with
  | some r =>
    if r.state = .folded then s.lateFold none
    else ((s.foldRecord r).lateFold (some e)).recordDigest e
  | none => s.lateFold none

/-- Ageing: with eight records held the oldest leaves, and its gaps expire (R64, R73). -/
def State.age (s : State) : State :=
  if s.window.records.length < 8 then s
  else match s.oldest with
    | none => s
    | some r => { s with window := { s.window with records := s.window.records.dropLast } }.expireGaps r.epoch

/-- The expected set of a new record: PRESENT and MISSING stations, and this one if it counts as in RUN (R64). -/
def State.expectedNow (s : State) (inRun : Bool) : StationMap :=
  mapWhere (fun n => (n == s.own && inRun) || (s.entry n).state == .present || (s.entry n).state == .missing)

/-- Record cur − 1 is created, SETTLED if its expected set is empty (R64). -/
def State.createRecord (s : State) (inRun : Bool) : State :=
  let expected := s.expectedNow inRun
  { s with window := { s.window with records :=
      { epoch := s.clock.cur - 1, state := if expected = 0 then .settled else .collecting, expected := expected
        heard := 0, sums := List.replicate s.ctl.profile.pools 0, late := List.replicate s.ctl.profile.pools 0
        applied := [] } :: s.window.records } }

/-! ### Reports taken -/

/-- Deltas added to a record's 32-bit values, pool by pool (R62). -/
def addValues (values : List (BitVec 32)) (deltas : List (BitVec 16)) : List (BitVec 32) :=
  List.zipWith (fun v d => v + d.signExtend 32) values deltas

/-- A record takes a report of station n: an unheard one by R66 or, in FOLDED, as a late arrival by R67; a duplicate is
ignored (R68). -/
def Record.take (r : Record) (n : Station) (deltas : List (BitVec 16)) : Record :=
  if mapHas r.heard n then r
  else
    let heard := r.heard ||| mapOf n
    let expected := r.expected ||| mapOf n
    { r with
      sums := addValues r.sums deltas
      late := if r.state = .folded then addValues r.late deltas else r.late
      heard := heard
      expected := expected
      state := if r.state = .collecting ∧ heard = expected then .settled else r.state }

/-- The window takes station n's report for epoch e: the record of e takes it, a late arrival closes its gap, and a report
for no record held is stale (R65 to R69). -/
def State.takeReport (s : State) (n : Station) (e : Epoch) (deltas : List (BitVec 16)) : State :=
  match s.record e with
  | none => s
  | some r =>
    let s' := s.changeRecord e (fun r => r.take n deltas)
    if r.state = .folded ∧ mapHas r.heard n = false then s'.closeGap n e else s'

/-! ### Agreement -/

/-- The snapshot part is offered to the send queue, naming the target; not while the hold-back count is above 0, nor with
no target (R93, R95, notes/assumptions/25.md). Answers whether it was accepted or merged. -/
def State.offerSnapshotPart (s : State) : State × Bool :=
  match s.pool.target with
  | none => (s, false)
  | some t => if s.pool.holdBack = 0 then s.offer .request (some t) none else (s, false)

/-- A DIVERGED station offers its snapshot part; accepted or merged, it becomes RESYNCING with the wait count at 0
(R93). -/
def State.requestSnapshot (s : State) : State :=
  let r := s.offerSnapshotPart
  if r.2 then ({ r.1 with pool := { r.1.pool with wait := 0 } }).agree .resyncing else r.1

/-- A held snapshot is discarded. -/
def State.dropHeld (s : State) : State := { s with pool := { s.pool with held := none } }

/-- The comparison of the reference's report with the own history entry h (R90). -/
def State.compareWith (s : State) (h : HistEntry) (d : Digest) (clean : Bool) : State :=
  if d = h.digest then
    let s' := { s with pool := { s.pool with
      clean := s.pool.clean || clean, held := none, noComparison := 0 } }
    s'.agree .agreed
  else if h.complete = false then s
  else
    let s' := { s with pool := { s.pool with noComparison := 0 } }
    if s.pool.agreement = .agreed ∨ s.pool.agreement = .uncertain then
      let d := s'.agree .diverged
      ({ d with pool := { d.pool with target := s.roster.reference } }).requestSnapshot
    else s'

/-- The pool unit is handed a good REPORT or RESEND (R90). A frame with the station's own number is not compared
(R91, R93, notes/assumptions/23.md). -/
def State.compare (s : State) (f : ReportFrame) : State :=
  if s.ctl.life = .run ∧ s.roster.reference = some f.sender ∧ f.sender ≠ s.own then
    match f.fold with
    | none => s
    | some m =>
      match s.pool.history.find? (fun h => h.point == m.point) with
      | none => s
      | some h => s.compareWith h m.digest f.clean
  else s

/-! ### Snapshots -/

/-- The fold floor (R102). -/
def State.foldFloor (s : State) : Epoch :=
  match s.pool.foldPoint with
  | some f => f + 1
  | none => match s.oldest with
    | some r => r.epoch
    | none => s.clock.cur

/-- The test of a SNAPSHOT at its arrival (R98). -/
def State.installable (s : State) (f : SnapshotFrame) : Bool :=
  f.digest == balanceDigest f.point f.balances &&
  (match s.oldest with
   | none => false
   | some r => atOrAhead (f.point + 1) r.epoch) &&
  atOrBehind f.point (s.clock.cur - BitVec.ofNat 16 s.ctl.profile.foldLag)

/-- An installable snapshot is held; it replaces a held one when its fold point is at or ahead of that one's (R98). -/
def State.holdSnapshot (s : State) (f : SnapshotFrame) : State :=
  let new : HeldSnapshot := { point := f.point, balances := f.balances, map := f.map }
  match s.pool.held with
  | none => { s with pool := { s.pool with held := some new } }
  | some h => if atOrAhead f.point h.point then { s with pool := { s.pool with held := some new } } else s

/-- The second test of a snapshot with fold point p (R99): the records from p + 1 on are held, oldest being the oldest
one, and p is at or behind the latest fold point. -/
def installTest (p : Epoch) (oldest : Option Record) (foldPoint : Option Epoch) : Bool :=
  match oldest, foldPoint with
  | some r, some f => atOrAhead (p + 1) r.epoch && atOrBehind p f
  | _, _ => false

/-- A joiner's second test, decided at the start of the mark's responses on the window as the mark's fold and ageing leave
it (R99). -/
def State.joinInstall (s : State) : Bool :=
  let e := s.clock.cur - 1 - BitVec.ofNat 16 s.ctl.profile.foldLag
  let point := if (s.record e).isSome then some e else s.pool.foldPoint
  let records := if s.window.records.length < 8 then s.window.records else s.window.records.dropLast
  match s.pool.held with
  | none => false
  | some h => installTest h.point records.getLast? point

/-- The replay of one record: its sums, then its applied adjustments, with no ADJUST_APPLIED event (R99). -/
def State.replayRecord (s : State) (r : Record) : State := r.applied.foldl State.applyItems (s.addEach 0 r.sums)

/-- The records a snapshot at p replays: FOLDED and ahead of p, oldest first (R99). -/
def State.replayed (s : State) (p : Epoch) : List Record :=
  (s.window.records.filter (fun r => r.state == .folded && ahead r.epoch p)).reverse

/-- Steps 1 to 7 of an install (R99). The drive pins follow with the mark's evaluation (R155). -/
def State.install (s : State) (h : HeldSnapshot) : State :=
  let s1 := { s with pool := { s.pool with table := setBalances s.pool.table 0 (h.balances.take s.ctl.profile.pools) } }
  let s2 := (s.replayed h.point).foldl State.replayRecord s1
  let records := s2.window.records.map (fun r => { r with late := r.late.map (fun _ => 0) })
  let s3 := { s2 with window := { s2.window with records := records } }
  let gaps := s3.pool.gaps.filter (fun g => !(atOrBehind g.epoch h.point) && mapHas h.map g.station)
  let s4 := { s3 with pool := { s3.pool with gaps := gaps, clean := true, history := [] } }
  let s5 := match s4.pool.foldPoint with
    | none => s4
    | some f => s4.recordDigest f
  let s6 := s5.setAgreement .agreed
  { s6 with pool := { s6.pool with target := none, held := none, wait := 0, holdBack := 0, noComparison := 0 } }

/-- The counts of a mark of R64: the hold-back count falls; at 0, a RESYNCING station without a held snapshot raises its
wait count, which at 3 sets the target to the reference (R94, R95, notes/assumptions/24.md). -/
def State.countMark (s : State) : State :=
  if 0 < s.pool.holdBack then { s with pool := { s.pool with holdBack := s.pool.holdBack - 1 } }
  else if s.pool.agreement = .resyncing ∧ s.pool.held = none then
    if 3 ≤ s.pool.wait + 1 then { s with pool := { s.pool with wait := 0, target := s.roster.reference } }
    else { s with pool := { s.pool with wait := s.pool.wait + 1 } }
  else s

end Sys2Proof.Machine
end

