-- ==== Sys2Proof/Machine/LifeOps.lean ====
section
/-! DEFINITION. The station controller's changes of state, with every block's response to them: MUTE and QUIET (R134,
R135), the path of RESTART (R136), leaving CONFIG (R120, R170), founding (R124), and identity conflicts (R50). -/

namespace Sys2Proof.Machine

/-- The line access unit cuts off the frame in transmission and empties its queue (R30, R35). A frame of another station that
is on the line stays there and may be received yet, its overlap indication cleared: a DESIGN CHOICE, since R35 says of the
receiver only what it is to do (notes/assumptions/36.md). -/
def State.cutOff (s : State) : State :=
  { s with line := { s.line with tx := none, overlap := false, queue := [], slotWaiting := none, taken := false } }

/-- The epoch clock's timers stop as MUTE or QUIET is entered; cur, pacing station, origin and count are kept (R18). -/
def Clock.frozen (c : Clock) : Clock :=
  { c with timer := .stopped, pending := false, slotTimer := .stopped, probation := 0 }

/-- What the pool unit clears as MUTE or QUIET is entered; the rest is frozen (R100). -/
def Pool.frozen (p : Pool) : Pool :=
  { p with target := none, held := none, holdBack := 0, wait := 0, noComparison := 0, uncleanSelf := 0 }

/-- The station enters MUTE with a cause, or QUIET (R134, R135, and the columns of R18, R35, R61, R100, R163). -/
def State.enterFrozen (s : State) (life : Life) (cause : MuteCause) : State :=
  let s1 := s.cutOff.withdrawAll.clearDesignation.reportDiscarded
  let s2 := { s1 with
    clock := s1.clock.frozen
    pool := s1.pool.frozen
    ctl := { s1.ctl with leave := .none, listenTimer := none, silence := none } }
  ((s2.setLife life cause).setAgreement .none).refreshDrives

/-- One identity conflict is counted; the third mutes the station (R50). -/
def State.countConflict (s : State) : State :=
  let n := s.roster.conflicts + 1
  let s' := { s with roster := { s.roster with conflicts := n, conflictFree := 0 } }.raise .roster .identityConflict
    (some s.own) (BitVec.ofNat 16 n)
  if 3 ≤ n then s'.enterFrozen .mute .identity else s'

/-- The epoch clock after RESTART or abandoned founding: cur is kept (R18). -/
def Clock.restarted (c : Clock) : Clock := { Clock.reset with cur := c.cur }

/-- The roster after RESTART or abandoned founding, own number n (R52). -/
def Roster.restarted (n : Station) : Roster :=
  { Roster.reset with entries := Roster.reset.entries.set n { RosterEntry.blank with state := .self } }

/-- The station controller as LISTEN is entered at the instant now by RESTART, abandoned founding or join silence, the
listen timer set to expire at the given instant (R121, R136, R137). -/
def Controller.restarted (c : Controller) (expiry : Instant) : Controller :=
  { c with cause := .none, autoTimer := none, listenTimer := some expiry, matching := 0, mismatched := 0, joinWait := 0
           joinAttempts := 0, silence := none, leave := .none }

/-- The subject of the AGREEMENT event of this change: the reference as it stood or none, a free value where the two
differ (notes/assumptions/7.md). -/
def State.restartSubject (s : State) : Option Station := if s.coin then s.roster.reference else none

/-- Every drive's rule state becomes OFF (R163). -/
def DriveUnit.ruleOff (u : DriveUnit) : DriveUnit := { u with drives := u.drives.map (fun d => { d with rule := .off }) }

/-- The path of RESTART, of abandoned founding and of the join silence timer (R125, R130, R136): every block takes its
state of that column, and the station enters LISTEN with a new listen span. The receiver is on with its idle time from 0
even while another station's frame is on the line (R35): a DESIGN CHOICE for that frame, notes/assumptions/36.md. -/
def State.restartPath (s : State) : State :=
  let subject := s.restartSubject
  let s1 := s.draw.cutOff.withdrawAll.reportDiscarded
  let s2 := { s1 with
    clock := s1.clock.restarted
    line := { s1.line with state := .idle s1.now }
    roster := .restarted s1.own
    builder := { s1.builder with outbox := [] }
    window := .reset
    adjust := { s1.adjust with queue := [] }
    ctl := s1.ctl.restarted (s1.now + s1.listenSpan)
    drives := s1.drives.ruleOff }
  let s3 := s2.setAgreementFor subject .none
  (({ s3 with pool := .reset }).setLife .listen .none).refreshDrives

/-- The station leaves CONFIG with a valid profile: the profile is frozen and its digest computed, the own roster entry
is SELF, the receiver is on, and the listen span begins (R118, R120, R121, R170). -/
def State.leaveConfig (s : State) : State :=
  let s1 := { s with
    line := { s.line with state := .idle s.now }
    roster := { s.roster with entries := s.roster.entries.set s.own { RosterEntry.blank with state := .self } }
    ctl := { s.ctl with
      frozen := true
      digest := some (profileDigest s.ctl.straps.rate s.ctl.profile)
      autoTimer := none, listenTimer := some (s.now + s.listenSpan), matching := 0, mismatched := 0 } }
  (s1.setLife .listen .none).refreshDrives

/-- The epoch clock of a founder (R15). -/
def Clock.founder (c : Clock) (own : Station) : Clock :=
  { c with cur := 0, pacing := some own, timer := .expired, pending := true, probation := 2 }

/-- The changes of a founding outside the epoch clock (R100, R124). -/
def State.foundBlocks (s : State) : State :=
  let s1 := { s with
    pool := { s.pool with
      table := setBalances s.pool.table 0 (s.ctl.profile.initial.rows.take s.ctl.profile.pools), clean := true }
    ctl := { s.ctl with listenTimer := none } }
  ((s1.setLife .run .none).setAgreement .agreed).refreshDrives

/-- The epoch clock's part of a founding. -/
def State.foundClock (s : State) : State := { s with clock := s.clock.founder s.own }

/-- The station founds a line (R124). Whether the events carry cur as it was or the new cur 0 is a free value
(notes/assumptions/34.md). -/
def State.found (s : State) : State :=
  if s.coin then s.draw.foundBlocks.foundClock else s.draw.foundClock.foundBlocks

/-- The station enters JOINING at the second matching MARK (R126). -/
def State.enterJoining (s : State) : State :=
  let s1 := { s with ctl := { s.ctl with listenTimer := none, joinWait := 0, joinAttempts := 0 } }
  (s1.setLife .joining .none).reloadSilence.refreshDrives

end Sys2Proof.Machine
end

