-- ==== Sys2Proof/Machine/MarkOps.lean ====
section
/-! DEFINITION. The blocks' responses to a mark (R64 and the rules it draws in), to a discontinuity (R12, R77, R95) and
to the slot-phase end (R8), and the implied mark (R16). -/

namespace Sys2Proof.Machine

/-! ### A mark of R64 -/

/-- Whether a joiner's held snapshot is installed at this mark, as decided at the start of its responses (R99, R132). -/
def State.installing (s : State) : Bool := s.ctl.life == .joining && s.joinInstall

/-- The window's response to a mark: fold, ageing, creation, and the asked set emptied (R64, R75). -/
def State.windowMark (s : State) (inRun : Bool) : State :=
  let s' := s.foldAtMark.age.createRecord inRun
  { s' with window := { s'.window with asked := [] } }

/-- A joiner whose install is decided counts as in RUN from here: the STATE event, the mark timer started as this mark's
reload, the join silence timer stopped (R116, R132). -/
def State.joinerRuns (s : State) (installing : Bool) : State :=
  if installing then
    let s1 := s.setLife .run .none
    { s1 with ctl := { s1.ctl with silence := none } }.reloadMarkTimer s.now
  else s

/-- A held snapshot is installed, or fails its second test and is discarded (R99). -/
def State.installHeld (s : State) (installing : Bool) : State :=
  match s.pool.held with
  | none => s
  | some h =>
    if installing || (s.ctl.life == .run && installTest h.point s.oldest s.pool.foldPoint) then s.install h
    else if s.ctl.life = .run then s.dropHeld else s

/-- The station controller's response to a mark: in JOINING the join wait count and the silence timer (R127, R130); in
RUN the leaving epoch begins (R133). -/
def State.controllerMark (s : State) (installing : Bool) : State :=
  if s.ctl.life = .joining then
    { s with ctl := { s.ctl with joinWait := if s.ctl.joinWait < 4 then s.ctl.joinWait + 1 else 4 } }.reloadSilence
  else if s.ctl.life = .run ∧ installing = false ∧ s.ctl.leave = .taken then
    { s with ctl := { s.ctl with leave := .leaving } }
  else s

/-- The drive unit's response to a mark in RUN whose agreement state was ag before it (R155, R158). Where AGREED is left
at the mark itself, which of the change and the evaluation comes first is a free value (R160, notes/assumptions/6.md); an
agreement change into AGREED comes before the evaluation (R160). -/
def State.driveMark (s : State) (ag : Agreement) : State :=
  if ag = .agreed ∧ s.pool.agreement ≠ .agreed ∧ s.coin then
    (s.draw.evaluateDrives.refreshDrivesFor ag).refreshDrives
  else if ag = .agreed ∧ s.pool.agreement ≠ .agreed then s.draw.refreshDrives.evaluateDrives.refreshDrives
  else s.refreshDrives.evaluateDrives.refreshDrives

/-- A mark is taken in JOINING or RUN, the epoch clock's own part done (R64 and its chapter's rules). direct is false at
an implied mark. -/
def State.takeMark (s : State) (direct : Bool) : State :=
  let ag := s.pool.agreement
  let installing := s.installing
  let failed := s.ctl.life == .joining && !installing
  let s1 := s.reportDiscarded.conflictFreeMark
  let s2 := (if failed then s1.dropHeld else s1).joinerRuns installing
  let inRun := s2.ctl.life == .run
  let s3 := ((s2.windowMark inRun).countMark).installHeld installing
  let s4 := if inRun then s3.capture direct else s3
  let s5 := s4.controllerMark installing
  if inRun then s5.driveMark ag else s5

/-! ### A discontinuity -/

/-- The emergency fold and late fold of a discontinuity, and the clearing of the window (R77). -/
def State.emergencyFold (s : State) : State :=
  let oldestFirst := s.window.records.reverse
  let s1 := (oldestFirst.filter (fun r => r.state != .folded)).foldl (fun s r => s.addEach 0 r.sums) s
  let s2 := (oldestFirst.filter (fun r => r.state == .folded)).foldl (fun s r => s.addEach 0 r.late) s1
  { s2 with window := .reset }

/-- The pool unit's discontinuity response, F the fold lag (R95, R100). -/
def Pool.discontinued (p : Pool) (foldLag : Nat) : Pool :=
  { p with gaps := [], history := [], foldPoint := none, held := none, clean := false, wait := 0, noComparison := 0
           uncleanSelf := 0, holdBack := foldLag }

/-- The blocks' responses to a discontinuity, the epoch clock's own part done (R12, R34, R50, R61, R77, R95, R113, R130,
R131). -/
def State.discontinuityResponses (s : State) : State :=
  let s1 := (s.reportDiscarded.conflictFreeMark.dropEntry .request).emergencyFold.withdrawAll
  let s2 := { s1 with
    pool := s1.pool.discontinued s1.ctl.profile.foldLag
    adjust := { s1.adjust with queue := [] }
    builder := { s1.builder with outbox := [] } }
  if s2.ctl.life = .run then
    { s2 with pool := { s2.pool with target := s2.roster.reference } }.agree .resyncing
  else if s2.ctl.life = .joining then
    { s2 with ctl := { s2.ctl with joinWait := 0, joinAttempts := 0 } }.reloadSilence
  else s2

/-- The epoch clock takes a discontinuity to epoch x from sender n (R12). -/
def State.takeDiscontinuity (s : State) (x : Epoch) (n : Station) : State :=
  let s1 := (s.beginEpoch x (some n) s.now 0).reloadInRun s.now
  (s1.raise .clock .discontinuity (some n) s.clock.cur).discontinuityResponses

/-! ### The slot-phase end -/

/-- Station n misses its expected report: its miss count rises, and it becomes MISSING, or GONE at the limit (R43). -/
def State.countMiss (s : State) (n : Station) : State :=
  let e := s.entry n
  s.setEntry n { e with
    miss := e.miss + 1, state := if s.ctl.profile.eviction ≤ e.miss + 1 then .gone else .missing }

/-- The miss counting of a slot-phase end, against record cur − 1 (R43). -/
def State.countMisses (s : State) : State :=
  match s.record (s.clock.cur - 1) with
  | none => s
  | some r =>
    (stations.filter (fun n => n != s.own && mapHas r.expected n && !mapHas r.heard n &&
      ((s.entry n).state == .present || (s.entry n).state == .missing))).foldl State.countMiss s

/-- A JOINING entry whose last JOIN epoch is 12 or more epochs behind cur (R44). -/
def lapsed (cur : Epoch) (e : RosterEntry) : Bool :=
  e.state == .joining &&
    match e.lastJoin with
    | none => false
    | some j => behind j cur && decide (12 ≤ (cur - j).toNat)

/-- The JOIN lapse of a slot-phase end (R44). -/
def State.lapseJoins (s : State) : State :=
  (stations.filter (fun n => lapsed s.clock.cur (s.entry n))).foldl (fun s n => s.setEntry n .blank) s

/-- This station is a candidate for its own reference (R46). -/
def State.isCandidate (s : State) (n : Station) : Bool :=
  if n = s.own then s.ctl.life == .run else (s.entry n).state == .present

/-- The clean flag a candidate is judged by (R46). -/
def State.candidateClean (s : State) (n : Station) : Bool :=
  if n = s.own then s.pool.clean
  else match (s.entry n).lastReport with
    | none => false
    | some r => r.clean

/-- The reference station as chosen afresh (R46). -/
def State.chosenReference (s : State) : Option Station :=
  match stations.find? (fun n => s.isCandidate n && s.candidateClean n) with
  | some n => some n
  | none => stations.find? s.isCandidate

/-- The roster chooses the reference; in DIVERGED or RESYNCING a new one becomes the snapshot target (R46, R47, R94). -/
def State.chooseReference (s : State) : State :=
  let r := s.chosenReference
  if r = s.roster.reference then s
  else
    let s' := { s with roster := { s.roster with reference := r } }
    if s.pool.agreement = .diverged ∨ s.pool.agreement = .resyncing then
      { s' with pool := { s'.pool with target := r, wait := 0 } }
    else s'

/-- Offers a RESEND for each of these outbox entries, stopping at the first one refused (R59). -/
def State.offerResends (s : State) : List OutEntry → State
  | [] => s
  | e :: t =>
    let r := s.offer (.resend e.epoch) none none
    if r.2 then State.offerResends r.1 t else r.1

/-- The wanted pairs of a slot-phase end: unheard reports of COLLECTING records and open gaps, ordered, without this
station's own and without asked ones (R74). -/
def State.wantedPairs (s : State) : List Pair :=
  let unheard := (s.window.records.filter (fun r => r.state == .collecting)).flatMap (fun r =>
    (stations.filter (fun n => mapHas r.expected n && !mapHas r.heard n)).map (fun n =>
      ({ station := n, epoch := r.epoch } : Gap)))
  let ordered := ((unheard ++ s.pool.gaps).filter (fun g => g.station != s.own)).foldl insertGap []
  (ordered.map (fun g => ({ station := stationByte g.station, epoch := g.epoch } : Pair))).filter
    (fun p => !s.window.asked.contains p)

/-- The window offers the first four wanted pairs (R74). -/
def State.offerPairs (s : State) : State :=
  if s.wantedPairs = [] then s else (s.offer .request none (some (s.wantedPairs.take 4))).1

/-- The station is its own reference: its agreement state follows its clean flag, its snapshot request is abandoned, and
an unclean one re-baselines at its eighth slot-phase end (R91). -/
def State.selfReference (s : State) : State :=
  let s1 := { s with pool := { s.pool with target := none, held := none } }
  if s.pool.clean then { s1 with pool := { s1.pool with uncleanSelf := 0 } }.agree .agreed
  else
    let s2 := { s1 with pool := { s1.pool with uncleanSelf := s.pool.uncleanSelf + 1 } }.agree .uncertain
    if 8 ≤ s.pool.uncleanSelf + 1 then
      let s3 := { s2 with pool := { s2.pool with clean := true, uncleanSelf := 0 } }.agree .agreed
      s3.raise .pool .rebaseline none (optEpoch s3.pool.foldPoint)
    else s2

/-- The no-comparison count of an UNCERTAIN station rises; at four it resynchronises (R92). -/
def State.countNoComparison (s : State) : State :=
  if 4 ≤ s.pool.noComparison + 1 then
    let s1 := { s with pool := { s.pool with target := s.roster.reference, wait := 0, noComparison := 0 } }
    (s1.agree .resyncing).offerSnapshotPart.1
  else { s with pool := { s.pool with noComparison := s.pool.noComparison + 1 } }

/-- The pool unit's slot-phase-end work in RUN (R91, R92, R93). -/
def State.poolPhaseEnd (s : State) : State :=
  if s.roster.reference = some s.own then s.selfReference
  else
    let s1 := { s with pool := { s.pool with uncleanSelf := 0 } }
    match s.pool.agreement with
    | .uncertain => s1.countNoComparison
    | .diverged => s1.requestSnapshot
    | .resyncing => if s.pool.held = none then s1.offerSnapshotPart.1 else s1
    | .none => s1
    | .agreed => s1

/-- The originator offers its own queued adjustment (R106). -/
def State.offerAdjust (s : State) : State :=
  match s.adjust.queue.find? (fun a => a.originator == s.own) with
  | none => s
  | some a => if atOrBehind s.clock.cur a.effective then s.offerKey (.adjust a.serial) else s

/-- The line access unit's part of a slot-phase end: the waiting REQUEST entry is discarded, and the queue may be taken
in the new open window (R33, R34). -/
def State.linePhaseEnd (s : State) : State :=
  let s' := s.dropEntry .request
  { s' with line := { s'.line with taken := false } }

/-- The slot-phase end is delivered to the blocks (R8), in the order of R8's list (notes/assumptions/21.md). -/
def State.phaseEnd (s : State) : State :=
  let s1 := { s with clock := { s.clock with slotCount := 32, slotTimer := .window } }.linePhaseEnd
  match s.ctl.life with
  | .config => s1
  | .mute => s1
  | .quiet => s1
  | .listen => s1.lapseJoins
  | .joining =>
    let s2 := s1.countMisses.lapseJoins.chooseReference
    if s2.ctl.joinAttempts = 3 ∧ s2.ctl.joinWait = 4 ∧ s2.pool.held = none then s2.enterFrozen .mute .join
    else if (s2.ctl.joinAttempts = 0 ∧ s2.ctl.profile.foldLag ≤ s2.ctl.joinWait) ∨
        ((s2.ctl.joinAttempts = 1 ∨ s2.ctl.joinAttempts = 2) ∧ s2.ctl.joinWait = 4) then s2.offerKey .join
    else s2
  | .run =>
    let s2 := s1.countMisses.lapseJoins.chooseReference
    let s3 := s2.offerResends (s2.builder.outbox.filter (fun e => !e.transmitted))
    let s4 := s3.offerPairs.poolPhaseEnd.offerAdjust
    if s4.ctl.leave = .leaving then s4.offerKey .leave else s4

/-! ### The implied mark -/

/-- The implied mark of a REPORT from sender n of the given size in bytes: cur advances, the origin is reconstructed from
the REPORT's beginning, and the slot starts behind the present instant count as reached (R16). -/
def State.impliedByReport (s : State) (n : Station) (size : Nat) : State :=
  ((s.beginEpoch (s.clock.cur + 1) s.clock.pacing (s.now - s.bits (10 * size) - s.bits (320 * (n.val : Int)))
    (min 32 (n.val + 1 + 10 * size / 320))).reloadInRun s.now).takeMark false

/-- The implied mark of a RESEND: the origin is set 10,240 bit times back, and all slot starts count as reached (R16). Its
slot-phase end follows. -/
def State.impliedByResend (s : State) : State :=
  ((s.beginEpoch (s.clock.cur + 1) s.clock.pacing (s.now - s.bits 10240) 32).reloadInRun s.now).takeMark false

end Sys2Proof.Machine
end

