-- ==== Sys2Proof/Machine/Receive.lean ====
section
/-! DEFINITION. The steps of the receiver: a good frame of each kind, and FRAME_DISCARDED, FRAME_ABANDONED,
ABANDONED_FRAME_END, GLITCH. The instant of a received frame's step is the frame's end (R20, notes/assumptions/11.md). -/

namespace Sys2Proof.Machine

/-- The receiver takes frames: the life-cycle state lets it (R23, R35), this station is not transmitting, and no abandoned
frame is waited out (R21, notes/assumptions/12.md). -/
def State.canReceive (s : State) : Bool :=
  s.listening && s.line.tx.isNone &&
    match s.line.state with
    | .idle _ => true
    | .busy => true
    | .off => false
    | .abandoned => false

/-- A frame ends at the present instant: the line is idle from here, a good frame goes to the blocks with its overlap
indication, and one whose counts are out of range or not this station's is discarded (R19, R22, R23). -/
def State.frameIn (s : State) (f : Frame) (blocks : Bool → State → State) : State :=
  if s.canReceive then
    if f.good s.ctl.profile.pools then blocks s.line.overlap (s.lineIdle s.now)
    else (s.lineIdle s.now).countDiscarded
  else s

/-- An own-number frame without overlap counts as an identity conflict (R49). -/
def State.ownNumber (s : State) (sender : Station) (overlap : Bool) : State :=
  if sender = s.own ∧ overlap = false then s.countConflict else s

/-! ### MARK -/

/-- The sender's number is at or below the pacing station's (R11). In JOINING and RUN there is a pacing station; with none
the comparison is taken to hold (notes/assumptions/3.md). -/
def State.atOrBelowPacing (s : State) (n : Station) : Bool :=
  match s.clock.pacing with
  | none => true
  | some p => decide (n ≤ p)

/-- The MARK would be accepted or taken as a discontinuity by a station in RUN (R11, R133). -/
def State.wouldTake (s : State) (f : MarkFrame) : Bool :=
  s.clock.probation == 0 && s.ctl.digest == some f.digest &&
    (f.epoch == s.clock.cur + 1 || (f.epoch != s.clock.cur && s.atOrBelowPacing f.sender))

/-- The station is in its leaving epoch (R133). -/
def State.inLeavingEpoch (s : State) : Bool := s.ctl.life == .run && s.ctl.leave == .leaving

/-- A MARK with a differing profile digest is ignored with an event (R10, R14). -/
def State.profileConflict (s : State) (f : MarkFrame) : State :=
  s.raise .clock .profileConflict (some f.sender) f.digest

/-- A MARK set aside with a FOREIGN_MARK event (R11, R15). -/
def State.foreignMark (s : State) (f : MarkFrame) : State := s.raise .clock .foreignMark (some f.sender) f.epoch

/-- The epoch clock takes a matching MARK in LISTEN: cur, pacing station and slot phase follow it, the discarded count is
reported, and the mark counts toward the end of conflicts (R14, R24, R50). -/
def State.listenClock (s : State) (f : MarkFrame) : State :=
  (s.beginEpoch f.epoch (some f.sender) s.now 0).reportDiscarded.conflictFreeMark

/-- The present map of a matching MARK in LISTEN is examined, and the MARK is counted toward JOINING unless the map holds
this station's number (R51, R122, R126). The map of a MARK that carries this station's own number as sender is examined as
well, a DESIGN CHOICE, notes/assumptions/39.md. -/
def State.listenMap (s : State) (f : MarkFrame) : State :=
  if mapHas f.map s.own then (s.raise .roster .identityConflict (some f.sender) 0).enterFrozen .mute .identity
  else
    let s' := { s with ctl := { s.ctl with matching := s.ctl.matching + 1 } }
    if 2 ≤ s'.ctl.matching then s'.enterJoining else s'

/-- A matching MARK is taken in LISTEN (R14, R51, R122; notes/assumptions/27.md). -/
def State.listenMark (s : State) (f : MarkFrame) : State := (s.listenClock f).listenMap f

/-- A mismatched MARK in LISTEN is counted, up to 255 (R14, R122). -/
def State.countMismatched (s : State) : State :=
  { s with ctl := { s.ctl with mismatched := if s.ctl.mismatched < 255 then s.ctl.mismatched + 1 else 255 } }

/-- A matching MARK during founding probation (R15, R125). -/
def State.probationMark (s : State) (f : MarkFrame) : State :=
  if f.founding ∧ s.own ≤ f.sender then s.foreignMark f else s.restartPath

/-- A matching MARK is accepted as the next epoch (R11). -/
def State.acceptMark (s : State) (f : MarkFrame) : State :=
  ((s.beginEpoch f.epoch (some f.sender) s.now 0).reloadInRun s.now).takeMark true

/-- The continuity table (R11). -/
def State.continuity (s : State) (f : MarkFrame) : State :=
  if f.epoch = s.clock.cur + 1 then s.acceptMark f
  else if f.epoch = s.clock.cur then s
  else if s.atOrBelowPacing f.sender then s.takeDiscontinuity f.epoch f.sender
  else s.foreignMark f

/-- The epoch clock takes a good MARK (R3, R10, R14, R15). -/
def State.clockMark (s : State) (f : MarkFrame) : State :=
  match s.ctl.life with
  | .config => s
  | .mute => s
  | .quiet => s
  | .listen => if s.ctl.digest = some f.digest then s.listenMark f else (s.profileConflict f).countMismatched
  | .joining => if s.ctl.digest = some f.digest then s.continuity f else s.profileConflict f
  | .run =>
    if s.ctl.digest = some f.digest then
      if 0 < s.clock.probation then s.probationMark f else s.continuity f
    else s.profileConflict f

/-- A good MARK with this station's own number and no overlap is counted as a conflict and taken by the epoch clock, in an
order a free value decides (R49, R50, notes/assumptions/6.md). In LISTEN the conflict is counted before the present map is
examined, so a MARK whose map mutes the station is counted as well; a third conflict mutes before the map is examined
(notes/assumptions/39.md). -/
def State.ownNumberMark (s : State) (f : MarkFrame) : State :=
  if s.coin then s.draw.countConflict.clockMark f
  else if s.ctl.life = .listen ∧ s.ctl.digest = some f.digest then
    let s' := (s.draw.listenClock f).countConflict
    if s'.ctl.life = .listen then s'.listenMap f else s'
  else (s.draw.clockMark f).countConflict

/-- A good MARK at the blocks: it ends a departure if it would bring a mark (R133); an own-number MARK is counted as a
conflict too (R49). -/
def State.markIn (s : State) (f : MarkFrame) (overlap : Bool) : State :=
  if s.inLeavingEpoch && s.wouldTake f then s.enterFrozen .quiet .none
  else if f.sender = s.own ∧ overlap = false then s.ownNumberMark f
  else s.clockMark f

/-- MARK_RECEIVED (R11). -/
def execMarkReceived (dt : Nat) (f : MarkFrame) (s : State) : Host.Outcome State Fault Refusal :=
  s.outside dt (fun s => s.frameIn (.mark f) (fun overlap s => s.markIn f overlap))

/-! ### REPORT and RESEND -/

/-- The last report part of an entry after a report (R38). -/
def newLastReport (old : Option LastReport) (f : ReportFrame) : LastReport :=
  { epoch := match old with
      | none => f.epoch
      | some r => if ahead f.epoch r.epoch then f.epoch else r.epoch
    fold := f.fold, clean := f.clean }

/-- The sender's roster entry after its REPORT or RESEND (R38). -/
def State.reportEntry (s : State) (f : ReportFrame) : RosterEntry :=
  let e := s.entry f.sender
  { state := .present, miss := 0
    firstHeard := if e.state = .absent then some s.clock.cur else e.firstHeard
    lastJoin := none
    lastReport := some (newLastReport e.lastReport f) }

/-- The roster takes a REPORT or RESEND from another number (R38). -/
def State.rosterReport (s : State) (f : ReportFrame) : State :=
  if f.sender = s.own then s else s.setEntry f.sender (s.reportEntry f)

/-- The window takes the frame's deltas while it works (R63, R66, R67, R68). -/
def State.windowTake (s : State) (f : ReportFrame) : State :=
  if s.ctl.life = .joining ∨ s.ctl.life = .run then s.takeReport f.sender f.epoch f.deltas else s

/-- The window places a REPORT by its report epoch (R16, R65). -/
def State.windowReport (s : State) (f : ReportFrame) : State :=
  if (s.ctl.life = .joining ∨ s.ctl.life = .run) ∧ f.sender ≠ s.own then
    if ahead f.epoch s.clock.cur then s
    else if f.epoch = s.clock.cur then (s.impliedByReport f.sender (Frame.report f).size).windowTake f
    else s.windowTake f
  else s

/-- A RESEND and the slot-phase end that its implied mark brings, at one instant (R16, R43). With the frame first the
window takes it, and its sender is passed over; with the slot-phase end first the miss is counted, and the frame then makes
its sender PRESENT with miss count 0 and enters the heard set. Which comes first is a free value (notes/assumptions/6.md).
A slot-phase end that comes first and mutes a joiner (R129) leaves the frame untaken and its sender as the miss left it, a
DESIGN CHOICE, notes/assumptions/6.md. -/
def State.impliedPhaseEnd (s : State) (f : ReportFrame) : State :=
  if s.coin then
    let s' := s.draw.phaseEnd
    if s'.listening then (s'.rosterReport f).windowTake f else s'
  else (s.draw.windowTake f).phaseEnd

/-- The window places a RESEND by its report epoch (R16, R65). -/
def State.windowResend (s : State) (f : ReportFrame) : State :=
  if (s.ctl.life = .joining ∨ s.ctl.life = .run) ∧ f.sender ≠ s.own then
    if ahead f.epoch s.clock.cur then s
    else if f.epoch = s.clock.cur then s.impliedByResend.impliedPhaseEnd f
    else s.windowTake f
  else s

/-- A REPORT or RESEND would cause an implied mark (R65, R133). -/
def State.wouldImply (s : State) (f : ReportFrame) : Bool := f.epoch == s.clock.cur && f.sender != s.own

/-- A good REPORT or RESEND at the blocks: it ends a departure if it would imply a mark (R133); else conflict, roster,
comparison and window in this order (R38, R49, R90). -/
def State.reportIn (s : State) (f : ReportFrame) (overlap : Bool) (window : State → State) : State :=
  if s.inLeavingEpoch && s.wouldImply f then s.enterFrozen .quiet .none
  else
    let s' := s.ownNumber f.sender overlap
    if s'.listening then window ((s'.rosterReport f).compare f) else s'

/-- REPORT_RECEIVED (R65). -/
def execReportReceived (dt : Nat) (f : ReportFrame) (s : State) : Host.Outcome State Fault Refusal :=
  s.outside dt (fun s => s.frameIn (.report f) (fun overlap s => s.reportIn f overlap (fun s => s.windowReport f)))

/-- RESEND_RECEIVED (R65). -/
def execResendReceived (dt : Nat) (f : ReportFrame) (s : State) : Host.Outcome State Fault Refusal :=
  s.outside dt (fun s => s.frameIn (.resend f) (fun overlap s => s.reportIn f overlap (fun s => s.windowResend f)))

/-! ### REQUEST -/

/-- The report builder offers a RESEND for each pair of this station's number whose epoch the outbox holds (R59). -/
def State.answerPairs (s : State) (pairs : List Pair) : State :=
  (pairs.filter (fun p => p.station == stationByte s.own &&
    s.builder.outbox.any (fun e => e.epoch == p.epoch))).foldl (fun s p => s.offerKey (.resend p.epoch)) s

/-- Pairs enter the asked set, each once, up to 32 (R75). -/
def addAsked (asked : List Pair) (pairs : List Pair) : List Pair :=
  pairs.foldl (fun l p => if l.contains p || decide (32 ≤ l.length) then l else l ++ [p]) asked

/-- The pool unit answers a snapshot request naming this station (R96). -/
def State.answerTarget (s : State) (target : Option Byte) : State :=
  if target = some (stationByte s.own) ∧ s.pool.agreement = .agreed then s.offerKey .snapshot else s

/-- A good REQUEST at the blocks (R49, R59, R75, R96). The RESEND offers for its own pairs come before the SNAPSHOT offer, so
with too few free places in the send queue the SNAPSHOT is refused: a DESIGN CHOICE, since R59 and R96 give no order
(notes/assumptions/42.md). -/
def State.requestIn (s : State) (f : RequestFrame) (overlap : Bool) : State :=
  let s1 := s.ownNumber f.sender overlap
  if s1.ctl.life = .run then
    let s2 := s1.answerPairs f.pairs
    { s2 with window := { s2.window with asked := addAsked s2.window.asked f.pairs } }.answerTarget f.target
  else s1

/-- REQUEST_RECEIVED (R75). -/
def execRequestReceived (dt : Nat) (f : RequestFrame) (s : State) : Host.Outcome State Fault Refusal :=
  s.outside dt (fun s => s.frameIn (.request f) (fun overlap s => s.requestIn f overlap))

/-! ### SNAPSHOT -/

/-- A good SNAPSHOT at the blocks (R49, R98). -/
def State.snapshotIn (s : State) (f : SnapshotFrame) (overlap : Bool) : State :=
  let s1 := s.ownNumber f.sender overlap
  if (s1.ctl.life = .joining ∨ (s1.ctl.life = .run ∧ s1.pool.agreement = .resyncing)) ∧ s1.installable f then
    s1.holdSnapshot f
  else s1

/-- SNAPSHOT_RECEIVED (R98). -/
def execSnapshotReceived (dt : Nat) (f : SnapshotFrame) (s : State) : Host.Outcome State Fault Refusal :=
  s.outside dt (fun s => s.frameIn (.snapshot f) (fun overlap s => s.snapshotIn f overlap))

/-! ### ADJUST -/

/-- The adjustment queue's order: effective epoch, then originator, then serial (R101). -/
def adjBefore (a b : Adjustment) : Bool :=
  behind a.effective b.effective ||
    (a.effective == b.effective && (decide (a.originator < b.originator) ||
      (a.originator == b.originator && decide (a.serial.toNat < b.serial.toNat))))

/-- An adjustment at its place in the queue (R101). -/
def insertAdj (q : List Adjustment) (a : Adjustment) : List Adjustment :=
  q.takeWhile (fun x => adjBefore x a) ++ a :: q.dropWhile (fun x => adjBefore x a)

/-- An item names a pool in use and a known kind, at pool count k (R107, R188). -/
def RawItem.valid (k : Nat) (i : RawItem) : Bool := decide (i.pool.toNat < k) && decide (i.kind.toNat ≤ 1)

/-- The item as the queue holds it. -/
def RawItem.item (i : RawItem) : AdjItem := { pool := i.pool.toNat, set := i.kind == 0, value := i.value }

/-- The reasons of a refusal, as their codes (R189). -/
inductive RefusalReason where
  | tooLate | outOfReach | queueFull
  deriving DecidableEq, Repr

/-- Codes of the refusal reasons (R189). -/
def RefusalReason.code : RefusalReason → Byte
  | .tooLate => 1 | .outOfReach => 2 | .queueFull => 3

/-- An ADJUST is refused (R108). -/
def State.refuseAdjust (s : State) (f : AdjustFrame) (r : RefusalReason) : State :=
  (s.loseClean.refreshDrives).raise .adjust .adjustRefused (some f.sender) (r.code ++ f.serial)

/-- An ADJUST is queued (R107). -/
def State.queueAdjust (s : State) (f : AdjustFrame) : State :=
  let a : Adjustment :=
    { originator := f.sender, serial := f.serial, effective := f.effective, items := f.items.map RawItem.item }
  { s with adjust := { s.adjust with queue := insertAdj s.adjust.queue a } }

/-- The table an ADJUST from another station is judged by (R107, R109). -/
def State.judgeAdjust (s : State) (f : AdjustFrame) : State :=
  let same := fun (a : Adjustment) => a.originator == f.sender && a.serial == f.serial
  if f.sender = s.own then s
  else if f.pools.toNat ≠ s.ctl.profile.pools ∨ f.items.all (RawItem.valid s.ctl.profile.pools) = false then s
  else if s.adjust.queue.any same then s
  else if s.window.records.any (fun r => r.applied.any same) then s
  else if behind f.effective s.foldFloor then s.refuseAdjust f .tooLate
  else if ahead f.effective (s.clock.cur + BitVec.ofNat 16 s.ctl.profile.lead + 1) then s.refuseAdjust f .outOfReach
  else if 4 ≤ s.adjust.queue.length then s.refuseAdjust f .queueFull
  else s.queueAdjust f

/-- A good ADJUST at the blocks (R49, R107). -/
def State.adjustIn (s : State) (f : AdjustFrame) (overlap : Bool) : State :=
  let s1 := s.ownNumber f.sender overlap
  if s1.ctl.life = .joining ∨ s1.ctl.life = .run then s1.judgeAdjust f else s1

/-- ADJUST_RECEIVED (R107). -/
def execAdjustReceived (dt : Nat) (f : AdjustFrame) (s : State) : Host.Outcome State Fault Refusal :=
  s.outside dt (fun s => s.frameIn (.adjust f) (fun overlap s => s.adjustIn f overlap))

/-! ### JOIN and LEAVE -/

/-- The sender's roster entry after its JOIN (R39). -/
def RosterEntry.joined (e : RosterEntry) (cur : Epoch) : RosterEntry :=
  match e.state with
  | .absent => { e with state := .joining, firstHeard := some cur, lastJoin := some cur }
  | .gone => { e with state := .joining, lastJoin := some cur, miss := 0 }
  | .joining => { e with lastJoin := some cur }
  | .present => e
  | .missing => e
  | .self => e

/-- A good JOIN at the blocks: conflict or roster (R39, R49), and the SNAPSHOT of a station that is its own reference
(R96, R128). -/
def State.joinIn (s : State) (f : JoinFrame) (overlap : Bool) : State :=
  let s1 := s.ownNumber f.sender overlap
  if s1.listening then
    let s2 := if f.sender = s1.own then s1 else s1.setEntry f.sender ((s1.entry f.sender).joined s1.clock.cur)
    if s2.ctl.life = .run ∧ s2.ctl.digest = some f.digest ∧ s2.roster.reference = some s2.own ∧
        s2.pool.agreement = .agreed then s2.offerKey .snapshot
    else s2
  else s1

/-- JOIN_RECEIVED (R39). -/
def execJoinReceived (dt : Nat) (f : JoinFrame) (s : State) : Host.Outcome State Fault Refusal :=
  s.outside dt (fun s => s.frameIn (.join f) (fun overlap s => s.joinIn f overlap))

/-- A record without an unheard station that left; it may settle (R70). -/
def Record.dismiss (r : Record) (n : Station) : Record :=
  if r.state = .folded ∨ mapHas r.heard n then r
  else
    let expected := r.expected &&& ~~~(mapOf n)
    { r with expected := expected
             state := if r.state = .collecting ∧ r.heard = expected then .settled else r.state }

/-- A good LEAVE at the blocks (R40, R49, R70). -/
def State.leaveIn (s : State) (f : LeaveFrame) (overlap : Bool) : State :=
  let s1 := s.ownNumber f.sender overlap
  if s1.listening ∧ f.sender ≠ s1.own then
    let s2 := s1.setEntry f.sender .blank
    { s2 with window := { s2.window with records := s2.window.records.map (fun r => r.dismiss f.sender) } }
  else s1

/-- LEAVE_RECEIVED (R40). -/
def execLeaveReceived (dt : Nat) (f : LeaveFrame) (s : State) : Host.Outcome State Fault Refusal :=
  s.outside dt (fun s => s.frameIn (.leave f) (fun overlap s => s.leaveIn f overlap))

/-! ### Frames that are not good, and glitches -/

/-- A frame of these bytes ends. One that fails a check is counted and goes no further (R22, R24). Bytes that pass every
check are not this step's, and it changes nothing (notes/assumptions/3.md). -/
def State.discardFrame (s : State) (bytes : List Byte) : State :=
  if s.canReceive ∧ checkFrame s.ctl.profile.pools bytes = none then (s.lineIdle s.now).countDiscarded else s

/-- FRAME_DISCARDED (R22). -/
def execFrameDiscarded (dt : Nat) (bytes : List Byte) (s : State) : Host.Outcome State Fault Refusal :=
  s.outside dt (fun s => s.discardFrame bytes)

/-- The receiver gives up the frame in progress and counts it (R21, R24). -/
def State.abandonFrame (s : State) : State :=
  if s.canReceive then
    let s' := s.countDiscarded
    { s' with line := { s'.line with state := .abandoned, overlap := false } }
  else s

/-- FRAME_ABANDONED (R21). -/
def execFrameAbandoned (dt : Nat) (s : State) : Host.Outcome State Fault Refusal := s.outside dt State.abandonFrame

/-- The line has been recessive for 3 bit times after an abandoned frame: its end for idle time (R21). -/
def State.abandonedEnd (s : State) : State := if s.line.state = .abandoned ∧ s.listening then s.lineIdle s.now else s

/-- ABANDONED_FRAME_END (R21). -/
def execAbandonedFrameEnd (dt : Nat) (s : State) : Host.Outcome State Fault Refusal := s.outside dt State.abandonedEnd

/-- A glitch on an idle line restarts the idle time from its end (R19, R21). -/
def State.glitched (s : State) : State :=
  match s.line.state with
  | .idle _ => if s.listening ∧ s.line.tx = none then { s with line := { s.line with state := .idle s.now } } else s
  | .off => s
  | .busy => s
  | .abandoned => s

/-- GLITCH (R19). -/
def execGlitch (dt : Nat) (s : State) : Host.Outcome State Fault Refusal := s.outside dt State.glitched

end Sys2Proof.Machine
end

