-- ==== Sys2Proof/Machine/Timers.lean ====
section
/-! DEFINITION. The steps of reset and of the station's timers: HARDWARE_RESET, HARDWARE_RESET_END, AUTO_TIMER_EXPIRY,
LISTEN_TIMER_EXPIRY, JOIN_SILENCE_EXPIRY, MARK_TIMER_EXPIRY, SLOT_START, SLOT_PHASE_END, LEAVE_DEADLINE. A timer's step
given while the timer does not run changes nothing (notes/assumptions/3.md). -/

namespace Sys2Proof.Machine

/-- Hardware reset begins or goes on: the line is released, DRV0 to DRV3 are low, FAULT and IRQ are not asserted, and a
transaction is abandoned (R137, R158, R162, R174, R184). What the station held is lost as the reset ends. -/
def execHardwareReset (dt : Nat) (s : State) : Host.Outcome State Fault Refusal :=
  .next { s with
    now := s.now + dt
    line := { s.line with tx := none }
    drives := { drives := s.drives.drives.map (fun d => { d with pin := false, row := .config }), fault := false }
    port := { s.port with irq := false, reply := none, txn := none, arising := [] }
    ctl := { s.ctl with inReset := true } }

/-- Hardware reset ends: every block takes its reset value and the straps are sampled (R137, R164). -/
def execHardwareResetEnd (dt : Nat) (id : Station) (rate auto : Bool) (s : State) : Host.Outcome State Fault Refusal :=
  .next (if s.ctl.inReset then State.atReset (s.now + dt) s.free { id := id, rate := rate, auto := auto } s.inputs s.wires
      s.pending
    else { s with now := s.now + dt })

/-- The item a failing channel is charged to: its pool index (R169). -/
def offendingChannel (p : Profile) (c : Fin 4) : Option Byte :=
  if p.pools ≤ (p.channels.get c).pool.val then some (BitVec.ofNat 8 (14 + 5 * c.val + 3)) else none

/-- The item a failing drive is charged to: its pool index or its low mark (R169). -/
def offendingDrive (p : Profile) (d : Fin 4) : Option Byte :=
  match (p.drives.get d).pool with
  | none => none
  | some i =>
    if p.pools ≤ i.val then some (BitVec.ofNat 8 (34 + 7 * d.val))
    else if (p.drives.get d).high.toInt ≤ (p.drives.get d).low.toInt then some (BitVec.ofNat 8 (34 + 7 * d.val + 2))
    else none

/-- The first offending item, or none for a valid profile (R169, R191). -/
def firstOffending (rate : Bool) (p : Profile) : Option Byte :=
  if rate = false ∧ p.period < 50 then some 1
  else match indexes4.findSome? (offendingChannel p) with
    | some i => some i
    | none => indexes4.findSome? (offendingDrive p)

/-- The AUTO timer expires (R119). -/
def State.autoExpiry (s : State) : State :=
  match s.ctl.autoTimer with
  | none => s
  | some t =>
    if s.ctl.life = .config then
      match firstOffending s.ctl.straps.rate s.ctl.profile with
      | none => (s.until t).leaveConfig
      | some _ => { s.until t with ctl := { s.ctl with autoTimer := none } }
    else s

/-- AUTO_TIMER_EXPIRY (R119). -/
def execAutoTimerExpiry (s : State) : Host.Outcome State Fault Refusal := s.inside State.autoExpiry

/-- The decision at the end of the listen span (R123). -/
def State.listenDecision (s : State) : State :=
  if s.ctl.matching = 0 then
    if s.ctl.mismatched = 0 then s.found else s.enterFrozen .mute .profile
  else { s with ctl := { s.ctl with listenTimer := some (s.now + s.listenSpan), matching := 0, mismatched := 0 } }

/-- The listen timer expires (R123). -/
def State.listenExpiry (s : State) : State :=
  match s.ctl.listenTimer with
  | none => s
  | some t => if s.ctl.life = .listen then (s.until t).listenDecision else s

/-- LISTEN_TIMER_EXPIRY (R123). -/
def execListenTimerExpiry (s : State) : Host.Outcome State Fault Refusal := s.inside State.listenExpiry

/-- The join silence timer expires (R130). -/
def State.silenceExpiry (s : State) : State :=
  match s.ctl.silence with
  | none => s
  | some t => if s.ctl.life = .joining then (s.until t).restartPath else s

/-- JOIN_SILENCE_EXPIRY (R130). -/
def execJoinSilenceExpiry (s : State) : Host.Outcome State Fault Refusal := s.inside State.silenceExpiry

/-- The mark timer expires, and a MARK is pending (R5). -/
def State.markExpiry (s : State) : State :=
  match s.clock.timer with
  | .running t =>
    if s.ctl.life = .run then
      { s.until t with clock := { s.clock with timer := .expired, pending := true } }
    else s
  | .stopped => s
  | .expired => s

/-- MARK_TIMER_EXPIRY (R5). -/
def execMarkTimerExpiry (s : State) : Host.Outcome State Fault Refusal := s.inside State.markExpiry

/-- The report builder at the start of the station's own slot: from the designated entry, if it is untransmitted, this slot's
REPORT is built with the fold point, digest and clean flag of this instant and handed over, and the designation is cleared
(R57, notes/assumptions/37.md). -/
def State.handOver (s : State) : State :=
  match s.builder.outbox.find? (fun e => e.designated) with
  | none => s
  | some e =>
    if e.transmitted then s
    else { s.clearDesignation with line := { s.line with slotWaiting := some (s.buildReport e) } }

/-- The start of the next slot is delivered (R8, R57). -/
def State.nextSlot (s : State) : State :=
  match s.clock.origin with
  | none => s
  | some o =>
    if s.clock.slotTimer = .slots ∧ s.clock.slotCount < 32 then
      let n := s.clock.slotCount
      let s' := { s.until (o + s.bits (320 * (n : Int))) with clock := { s.clock with slotCount := n + 1 } }
      if s.ctl.life = .run ∧ n = s.own.val then s'.handOver else s'
    else s

/-- SLOT_START (R8, R57). -/
def execSlotStart (s : State) : Host.Outcome State Fault Refusal := s.inside State.nextSlot

/-- The slot-phase end falls due (R8). -/
def State.slotsOver (s : State) : State :=
  match s.clock.origin with
  | none => s
  | some o => if s.clock.slotTimer = .slots then (s.until (o + s.bits 10240)).phaseEnd else s

/-- SLOT_PHASE_END (R8). -/
def execSlotPhaseEnd (s : State) : Host.Outcome State Fault Refusal := s.inside State.slotsOver

/-- The departure's deadline, origin + P − 24 bit times of the leaving epoch (R133). -/
def State.leaveDeadline (s : State) : State :=
  match s.clock.origin with
  | none => s
  | some o =>
    if s.ctl.life = .run ∧ s.ctl.leave = .leaving then
      (s.until (o + s.period - s.bits 24)).enterFrozen .quiet .none
    else s

/-- LEAVE_DEADLINE (R133). -/
def execLeaveDeadline (s : State) : Host.Outcome State Fault Refusal := s.inside State.leaveDeadline

end Sys2Proof.Machine
end

