-- ==== Sys2Proof/Machine/PortAct.lean ====
section
/-! DEFINITION. The service-port commands that act: WRITE PROFILE, START, POST ADJUSTMENT, SET DRIVE, LEAVE, RESTART, an
unknown command, and an abandoned transaction (R103, R104, R118, R133, R136, R157, R168, R174, R175, R181, R191). -/

namespace Sys2Proof.Machine

/-! ### WRITE PROFILE -/

/-- v as a plain number within lo to hi, or none. -/
def inRange (lo hi : Nat) (v : Int) : Option Nat := if (lo : Int) ≤ v ∧ v ≤ hi then some v.toNat else none

/-- A channel with item number f of its own table written (R166, R191). -/
def ChannelCfg.write (c : ChannelCfg) (f : Nat) (v : Int) : Option ChannelCfg :=
  match f with
  | 0 =>
    if v = 0 then some { c with mode := .off }
    else if v = 1 then some { c with mode := .pulse }
    else if v = 2 then some { c with mode := .pulseDir }
    else none
  | 1 => if v = 0 then some { c with gateUse := false } else if v = 1 then some { c with gateUse := true } else none
  | 2 => (inRange 1 128 v).map (fun n => { c with width := n })
  | 3 => (inRange 0 7 v).map (fun n => { c with pool := Fin.ofNat 8 n })
  | 4 => if v = 1 then some { c with negative := false } else if v = -1 then some { c with negative := true } else none
  | _ => none

/-- A drive with item number f of its own table written (R166, R191). -/
def DriveCfg.write (d : DriveCfg) (f : Nat) (value : BitVec 32) : Option DriveCfg :=
  let v := value.toInt
  match f with
  | 0 =>
    if v = -1 then some { d with pool := none }
    else (inRange 0 7 v).map (fun n => { d with pool := some (Fin.ofNat 8 n) })
  | 1 => some { d with high := value }
  | 2 => some { d with low := value }
  | 3 => (inRange 0 15 v).map (fun n => { d with riseDwell := n })
  | 4 => (inRange 0 15 v).map (fun n => { d with fallDwell := n })
  | 5 =>
    if v = 0 then some { d with activeHigh := false } else if v = 1 then some { d with activeHigh := true } else none
  | 6 =>
    if v = 0 then some { d with action := .hold }
    else if v = 1 then some { d with action := .assert }
    else if v = 2 then some { d with action := .release }
    else none
  | _ => none

/-- The profile with item n written, or none for an item that is not written or a value out of its range (R165, R166,
R168, R191). -/
def Profile.write (p : Profile) (n : Nat) (value : BitVec 32) : Option Profile :=
  let v := value.toInt
  if n = 1 then (inRange 20 2000 v).map (fun x => { p with period := x })
  else if n = 2 then (inRange 1 4 v).map (fun x => { p with foldLag := x })
  else if n = 3 then (inRange 1 8 v).map (fun x => { p with pools := x })
  else if n = 4 then (inRange 2 16 v).map (fun x => { p with eviction := x })
  else if n = 5 then (inRange 2 4 v).map (fun x => { p with lead := x })
  else if h : 6 ≤ n ∧ n ≤ 13 then some { p with initial := p.initial.set ⟨n - 6, by omega⟩ value }
  else if h : 14 ≤ n ∧ n ≤ 33 then
    let c : Fin 4 := ⟨(n - 14) / 5, by omega⟩
    ((p.channels.get c).write ((n - 14) % 5) v).map (fun x => { p with channels := p.channels.set c x })
  else if h : 34 ≤ n ∧ n ≤ 61 then
    let d : Fin 4 := ⟨(n - 34) / 7, by omega⟩
    ((p.drives.get d).write ((n - 34) % 7) value).map (fun x => { p with drives := p.drives.set d x })
  else none

/-- WRITE PROFILE (R168). -/
def State.writeProfile (s : State) (item : Byte) (value : BitVec 32) : State :=
  if s.ctl.life = .config then
    match s.ctl.profile.write item.toNat value with
    | none => s.answer .badArgument []
    | some p => { s with ctl := { s.ctl with profile := p } }.answer .done []
  else s.answer .wrongState []

/-- WRITE_PROFILE (R168). -/
def execWriteProfile (dt : Nat) (item : Byte) (value : BitVec 32) (s : State) : Host.Outcome State Fault Refusal :=
  s.outside dt (fun s => s.writeProfile item value)

/-! ### START -/

/-- START (R118, R169, R170). -/
def State.startCommand (s : State) : State :=
  if s.ctl.life = .config then
    match firstOffending s.ctl.straps.rate s.ctl.profile with
    | some item => s.answer .badArgument [item]
    | none => s.leaveConfig.answer .done (bytes16 (profileDigest s.ctl.straps.rate s.ctl.profile))
  else s.answer .wrongState []

/-- START (R118). -/
def execStart (dt : Nat) (s : State) : Host.Outcome State Fault Refusal := s.outside dt State.startCommand

/-! ### POST ADJUSTMENT -/

/-- The serial the next post is given (R104). -/
def State.nextSerial (s : State) : Byte := s.adjust.lastSerial + 1

/-- The effective epoch a post is given (R104). -/
def State.postEpoch (s : State) : Epoch := s.clock.cur + BitVec.ofNat 16 s.ctl.profile.lead

/-- An accepted post: serial and effective epoch are assigned, the adjustment is queued, and an ADJUST is offered
(R104). -/
def State.acceptPost (s : State) (items : List RawItem) : State :=
  let a : Adjustment := { originator := s.own, serial := s.nextSerial, effective := s.postEpoch
                          items := items.map RawItem.item }
  { s with adjust := { queue := insertAdj s.adjust.queue a, lastSerial := a.serial } }.offerKey (.adjust a.serial)

/-- The tests of a post, in order (R103). -/
def State.judgePost (s : State) (count : Byte) (items : List RawItem) : PortOutcome :=
  if s.ctl.life ≠ .run ∨ s.pool.agreement ≠ .agreed ∨ s.ctl.leave ≠ .none then .wrongState
  else if count.toNat = 0 ∨ 4 < count.toNat ∨ items.all (RawItem.valid s.ctl.profile.pools) = false then .badArgument
  else if s.adjust.queue.any (fun a => a.originator == s.own) then .noRoom
  else if 4 ≤ s.adjust.queue.length then .noRoom
  else .done

/-- POST ADJUSTMENT with its item count and items (R103, R104). With fewer items than the count asks for, the command is
not taken (R174); further ones are not arguments (notes/assumptions/33.md). -/
def State.postAdjustment (s : State) (count : Byte) (sent : List RawItem) : State :=
  if sent.length < postedItems count then s
  else
    let items := sent.take (postedItems count)
    let o := s.judgePost count items
    if o = .done then (s.acceptPost items).answer .done (s.nextSerial :: bytes16 s.postEpoch) else s.answer o []

/-- POST_ADJUSTMENT (R103). -/
def execPostAdjustment (dt : Nat) (count : Byte) (items : List RawItem) (s : State) :
    Host.Outcome State Fault Refusal := s.outside dt (fun s => s.postAdjustment count items)

/-! ### SET DRIVE -/

/-- The drive mode of a code (R189). -/
def DriveMode.ofCode (b : Byte) : Option DriveMode :=
  if b = 0 then some .auto else if b = 1 then some .forceOn else if b = 2 then some .forceOff else none

/-- Drive i takes a mode, and its pin is found afresh (R157). -/
def State.setDriveMode (s : State) (i : Fin 4) (m : DriveMode) : State :=
  { s with drives := { s.drives with
      drives := s.drives.drives.set i { s.drives.drives.get i with mode := m } } }.refreshDrive s.pool.agreement i

/-- SET DRIVE (R157). -/
def State.setDrive (s : State) (index mode : Byte) : State :=
  if h : index.toNat < 4 then
    match DriveMode.ofCode mode with
    | none => s.answer .badArgument []
    | some m => (s.setDriveMode ⟨index.toNat, h⟩ m).answer .done []
  else s.answer .badArgument []

/-- SET_DRIVE (R157). -/
def execSetDrive (dt : Nat) (index mode : Byte) (s : State) : Host.Outcome State Fault Refusal :=
  s.outside dt (fun s => s.setDrive index mode)

/-! ### LEAVE, RESTART and the rest -/

/-- The LEAVE command (R133). -/
def State.leaveTaken (s : State) : State :=
  if s.ctl.life = .run then
    { s with ctl := { s.ctl with leave := if s.ctl.leave = LeaveStage.none then .taken else s.ctl.leave } }.answer .done []
  else s.answer .wrongState []

/-- LEAVE_COMMAND (R133). -/
def execLeaveCommand (dt : Nat) (s : State) : Host.Outcome State Fault Refusal := s.outside dt State.leaveTaken

/-- The RESTART command (R136). -/
def State.restart (s : State) : State :=
  if s.ctl.life = .config then s.answer .wrongState [] else s.restartPath.answer .done []

/-- RESTART (R136). -/
def execRestart (dt : Nat) (s : State) : Host.Outcome State Fault Refusal := s.outside dt State.restart

/-- UNKNOWN_COMMAND: a code that names no command is answered BAD_ARGUMENT (R175). A code that names one is another row's,
and this step then changes nothing (notes/assumptions/3.md). -/
def execUnknownCommand (dt : Nat) (code : Byte) (s : State) : Host.Outcome State Fault Refusal :=
  s.outside dt (fun s => if commandCodes.contains code then s else s.answer .badArgument [])

/-- TRANSACTION_ABANDONED has no effect (R174). -/
def execTransactionAbandoned (dt : Nat) (s : State) : Host.Outcome State Fault Refusal := s.outside dt (fun s => s)

end Sys2Proof.Machine
end

