-- ==== Sys2Proof/Machine/PortRead.lean ====
section
/-! DEFINITION. The reading commands of the service port: STATUS, READ POOL, READ ROSTER, READ RECORD, READ GAPS, READ
CHANNEL, TAKE BATCH, TAKE EVENT (R149, R151, R176 to R180, R183, R189, R190). -/

namespace Sys2Proof.Machine

/-- The digest STATUS returns: the newest history entry's, or 0 while there is no fold point, a DESIGN CHOICE (R176,
notes/assumptions/29.md). -/
def State.statusDigest (s : State) : Digest :=
  if s.pool.foldPoint = none then 0
  else match s.pool.history.getLast? with
    | none => 0
    | some h => h.digest

/-- The 14 bytes of the STATUS result (R176, R189). -/
def State.statusBytes (s : State) : List Byte :=
  [s.ctl.life.code, s.ctl.cause.code, s.pool.agreement.code] ++ bytes16 s.clock.cur ++
    flagsByte [s.pool.foldPoint.isSome, s.pool.clean, s.port.lost, s.ctl.straps.rate, s.ctl.straps.auto] ::
    bytes16 (optEpoch s.pool.foldPoint) ++ bytes16 s.statusDigest ++
    [optStationByte s.clock.pacing, optStationByte s.roster.reference, BitVec.ofNat 8 s.port.events.length,
      stationByte s.own]

/-- STATUS returns its result and clears LOST (R176). -/
def State.readStatus (s : State) : State :=
  let s' := s.answer .done s.statusBytes
  { s' with port := { s'.port with lost := false } }

/-- STATUS (R176). -/
def execStatus (dt : Nat) (s : State) : Host.Outcome State Fault Refusal := s.outside dt State.readStatus

/-- READ POOL of an index (R177). -/
def State.readPool (s : State) (index : Byte) : State :=
  if h : index.toNat < 8 then
    let e := s.pool.table.get ⟨index.toNat, h⟩
    s.answer .done (bytes32 e.balance ++ flagsByte [e.clipped] :: bytes64 (s.builder.carry.get ⟨index.toNat, h⟩))
  else s.answer .badArgument []

/-- READ_POOL (R177). -/
def execReadPool (dt : Nat) (index : Byte) (s : State) : Host.Outcome State Fault Refusal :=
  s.outside dt (fun s => s.readPool index)

/-- The last report part's fields: report epoch, fold point, digest, and the presence bits 3 and 4 (R178, R189). The
digest of a report without a fold point is sent as 0 (notes/assumptions/29.md). -/
def lastReportBytes : Option LastReport → List Byte × Bool × Bool
  | none => ([0, 0, 0, 0, 0, 0], false, false)
  | some r =>
    match r.fold with
    | none => (bytes16 r.epoch ++ [0, 0, 0, 0], false, r.clean)
    | some m => (bytes16 r.epoch ++ bytes16 m.point ++ bytes16 m.digest, true, r.clean)

/-- The 13 bytes of a roster entry (R178, R189). -/
def RosterEntry.bytes (e : RosterEntry) : List Byte :=
  let last := lastReportBytes e.lastReport
  e.state.code :: BitVec.ofNat 8 e.miss ::
    flagsByte [e.firstHeard.isSome, e.lastJoin.isSome, e.lastReport.isSome, last.2.1, last.2.2] ::
    bytes16 (optEpoch e.firstHeard) ++ bytes16 (optEpoch e.lastJoin) ++ last.1

/-- READ ROSTER of a station number (R178). -/
def State.readRoster (s : State) (station : Byte) : State :=
  if h : station.toNat < 32 then s.answer .done (s.entry ⟨station.toNat, h⟩).bytes else s.answer .badArgument []

/-- READ_ROSTER (R178). -/
def execReadRoster (dt : Nat) (station : Byte) (s : State) : Host.Outcome State Fault Refusal :=
  s.outside dt (fun s => s.readRoster station)

/-- Four slots of originator and serial, unused ones 0 (R179, R189). -/
def appliedBytes (applied : List Adjustment) : List Byte :=
  ((applied.flatMap (fun (a : Adjustment) => [stationByte a.originator, a.serial])) ++ List.replicate 8 0).take 8

/-- The outbox part of READ RECORD at pool count k (R179, R189). -/
def outboxBytes (k : Nat) : Option OutEntry → List Byte
  | none => List.replicate (2 + 2 * k) 0
  | some e =>
    flagsByte [true, e.transmitted, e.designated] :: BitVec.ofNat 8 e.resends :: e.deltas.flatMap bytes16

/-- The 23 + 10 × k bytes of a record and its outbox part (R179, R189). -/
def State.recordBytes (s : State) (r : Record) : List Byte :=
  bytes16 r.epoch ++ [r.state.code, BitVec.ofNat 8 s.ctl.profile.pools] ++ bytes32 r.expected ++ bytes32 r.heard ++
    r.sums.flatMap bytes32 ++ r.late.flatMap bytes32 ++ [BitVec.ofNat 8 r.applied.length] ++ appliedBytes r.applied ++
    outboxBytes s.ctl.profile.pools (s.builder.outbox.find? (fun e => e.epoch == r.epoch))

/-- READ RECORD at a position (R179). -/
def State.readRecord (s : State) (position : Byte) : State :=
  if position.toNat < 8 then
    match s.window.records[position.toNat]? with
    | none => s.answer .empty []
    | some r => s.answer .done (s.recordBytes r)
  else s.answer .badArgument []

/-- READ_RECORD (R179). -/
def execReadRecord (dt : Nat) (position : Byte) (s : State) : Host.Outcome State Fault Refusal :=
  s.outside dt (fun s => s.readRecord position)

/-- READ GAPS (R180). -/
def State.readGaps (s : State) : State :=
  s.answer .done (BitVec.ofNat 8 s.pool.gaps.length ::
    s.pool.gaps.flatMap (fun g => stationByte g.station :: bytes16 g.epoch))

/-- READ_GAPS (R180). -/
def execReadGaps (dt : Nat) (s : State) : Host.Outcome State Fault Refusal := s.outside dt State.readGaps

/-- READ CHANNEL (R151). -/
def State.readChannel (s : State) (channel : Byte) : State :=
  if h : channel.toNat < 4 then
    let c := s.channels.get ⟨channel.toNat, h⟩
    s.answer .done (bytes32 c.acc ++ bytes32 c.lifetime ++ [flagsByte [c.gateHigh, c.accSat]])
  else s.answer .badArgument []

/-- READ_CHANNEL (R151). -/
def execReadChannel (dt : Nat) (channel : Byte) (s : State) : Host.Outcome State Fault Refusal :=
  s.outside dt (fun s => s.readChannel channel)

/-- TAKE BATCH: the holder is returned and its flags cleared (R149). -/
def State.takeBatch (s : State) (channel : Byte) : State :=
  if h : channel.toNat < 4 then
    let c := s.channels.get ⟨channel.toNat, h⟩
    let cleared : Channel := { c with holder := { c.holder with new := false, overwritten := false } }
    { s with channels := s.channels.set ⟨channel.toNat, h⟩ cleared }.answer .done
      (bytes32 c.holder.value ++ [flagsByte [c.holder.new, c.holder.overwritten]])
  else s.answer .badArgument []

/-- TAKE_BATCH (R149). -/
def execTakeBatch (dt : Nat) (channel : Byte) (s : State) : Host.Outcome State Fault Refusal :=
  s.outside dt (fun s => s.takeBatch channel)

/-- TAKE EVENT: the oldest entry is removed and returned with the number that remain (R183). -/
def State.takeEvent (s : State) : State :=
  match s.port.events with
  | [] => s.answer .empty []
  | e :: t =>
    { s with port := { s.port with events := t } }.answer .done (e.bytes ++ [BitVec.ofNat 8 t.length])

/-- TAKE_EVENT (R183). -/
def execTakeEvent (dt : Nat) (s : State) : Host.Outcome State Fault Refusal := s.outside dt State.takeEvent

end Sys2Proof.Machine
end

