-- ==== Sys2Proof/Machine/Transmit.lean ====
section
/-! DEFINITION. The steps of the transmitter: MARK_BEGIN, OWN_MARK, SLOT_REPORT_BEGIN, SLOT_REPORT_MISSED,
SLOT_REPORT_SENT, OPEN_WINDOW_GAP_COMPLETE, the SENT steps of the send queue, ARBITRATION_LOST and DRIVE_FAULT. A step that
cannot arise changes nothing (notes/assumptions/3.md). -/

namespace Sys2Proof.Machine

/-! ### Frames built -/

/-- The profile digest in use; none is in use before the freeze, when nothing is sent (R167). -/
def State.profileDigest (s : State) : Digest := s.ctl.digest.getD 0

/-- The MARK as built at this instant (R2). -/
def State.buildMark (s : State) : MarkFrame :=
  { sender := s.own, epoch := s.clock.cur + 1, founding := decide (0 < s.clock.probation), digest := s.profileDigest
    map := s.presentMap }

/-- The outbox entry of epoch e. -/
def State.outEntry (s : State) (e : Epoch) : Option OutEntry := s.builder.outbox.find? (fun x => x.epoch == e)

/-- A pair still stands in a REQUEST: its record is held, its station not heard, its gap not closed, and nobody asked
for it (R76, notes/assumptions/28.md). -/
def State.pairStands (s : State) (p : Pair) : Bool :=
  match s.record p.epoch with
  | none => false
  | some r =>
    if h : p.station.toNat < 32 then
      !mapHas r.heard ⟨p.station.toNat, h⟩ &&
        (r.state != .folded || s.pool.gaps.contains { station := ⟨p.station.toNat, h⟩, epoch := p.epoch }) &&
        !s.window.asked.contains p
    else false

/-- The REQUEST of an entry, or none where it is declined (R76). -/
def State.buildRequest (s : State) (e : QEntry) : Option RequestFrame :=
  let pairs := (e.pairs.getD []).filter s.pairStands
  if pairs = [] ∧ e.target = none then none
  else some { sender := s.own, target := e.target.map stationByte, pairs := pairs }

/-- The SNAPSHOT, or none where it is declined (R97). -/
def State.buildSnapshot (s : State) : Option SnapshotFrame :=
  match s.pool.foldPoint, s.pool.history.getLast? with
  | some f, some h =>
    if s.ctl.life = .run ∧ s.pool.agreement = .agreed ∧ h.complete then
      some { sender := s.own, point := f, balances := s.balances, digest := s.digestAt f, map := s.presentMap }
    else none
  | _, _ => none

/-- An item as an ADJUST carries it (R186: SET 0, ADD 1). -/
def AdjItem.raw (i : AdjItem) : RawItem :=
  { pool := BitVec.ofNat 8 i.pool, kind := if i.set then 0 else 1, value := i.value }

/-- The ADJUST of this station's own queued adjustment of a serial, or none where it is declined (R105). -/
def State.buildAdjust (s : State) (serial : Byte) : Option AdjustFrame :=
  (s.adjust.queue.find? (fun a => a.originator == s.own && a.serial == serial)).map (fun a =>
    { sender := s.own, serial := serial, effective := a.effective, pools := BitVec.ofNat 8 s.ctl.profile.pools
      items := a.items.map AdjItem.raw })

/-- The frame of a send-queue entry, or none where its owner declines (R33, R60, R76, R97, R105, R127, R131, R133). -/
def State.build (s : State) (e : QEntry) : Option Frame :=
  match e.key with
  | .resend epoch => (s.outEntry epoch).map (fun o => .resend (s.buildReport o))
  | .snapshot => s.buildSnapshot.map .snapshot
  | .adjust serial => (s.buildAdjust serial).map .adjust
  | .request => (s.buildRequest e).map .request
  | .join =>
    if s.ctl.life = .joining ∧ s.ctl.profile.foldLag ≤ s.ctl.joinWait then
      some (.join { sender := s.own, digest := s.profileDigest })
    else none
  | .leave => if s.ctl.leave = .leaving then some (.leave { sender := s.own }) else none

/-! ### A frame begins -/

/-- A frame begins at the present instant (R25, R30). -/
def State.beginFrame (s : State) (f : Frame) (owner : TxOwner) : State :=
  { s with line := { s.line with
      tx := some { frame := f, began := s.now, owner := owner, changed := false }, state := .busy } }

/-- The pending MARK is built and begins once the line has been idle for 12 bit times (R2, R5, R27). -/
def State.markBegins (s : State) : State :=
  match s.line.state with
  | .idle t =>
    if s.ctl.life = .run ∧ s.clock.pending ∧ s.line.tx = none then
      let s' := s.until (t + s.bits 12)
      s'.beginFrame (.mark s'.buildMark) .mark
    else s
  | .off => s
  | .busy => s
  | .abandoned => s

/-- MARK_BEGIN (R2, R5). -/
def execMarkBegin (s : State) : Host.Outcome State Fault Refusal := s.inside State.markBegins

/-- The end of the own slot, origin + 320 × (n + 1) bit times (R1, R28). -/
def State.slotEnd (s : State) (origin : Instant) : Instant := origin + s.bits (320 * ((s.own.val : Int) + 1))

/-- The slot REPORT handed over begins once the line has been idle for 4 bit times, if it then ends within the slot
(R28). -/
def State.slotReportBegins (s : State) : State :=
  match s.line.slotWaiting, s.line.state, s.clock.origin with
  | some f, .idle t, some o =>
    let s' := s.until (t + s.bits 4)
    if s.ctl.life = .run ∧ s.line.tx = none ∧ s'.now + s.bits (10 * ((Frame.report f).size : Int)) ≤ s.slotEnd o then
      { s' with line := { s'.line with slotWaiting := none } }.beginFrame (.report f) (.slot f.epoch)
    else s
  | _, _, _ => s

/-- SLOT_REPORT_BEGIN (R28, R57). -/
def execSlotReportBegin (s : State) : Host.Outcome State Fault Refusal := s.inside State.slotReportBegins

/-- The last instant at which the slot REPORT f could begin, the slot belonging to the epoch of the given origin (R28). -/
def State.lastBegin (s : State) (f : ReportFrame) (origin : Instant) : Instant :=
  s.slotEnd origin - s.bits (10 * ((Frame.report f).size : Int))

/-- The line at an instant t at which it has been found busy: a line held for idle 4 bit times or longer carries a frame of
another station since (R19, R28, notes/assumptions/38.md). -/
def State.foundBusy (s : State) (t : Instant) : LineState :=
  match s.line.state with
  | .idle since => if s.line.tx = none ∧ since + s.bits 4 ≤ t then .busy else .idle since
  | .off => .off
  | .busy => .busy
  | .abandoned => .abandoned

/-- The slot is missed, the line staying busy to the last instant at which the REPORT could begin: a RESEND is offered
(R28, R58). -/
def State.slotMissed (s : State) : State :=
  match s.line.slotWaiting, s.clock.origin with
  | some f, some o =>
    if s.ctl.life = .run then
      let s' := s.until (s.lastBegin f o)
      { s' with line := { s'.line with slotWaiting := none, state := s.foundBusy (s.lastBegin f o) } }.offerKey
        (.resend f.epoch)
    else s
  | _, _ => s

/-- SLOT_REPORT_MISSED (R28, R58). -/
def execSlotReportMissed (s : State) : Host.Outcome State Fault Refusal := s.inside State.slotMissed

/-! ### The send queue is taken -/

/-- Takes the queue in order at the present instant: declined entries leave, those the guard stops stay, and the first
frame that passes begins. latest is origin + P − 24 bit times, the guard's end (R29, R33). Answers the entries that stay
and the frame with its key. -/
def State.takeQueue (s : State) (latest : Instant) : List QEntry → List QEntry × Option (QKey × Frame)
  | [] => ([], none)
  | e :: t =>
    match s.build e with
    | none => s.takeQueue latest t
    | some f =>
      if s.now + s.bits (10 * (f.size : Int)) ≤ latest then (e :: t, some (e.key, f))
      else
        let r := s.takeQueue latest t
        (e :: r.1, r.2)

/-- The instant at which the open-window gap is complete on a line idle since t, with this origin (R27). -/
def State.gapEnd (s : State) (t origin : Instant) : Instant := max t (origin + s.bits 10240) + s.windowGap

/-- The open-window gap is complete and the queue is taken (R33). -/
def State.gapComplete (s : State) : State :=
  match s.line.state, s.clock.origin with
  | .idle t, some o =>
    if (s.ctl.life = .run ∨ s.ctl.life = .joining) ∧ s.clock.slotTimer = .window ∧ s.line.tx = none ∧
        s.clock.pending = false ∧ s.line.slotWaiting = none ∧ s.line.taken = false then
      let s' := s.until (s.gapEnd t o)
      let r := s'.takeQueue (o + s.period - s.bits 24) s.line.queue
      let s2 := { s' with line := { s'.line with queue := r.1 } }
      match r.2 with
      | some (key, f) => s2.beginFrame f (.queue key)
      | none => { s2 with line := { s2.line with taken := true } }
    else s
  | _, _ => s

/-- OPEN_WINDOW_GAP_COMPLETE (R33). -/
def execOpenWindowGapComplete (s : State) : Host.Outcome State Fault Refusal := s.inside State.gapComplete

/-! ### A frame has gone out whole -/

/-- The station's frame t ends on the line: the instant moves to its end and the line is idle from there (R19, R25). -/
def State.frameOut (s : State) (t : Tx) : State :=
  let s' := s.until (t.began + s.bits (10 * (t.frame.size : Int)))
  s'.endTx.lineIdle s'.now

/-- A send-queue frame has gone out whole: its entry leaves the queue unless a merge changed it meanwhile (R33). -/
def State.queueFrameOut (s : State) (t : Tx) (key : QKey) : State :=
  if t.changed then s.frameOut t else (s.frameOut t).dropEntry key

/-- Acts on the frame in transmission if it is the one the send queue offered under the key. -/
def State.whenSent (s : State) (key : QKey) (f : State → State) : State :=
  match s.line.tx with
  | none => s
  | some t => if t.owner = .queue key then f (s.queueFrameOut t key) else s

/-- The station's own MARK is taken as its mark (R6). -/
def State.ownMark (s : State) : State :=
  match s.line.tx with
  | none => s
  | some t =>
    if t.owner = .mark ∧ s.ctl.life = .run then
      let s1 := s.frameOut t
      let s2 := (s1.beginEpoch (s1.clock.cur + 1) (some s1.own) s1.now 0).reloadMarkTimer s1.now
      { s2 with clock := { s2.clock with probation := s2.clock.probation - 1 } }.takeMark true
    else s

/-- OWN_MARK (R6). -/
def execOwnMark (s : State) : Host.Outcome State Fault Refusal := s.inside State.ownMark

/-- The outbox with entry e marked transmitted, its designation cleared (R58, R60). -/
def State.markTransmitted (s : State) (e : Epoch) : State :=
  { s with builder := { s.builder with outbox := s.builder.outbox.map (fun x =>
      if x.epoch = e then { x with transmitted := true, designated := false } else x) } }

/-- This station's own report of epoch e goes to the window (R69). -/
def State.enterOwnReport (s : State) (e : Epoch) : State :=
  match s.outEntry e with
  | none => s
  | some x => s.takeReport s.own e x.deltas

/-- The slot REPORT has gone out whole (R58). -/
def State.slotReportSent (s : State) : State :=
  match s.line.tx with
  | none => s
  | some t =>
    match t.owner with
    | .slot e => ((s.frameOut t).markTransmitted e).enterOwnReport e
    | .mark => s
    | .queue _ => s

/-- SLOT_REPORT_SENT (R58). -/
def execSlotReportSent (s : State) : Host.Outcome State Fault Refusal := s.inside State.slotReportSent

/-- The resend count of entry e rises, staying at 255 (R53, R60). -/
def State.countResend (s : State) (e : Epoch) : State :=
  { s with builder := { s.builder with outbox := s.builder.outbox.map (fun x =>
      if x.epoch = e then { x with resends := if x.resends < 255 then x.resends + 1 else 255 } else x) } }

/-- A RESEND of epoch e has gone out whole: the resend count rises, and an untransmitted entry is marked transmitted and
handed to the window (R60). -/
def State.resendOut (s : State) (e : Epoch) : State :=
  match s.outEntry e with
  | none => s
  | some x =>
    if x.transmitted then s.countResend e else ((s.countResend e).markTransmitted e).enterOwnReport e

/-- A RESEND has gone out whole (R60). -/
def State.resendSent (s : State) : State :=
  match s.line.tx with
  | none => s
  | some t =>
    match t.owner with
    | .queue (.resend e) => s.whenSent (.resend e) (fun s => s.resendOut e)
    | _ => s

/-- RESEND_SENT (R60). -/
def execResendSent (s : State) : Host.Outcome State Fault Refusal := s.inside State.resendSent

/-- SNAPSHOT_SENT: nothing changes in the pool unit (R96). -/
def execSnapshotSent (s : State) : Host.Outcome State Fault Refusal :=
  s.inside (fun s => s.whenSent .snapshot (fun s => s))

/-- An ADJUST has gone out whole (R106). -/
def State.adjustSent (s : State) : State :=
  match s.line.tx with
  | none => s
  | some t =>
    match t.owner with
    | .queue (.adjust serial) => s.whenSent (.adjust serial) (fun s => s)
    | _ => s

/-- ADJUST_SENT (R106). -/
def execAdjustSent (s : State) : Host.Outcome State Fault Refusal := s.inside State.adjustSent

/-- REQUEST_SENT: nothing in the window changes (R76). -/
def execRequestSent (s : State) : Host.Outcome State Fault Refusal :=
  s.inside (fun s => s.whenSent .request (fun s => s))

/-- A JOIN has gone out whole: the join attempts rise and the join wait count becomes 0 (R127). -/
def State.joinOut (s : State) : State :=
  { s with ctl := { s.ctl with
      joinAttempts := if s.ctl.joinAttempts < 3 then s.ctl.joinAttempts + 1 else 3, joinWait := 0 } }

/-- JOIN_SENT (R127). -/
def execJoinSent (s : State) : Host.Outcome State Fault Refusal :=
  s.inside (fun s => s.whenSent .join State.joinOut)

/-- LEAVE_SENT: the station enters QUIET at the end of its LEAVE (R133). -/
def execLeaveSent (s : State) : Host.Outcome State Fault Refusal :=
  s.inside (fun s => s.whenSent .leave (fun s => s.enterFrozen .quiet .none))

/-! ### A frame is lost -/

/-- The frame in transmission loses arbitration: the line is busy with the frame that won, and a slot REPORT is offered as
a RESEND and counted as an identity conflict (R5, R23, R25, R26, R48, R58). -/
def State.arbitrationLost (s : State) : State :=
  match s.line.tx with
  | none => s
  | some t =>
    let s1 := s.endTx
    let s2 := { s1 with line := { s1.line with state := .busy, overlap := true } }
    match t.owner with
    | .slot e => (s2.offerKey (.resend e)).countConflict
    | .mark => s2
    | .queue _ => s2

/-- ARBITRATION_LOST (R25). -/
def execArbitrationLost (dt : Nat) (s : State) : Host.Outcome State Fault Refusal := s.outside dt State.arbitrationLost

/-- The transmitter meets a drive fault: the discarded count rises, and a slot REPORT is offered as a RESEND. The line is
reckoned idle from this instant, a DESIGN CHOICE (R24, R25, R26, R33, R58, notes/assumptions/18.md). -/
def State.driveFault (s : State) : State :=
  match s.line.tx with
  | none => s
  | some t =>
    let s1 := (s.endTx.countDiscarded).lineIdle s.now
    match t.owner with
    | .slot e => s1.offerKey (.resend e)
    | .mark => s1
    | .queue _ => { s1 with line := { s1.line with taken := true } }

/-- DRIVE_FAULT (R25). -/
def execDriveFault (dt : Nat) (s : State) : Host.Outcome State Fault Refusal := s.outside dt State.driveFault

end Sys2Proof.Machine
end

