-- ==== Sys2Proof/Machine/Dispatch.lean ====
section
/-! DEFINITION. One arm per command: its meaning. -/

namespace Sys2Proof.Machine

/-- The effect of a command on everything but the queue of waiting commands. -/
def exec (i : Instr) (s : State) : Host.Outcome State Fault Refusal :=
  match i with
  | .hardwareReset dt => Sys2Proof.Machine.execHardwareReset dt s
  | .hardwareResetEnd dt id rate auto => Sys2Proof.Machine.execHardwareResetEnd dt id rate auto s
  | .autoTimerExpiry => Sys2Proof.Machine.execAutoTimerExpiry s
  | .listenTimerExpiry => Sys2Proof.Machine.execListenTimerExpiry s
  | .joinSilenceExpiry => Sys2Proof.Machine.execJoinSilenceExpiry s
  | .markTimerExpiry => Sys2Proof.Machine.execMarkTimerExpiry s
  | .markBegin => Sys2Proof.Machine.execMarkBegin s
  | .ownMark => Sys2Proof.Machine.execOwnMark s
  | .slotStart => Sys2Proof.Machine.execSlotStart s
  | .slotReportBegin => Sys2Proof.Machine.execSlotReportBegin s
  | .slotReportMissed => Sys2Proof.Machine.execSlotReportMissed s
  | .slotReportSent => Sys2Proof.Machine.execSlotReportSent s
  | .slotPhaseEnd => Sys2Proof.Machine.execSlotPhaseEnd s
  | .openWindowGapComplete => Sys2Proof.Machine.execOpenWindowGapComplete s
  | .resendSent => Sys2Proof.Machine.execResendSent s
  | .snapshotSent => Sys2Proof.Machine.execSnapshotSent s
  | .adjustSent => Sys2Proof.Machine.execAdjustSent s
  | .requestSent => Sys2Proof.Machine.execRequestSent s
  | .joinSent => Sys2Proof.Machine.execJoinSent s
  | .leaveSent => Sys2Proof.Machine.execLeaveSent s
  | .leaveDeadline => Sys2Proof.Machine.execLeaveDeadline s
  | .arbitrationLost dt => Sys2Proof.Machine.execArbitrationLost dt s
  | .driveFault dt => Sys2Proof.Machine.execDriveFault dt s
  | .frameAbandoned dt => Sys2Proof.Machine.execFrameAbandoned dt s
  | .frameDiscarded dt bytes => Sys2Proof.Machine.execFrameDiscarded dt bytes s
  | .markReceived dt f => Sys2Proof.Machine.execMarkReceived dt f s
  | .reportReceived dt f => Sys2Proof.Machine.execReportReceived dt f s
  | .resendReceived dt f => Sys2Proof.Machine.execResendReceived dt f s
  | .requestReceived dt f => Sys2Proof.Machine.execRequestReceived dt f s
  | .snapshotReceived dt f => Sys2Proof.Machine.execSnapshotReceived dt f s
  | .adjustReceived dt f => Sys2Proof.Machine.execAdjustReceived dt f s
  | .joinReceived dt f => Sys2Proof.Machine.execJoinReceived dt f s
  | .leaveReceived dt f => Sys2Proof.Machine.execLeaveReceived dt f s
  | .filteredCntRise dt ch => Sys2Proof.Machine.execFilteredCntRise dt ch s
  | .filteredDirChange dt ch => Sys2Proof.Machine.execFilteredDirChange dt ch s
  | .filteredGateRise dt ch => Sys2Proof.Machine.execFilteredGateRise dt ch s
  | .filteredGateFall dt ch => Sys2Proof.Machine.execFilteredGateFall dt ch s
  | .status dt => Sys2Proof.Machine.execStatus dt s
  | .readPool dt index => Sys2Proof.Machine.execReadPool dt index s
  | .readRoster dt station => Sys2Proof.Machine.execReadRoster dt station s
  | .readRecord dt position => Sys2Proof.Machine.execReadRecord dt position s
  | .readGaps dt => Sys2Proof.Machine.execReadGaps dt s
  | .readChannel dt channel => Sys2Proof.Machine.execReadChannel dt channel s
  | .takeBatch dt channel => Sys2Proof.Machine.execTakeBatch dt channel s
  | .takeEvent dt => Sys2Proof.Machine.execTakeEvent dt s
  | .writeProfile dt item value => Sys2Proof.Machine.execWriteProfile dt item value s
  | .start dt => Sys2Proof.Machine.execStart dt s
  | .postAdjustment dt count items => Sys2Proof.Machine.execPostAdjustment dt count items s
  | .setDrive dt index mode => Sys2Proof.Machine.execSetDrive dt index mode s
  | .leaveCommand dt => Sys2Proof.Machine.execLeaveCommand dt s
  | .restart dt => Sys2Proof.Machine.execRestart dt s
  | .unknownCommand dt code => Sys2Proof.Machine.execUnknownCommand dt code s
  | .transactionAbandoned dt => Sys2Proof.Machine.execTransactionAbandoned dt s
  | .glitch dt => Sys2Proof.Machine.execGlitch dt s
  | .abandonedFrameEnd dt => Sys2Proof.Machine.execAbandonedFrameEnd dt s

end Sys2Proof.Machine
end

