-- ==== Sys2Proof/Machine/Pins.lean ====
section
/-! DEFINITION. The input filters of the channels (R139): the pins' levels, and the filtered changes they come to. -/

namespace Sys2Proof.Machine

/-- The filtered level of an input of channel i (R138). -/
def Channel.level (c : Channel) : InputPin → Bool
  | .cnt => c.cntHigh | .dir => c.dirHigh | .gate => c.gateHigh

/-- A filtered change that is to come: its instant and its input. -/
structure FilterChange where
  due : Instant
  ch : Fin 4
  pin : InputPin
  deriving DecidableEq, Repr

/-- Every input of every channel. -/
def inputPins : List (Fin 4 × InputPin) :=
  indexes4.flatMap (fun i => [(i, InputPin.cnt), (i, InputPin.dir), (i, InputPin.gate)])

/-- The filtered change an input's pin is heading for: it comes once the pin has held the other level for the filter
width (R139). -/
def State.changeOf (s : State) (i : Fin 4) (x : InputPin) : Option FilterChange :=
  if (s.pin i x).high = (s.channels.get i).level x then none
  else some { due := (s.pin i x).since + s.filterWidth i, ch := i, pin := x }

/-- Every filtered change that is to come while the pins stay as they are; the filters stand still during hardware reset
(R139). -/
def State.filterChanges (s : State) : List FilterChange :=
  if s.ctl.inReset then [] else inputPins.filterMap (fun p => s.changeOf p.1 p.2)

/-- The changes that come first among those given. -/
def earliest (l : List FilterChange) : List FilterChange := l.filter (fun c => l.all (fun d => decide (c.due ≤ d.due)))

/-- The filtered change that comes next; of several at one instant a free value says which, since either may be first
(R141, R148, notes/assumptions/5.md). Of several that a smaller width at the freeze makes due at once the one that would
have come earlier under that width is first, a DESIGN CHOICE: R141 and R148 allow either (notes/assumptions/15.md). -/
def State.nextChange (s : State) : Option FilterChange :=
  match earliest s.filterChanges with
  | [] => none
  | [c] => some c
  | c :: l => (c :: l)[Config.freeBlock s.free % (c :: l).length]?

/-- The filtered level of an input changes to its pin's level (R139). -/
def State.filtered (s : State) (i : Fin 4) (x : InputPin) : State :=
  match x with
  | .cnt => if (s.pin i x).high then s.cntEdge i else s.cntFall i
  | .dir => s.dirEdge i
  | .gate => if (s.pin i x).high then s.gateRise i else s.gateFall i

/-- A filtered change takes place at its instant (R139). -/
def State.takeChange (s : State) (c : FilterChange) : State := (s.draw.until c.due).filtered c.ch c.pin

/-- An input pin takes a level at the present instant; a pin that already has it holds it on (R139). -/
def State.pinTakes (s : State) (i : Fin 4) (x : InputPin) (high : Bool) : State :=
  if (s.pin i x).high = high then s else s.setPin i x { high := high, since := s.now }

end Sys2Proof.Machine
end

