-- ==== Sys2Proof/Machine/Serial.lean ====
section
/-! DEFINITION. The service port as CS, SCK and SDI give it: transactions, the commands their bytes spell, and SDO (R172 to
R175, R185, R189). -/

namespace Sys2Proof.Machine

/-- A byte of its bits, most significant bit first (R172, R189). -/
def byteOf (bits : List Bool) : Byte := bits.foldl (fun (acc : Byte) b => (acc <<< 1) ||| (if b then 1 else 0)) 0

/-- The command of a single argument byte, or none while the byte is incomplete. -/
def withByte (args : List Byte) (f : Byte → Instr) : Option Instr :=
  match args with
  | [a] => some (f a)
  | _ => none

/-- The command of two argument bytes, or none while they are incomplete. -/
def withTwo (args : List Byte) (f : Byte → Byte → Instr) : Option Instr :=
  match args with
  | [a, b] => some (f a b)
  | _ => none

/-- WRITE PROFILE of an item number and a value of four bytes, or none while they are incomplete (R189). -/
def writeOf (args : List Byte) : Option Instr :=
  match args with
  | [n, a, b, c, d] => some (.writeProfile 0 n (a ++ b ++ c ++ d))
  | _ => none

/-- POST ADJUSTMENT of an item count and as many items, the count alone where it lies outside 1 to 4, or none while they are
incomplete (R175, R189). -/
def postOf (args : List Byte) : Option Instr :=
  match args with
  | [] => none
  | count :: t => if t.length = 6 * postedItems count then some (.postAdjustment 0 count (readItems t)) else none

/-- The command that a transaction's bytes spell once the last of them completes it, or none while argument bytes are
incomplete (R175, R189). A code that names no command is taken at once (R175). -/
def commandOf : List Byte → Option Instr
  | [] => none
  | code :: args =>
    if code = 0x01 then some (.status 0)
    else if code = 0x02 then withByte args (.readPool 0)
    else if code = 0x03 then withByte args (.readRoster 0)
    else if code = 0x04 then withByte args (.readRecord 0)
    else if code = 0x05 then some (.readGaps 0)
    else if code = 0x06 then withByte args (.readChannel 0)
    else if code = 0x07 then withByte args (.takeBatch 0)
    else if code = 0x08 then some (.takeEvent 0)
    else if code = 0x10 then writeOf args
    else if code = 0x11 then some (.start 0)
    else if code = 0x12 then postOf args
    else if code = 0x13 then withTwo args (.setDrive 0)
    else if code = 0x14 then some (.leaveCommand 0)
    else if code = 0x15 then some (.restart 0)
    else some (.unknownCommand 0 code)

/-- The transaction in progress is replaced. -/
def State.setTxn (s : State) (x : Option Txn) : State := { s with port := { s.port with txn := x } }

/-- CS changes: its fall begins a transaction, its rise ends it, and what was not clocked out is lost (R172, R174). A
transaction that ends before its command is taken is abandoned. Answers the command that the port takes. -/
def State.csTakes (s : State) (high : Bool) : State × Option Instr :=
  let t : State := { s with inputs := { s.inputs with cs := high } }
  if s.inputs.cs = high ∨ s.ctl.inReset then (t, none)
  else
    let quiet : State := { t with port := { t.port with reply := none } }
    if high then
      (quiet.setTxn none, match s.port.txn with
        | none => none
        | some x => if x.taken then none else some (.transactionAbandoned 0))
    else (quiet.setTxn (some { shift := [], bytes := [], taken := false, falls := 0 }), none)

/-- A bit is clocked in; the eighth completes a byte, and a byte that completes a command has it taken. SDI is ignored once
the command is taken (R172, R173). -/
def Txn.clockIn (x : Txn) (bit : Bool) : Txn × Option Instr :=
  if x.taken then (x, none)
  else if (x.shift ++ [bit]).length < 8 then ({ x with shift := x.shift ++ [bit] }, none)
  else
    let bytes := x.bytes ++ [byteOf (x.shift ++ [bit])]
    let c := commandOf bytes
    ({ shift := [], bytes := bytes, taken := c.isSome, falls := 0 }, c)

/-- A bit is clocked out: the falls of SCK are counted once the command is taken (R172). -/
def Txn.clockOut (x : Txn) : Txn := if x.taken then { x with falls := x.falls + 1 } else x

/-- SCK changes: SDI is sampled at its rise, SDO goes on at its fall; outside a transaction it is ignored (R172). -/
def State.sckTakes (s : State) (high : Bool) : State × Option Instr :=
  let t : State := { s with inputs := { s.inputs with sck := high } }
  if s.inputs.sck = high then (t, none)
  else
    match s.port.txn with
    | none => (t, none)
    | some x =>
      if high then (t.setTxn (some (x.clockIn s.inputs.sdi).1), (x.clockIn s.inputs.sdi).2)
      else (t.setTxn (some x.clockOut), none)

/-- The level of SDO, or none while it is released: while CS is high, and from a hardware reset to the next fall of CS. It
carries ones until the fall of SCK after the last argument byte, then outcome and result bytes, then ones (R172, R185). -/
def State.sdo (s : State) : Option Bool :=
  match s.port.txn with
  | none => none
  | some x =>
    match s.port.reply with
    | none => some true
    | some r =>
      some (!x.taken || x.falls == 0 || (r.sdo ((x.falls - 1) / 8)).getLsbD (7 - (x.falls - 1) % 8))

end Sys2Proof.Machine
end

