-- ==== Sys2Proof/Machine/Wires.lean ====
section
/-! DEFINITION. What happens while no command waits: the filtered changes that fall due (R139), the line's samples (R21, R25),
and the changes on the wires that come from outside (R19, R139, R172). notes/assumptions/4.md. -/

namespace Sys2Proof.Machine

/-- A change on a wire at the present instant, with the service-port command it has taken. -/
def State.wireTakes (s : State) (w : Wire) : State × Option Instr :=
  match w with
  | .input i x high => (s.pinTakes i x high, none)
  | .cs high => s.csTakes high
  | .sck high => s.sckTakes high
  | .sdi high => ({ s with inputs := { s.inputs with sdi := high } }, none)
  | .line high => (s.lineTakes high, none)
  | .frameBegins => (if s.ctl.inReset then s else s.frameBegins, none)

/-- A change on a wire, dt nanoseconds after the step before; a command it completes is taken at that instant (R173). -/
def takeWire (dt : Nat) (w : Wire) (s : State) : Host.Outcome State Fault Refusal :=
  let r := State.wireTakes { s with now := s.now + dt } w
  match r.2 with
  | none => .next r.1.finish
  | some c => exec c r.1

/-- A filtered change comes before a wire's change that falls at the instant t: by its instant, at one instant before a
channel pin's change, which comes too late to undo it, and else as a free value says (R139, R173). -/
def State.filterFirst (s : State) (c : FilterChange) (t : Instant) (w : Wire) : Bool :=
  match w with
  | .input _ _ _ => decide (c.due ≤ t)
  | .cs _ => decide (c.due < t) || (c.due == t && s.coin)
  | .sck _ => decide (c.due < t) || (c.due == t && s.coin)
  | .sdi _ => decide (c.due < t) || (c.due == t && s.coin)
  | .line _ => decide (c.due < t) || (c.due == t && s.coin)
  | .frameBegins => decide (c.due < t) || (c.due == t && s.coin)

/-- The wires that wait when the instant has moved on to t: the first comes no later than it would have. -/
def State.wiresFrom (s : State) (t : Instant) : List WireChange :=
  match s.wires with
  | [] => []
  | w :: rest => { w with dt := (s.now + (w.dt : Int) - t).toNat } :: rest

/-- A filtered change takes place as a step of its own. -/
def takeFilter (c : FilterChange) (s : State) : Host.Outcome State Fault Refusal :=
  let t := (s.takeChange c).finish
  .next { t with wires := s.wiresFrom t.now }

/-- The instant moves on to t, or stays if it is past t already, the wires that wait coming when they would have. -/
def State.comeTo (s : State) (t : Instant) : State := { s.until t with wires := s.wiresFrom (s.until t).now }

/-- The sample that falls due at the instant t is taken as a step of its own, with the command that it brings; that command
is taken as of its own instant, such as the end of a frame recognised 3 bit times later (R20, notes/assumptions/41.md). -/
def takeSample (t : Instant) (s : State) : Host.Outcome State Fault Refusal :=
  let s' := s.comeTo t
  let r := s'.sample
  match r.2 with
  | none => .next r.1.finish
  | some (c, at_) =>
    match exec c { r.1 with now := at_ } with
    | .next u => .next { u.idleFromGlitch s.inputs.tally with now := s'.now }
    | .fault e => .fault e
    | .refused e => .refused e

/-- The instant at which the next filtered change or the next wire comes. -/
def State.nextOnPins (s : State) : Option Instant :=
  match s.wires, s.nextChange with
  | [], none => none
  | [], some c => some c.due
  | w :: _, none => some (s.now + w.dt)
  | w :: _, some c => some (min c.due (s.now + w.dt))

/-- The next filtered change or the next wire, whichever comes first; with neither to come the block idles. -/
def tickPins (s : State) : Host.Outcome State Fault Refusal :=
  match s.wires with
  | [] =>
    match s.nextChange with
    | none => .next s
    | some c => takeFilter c s
  | w :: rest =>
    match s.nextChange with
    | none => takeWire w.dt w.wire { s with wires := rest }
    | some c =>
      if s.filterFirst c (s.now + w.dt) w.wire then takeFilter c s
      else takeWire w.dt w.wire { s with wires := rest, free := if c.due = s.now + w.dt then s.free + 1 else s.free }

/-- A step with no command waiting: the next sample of the line, or what comes at the pins if that is earlier; at one instant
a free value says which (notes/assumptions/41.md). -/
def tick (s : State) : Host.Outcome State Fault Refusal :=
  match s.nextSample, s.nextOnPins with
  | none, _ => tickPins s
  | some t, none => takeSample t s
  | some t, some u =>
    if t < u then takeSample t s
    else if u < t then tickPins s
    else if s.coin then takeSample t s.draw
    else tickPins s.draw

end Sys2Proof.Machine
end

