-- ==== Sys2Proof/Safety.lean ====
section
/-! DEFINITION. The properties that hold between any two steps, and the words the statements about steps are said in. -/

namespace Sys2Proof.Machine

/-- Time has passed: dt nanoseconds. -/
def State.later (s : State) (dt : Nat) : State := { s with now := s.now + dt }

/-- No event is on its way, the event queue keeps its bound, and IRQ and FAULT follow their conditions (R162, R182, R184;
during hardware reset neither is asserted, R137). -/
abbrev OutputsFollow (s : State) : Prop :=
  s.port.arising = [] ∧ s.port.events.length ≤ 32 ∧
  s.port.irq = (!s.ctl.inReset && (!s.port.events.isEmpty || s.port.lost)) ∧
  s.drives.fault = (!s.ctl.inReset && (s.ctl.life == .mute ||
    (s.ctl.life == .run && (s.pool.agreement == .diverged || s.pool.agreement == .resyncing))))

/-- Every buffer keeps its bound: send queue 8 (R31), outbox 8 (R53), window 8 (R62), asked set 32 (R75), digest history 8
(R83), gap list 16 (R86), adjustment queue 4 (R101), event queue 32 (R182). -/
abbrev Bounded (s : State) : Prop :=
  s.line.queue.length ≤ 8 ∧ s.builder.outbox.length ≤ 8 ∧ s.window.records.length ≤ 8 ∧ s.window.asked.length ≤ 32 ∧
  s.pool.history.length ≤ 8 ∧ s.pool.gaps.length ≤ 16 ∧ s.adjust.queue.length ≤ 4 ∧ s.port.events.length ≤ 32

/-- The agreement state is NONE exactly when the station is not in RUN (R89). -/
abbrev AgreementFollowsRun (s : State) : Prop := s.pool.agreement = .none ↔ s.ctl.life ≠ .run

/-- Outside hardware reset every drive's pin stands where R158 and R159 put it, under the row that governs it. -/
abbrev PinsFollow (s : State) : Prop :=
  s.ctl.inReset = false → ∀ i : Fin 4,
    let cfg := s.ctl.profile.drives.get i
    let d := s.drives.drives.get i
    d.row = pinRow s.ctl.life s.pool.agreement cfg d.mode ∧ d.pin = pinLevel d.row cfg d d.held

/-- The station is not in hardware reset and stands as steps leave it. -/
abbrev Ready (s : State) : Prop := s.ctl.inReset = false ∧ OutputsFollow s

/-- The port after one event arose: it enters as the newest entry, or is dropped and sets LOST (R182); IRQ is asserted
either way (R184). -/
def Port.took (p : Port) (e : Event) : Port :=
  if p.events.length < 32 then { p with events := p.events ++ [e], irq := true } else { p with lost := true, irq := true }

/-- The port after a command's outcome and result are latched (R173). -/
def Port.answered (p : Port) (o : PortOutcome) (result : List Byte) : Port :=
  { p with reply := some { outcome := o, result := result } }

/-- The state after a service-port command that only answers, dt nanoseconds on. -/
def State.answered (s : State) (dt : Nat) (o : PortOutcome) (result : List Byte) : State :=
  { s.later dt with port := s.port.answered o result }

/-- A frame of this station ends at this instant (R20). -/
def State.txEnd (s : State) (t : Tx) : Instant := t.began + s.bits (10 * (t.frame.size : Int))

/-- The instant a step of the station's own is taken at, when it falls due at t. -/
def State.due (s : State) (t : Instant) : Instant := max s.now t

/-- The event stands in the event queue, or an event was lost (R182). -/
abbrev Reported (t : State) (e : Event) : Prop := e ∈ t.port.events ∨ t.port.lost = true

/-- The DRIVE event of drive i, as R161 and R190 lay it out: bit 8 of the value is set if the new level is the active one,
and the low byte is the pin row. -/
def driveEvent (cur : Epoch) (i : Fin 4) (cfg : DriveCfg) (d : Drive) : Event :=
  { kind := .drive, epoch := cur, subject := some (i.castLE (by decide))
    value := (if d.pin = cfg.activeHigh then 0x0100#16 else 0x0000#16) ||| d.row.code.setWidth 16 }

/-- Every drive of t is that of s with its pin found afresh in a life-cycle state and an agreement state (R158, R159), and
each change of level is reported with the epoch cur (R161). What Drive.refreshed does is DrivePinsFollowTable's. -/
abbrev DrivesFollow (s t : State) (cur : Epoch) (life : Life) (ag : Agreement) : Prop :=
  ∀ i : Fin 4,
    t.drives.drives.get i = (s.drives.drives.get i).refreshed (s.ctl.profile.drives.get i) life ag ∧
    ((t.drives.drives.get i).pin ≠ (s.drives.drives.get i).pin →
      Reported t (driveEvent cur i (s.ctl.profile.drives.get i) (t.drives.drives.get i)))

/-- Every enabled drive's rule state has moved once, by the balance of its pool as t holds it; a disabled drive's stands
(R155). -/
abbrev RulesMoved (s t : State) : Prop :=
  ∀ i : Fin 4,
    (∀ p : Fin 8, (s.ctl.profile.drives.get i).pool = some p →
      (t.drives.drives.get i).rule = RuleState.next (s.ctl.profile.drives.get i) (t.pool.table.get p).balance.toInt
        (s.drives.drives.get i).rule) ∧
    ((s.ctl.profile.drives.get i).pool = none → (t.drives.drives.get i).rule = (s.drives.drives.get i).rule)

/-- The state in which a frame that ended at this instant has been heard, dt nanoseconds on, and nothing else has changed:
the line is idle from here, and the send queue may be taken again (R19; notes/assumptions/19.md). -/
def State.heard (s : State) (dt : Nat) : State :=
  { s.later dt with line := { s.line with state := .idle (s.now + dt), overlap := false, taken := false } }

/-- What the emergency fold and the late fold of a discontinuity add to pool p, in their order: the sums of the records not
FOLDED, oldest first, then the late pending of the FOLDED ones (R77). -/
def emergencyAdditions (records : List Record) (p : Fin 8) : List (BitVec 32) :=
  (records.reverse.filter (fun r => r.state != .folded)).filterMap (fun r => r.sums[p.val]?) ++
    (records.reverse.filter (fun r => r.state == .folded)).filterMap (fun r => r.late[p.val]?)

/-- Each balance of t is that of s after the additions of an emergency fold, one after another (R77, R80, R95). -/
abbrev EmergencyFolded (s t : State) : Prop :=
  ∀ p : Fin 8, (t.pool.table.get p).balance =
    (emergencyAdditions s.window.records p).foldl (fun b v => (satAdd b v).1) (s.pool.table.get p).balance

/-- One step of a fold or a replay on a pool: a value is added, or the balance is replaced (R80, R81). -/
inductive BalanceStep where
  | add (v : BitVec 32)
  | set (v : BitVec 32)
  deriving DecidableEq, Repr

/-- A pool table entry after one step: an addition saturates and sets the CLIPPED flag when it does, a SET replaces the
balance (R80, R81). -/
def PoolEntry.stepped (e : PoolEntry) : BalanceStep → PoolEntry
  | .add v => { balance := (satAdd e.balance v).1, clipped := e.clipped || (satAdd e.balance v).2.isSome }
  | .set v => { e with balance := v }

/-- What a record brings to pool p: its sum, then the items for p of the adjustments given, in their order (R81, R99). -/
def recordSteps (p : Fin 8) (sums : List (BitVec 32)) (applied : List Adjustment) : List BalanceStep :=
  sums[p.val]?.toList.map .add ++
    ((applied.flatMap (fun a => a.items)).filter (fun i => i.pool == p.val)).map
      (fun i => if i.set then .set i.value else .add i.value)

/-- What the late pendings of these records bring to pool p, record by record (R82). -/
def lateSteps (p : Fin 8) (records : List Record) : List BalanceStep :=
  records.filterMap (fun r => r.late[p.val]?.map .add)

/-- The sum of pool p's deltas over the untransmitted entries: what a withdrawal adds to its carry (R56). -/
def withdrawnSum (outbox : List OutEntry) (p : Fin 8) : BitVec 64 :=
  outbox.foldl (fun c e => if e.transmitted then c else c + (e.deltas[p.val]?.getD 0).signExtend 64) 0

/-- The delta of pool p that a capture withdraws from the entry it pushes out: the oldest of eight, if it is untransmitted
(R55). -/
def displacedDelta (outbox : List OutEntry) (p : Fin 8) : BitVec 64 :=
  if outbox.length < 8 then 0
  else match outbox with
    | [] => 0
    | e :: _ => if e.transmitted then 0 else (e.deltas[p.val]?.getD 0).signExtend 64

/-- m stands at the mark that begins epoch x: it agrees with s in what the window and the pool unit read at a mark. -/
abbrev AtMark (s m : State) (x : Epoch) : Prop :=
  m.clock.cur = x ∧ m.window = s.window ∧ m.pool = s.pool ∧ m.adjust = s.adjust ∧ m.ctl = s.ctl ∧
  m.roster.entries = s.roster.entries ∧ m.roster.reference = s.roster.reference

/-- The pool unit and the adjustment queue of t are those of the fold and the ageing at m's mark (R64, R71 to R73, R81, R82,
R86, R87), and the hold-back count falls (R95). -/
abbrev FoldedFrom (m t : State) : Prop :=
  t.pool.table = m.foldAtMark.pool.table ∧ t.pool.foldPoint = m.foldAtMark.pool.foldPoint ∧
  t.pool.history = m.foldAtMark.pool.history ∧ t.adjust.queue = m.foldAtMark.adjust.queue ∧
  t.pool.gaps = m.foldAtMark.age.pool.gaps ∧ t.pool.clean = m.foldAtMark.age.pool.clean ∧
  t.pool.agreement = m.foldAtMark.age.pool.agreement ∧ t.pool.holdBack = m.pool.holdBack - 1

/-- The records, the balances, the adjustment queue and the agreement state of t are those of the fold and the ageing at the
mark that begins epoch x, and the hold-back count falls. -/
abbrev FoldedAtMark (s t : State) (x : Epoch) : Prop :=
  ∃ m : State, AtMark s m x ∧ FoldedFrom m t ∧ t.window.records.tail = m.foldAtMark.age.window.records

/-- The pool unit and the adjustment queue of t are those of an install of the held snapshot h at m's mark, inRun telling
whether the new record expects this station (R99). What State.install does is SnapshotsAreInstalled's. -/
abbrev InstalledAtMark (m t : State) (h : HeldSnapshot) (inRun : Bool) : Prop :=
  t.pool = ((m.windowMark inRun).install h).pool ∧ t.adjust.queue = (m.windowMark inRun).adjust.queue ∧
  t.pool.agreement = .agreed ∧ t.pool.clean = true ∧ t.pool.held = none ∧ t.pool.target = none

/-- The held snapshot failed its test at m's mark and is discarded; the rest of the pool unit is as the fold and the ageing
leave it, and the hold-back count falls (R64, R95, R99). -/
abbrev DiscardedAtMark (m t : State) (inRun : Bool) : Prop :=
  t.pool = { (m.windowMark inRun).pool with held := none, holdBack := m.pool.holdBack - 1 } ∧
  t.adjust.queue = (m.windowMark inRun).adjust.queue

/-- The pool unit of t after a mark in RUN that m stands at. With no snapshot held it is FoldedFrom's, and while RESYNCING at
hold-back count 0 the wait count rises, at 3 setting the target to the reference (R94). A held snapshot is tested after the
fold and the ageing, and installed or discarded (R99). -/
abbrev PoolAtMark (m t : State) : Prop :=
  (m.pool.held = none → FoldedFrom m t ∧ t.pool.held = none ∧
    (m.pool.agreement = .resyncing ∧ m.pool.holdBack = 0 →
      t.pool.wait = (if m.pool.wait < 2 then m.pool.wait + 1 else 0) ∧
      t.pool.target = (if m.pool.wait < 2 then m.pool.target else m.roster.reference)) ∧
    (m.pool.agreement ≠ .resyncing ∨ 0 < m.pool.holdBack →
      t.pool.wait = m.pool.wait ∧ t.pool.target = m.pool.target)) ∧
  (∀ h : HeldSnapshot, m.pool.held = some h →
    (installTest h.point (m.windowMark true).oldest (m.windowMark true).pool.foldPoint = true →
      InstalledAtMark m t h true) ∧
    (installTest h.point (m.windowMark true).oldest (m.windowMark true).pool.foldPoint = false →
      DiscardedAtMark m t true))

/-- m stands at the implied mark of frame f that begins epoch x: the sender's entry is PRESENT and the comparison is made
before the mark (R16, R38, R90); all else that the window and the pool unit read there is as in s. -/
abbrev AtImpliedMark (s m : State) (x : Epoch) (f : ReportFrame) : Prop :=
  m.clock.cur = x ∧ m.window = s.window ∧ m.pool = (s.compare f).pool ∧ m.adjust = s.adjust ∧ m.ctl = s.ctl ∧
  (∀ n : Station, n ≠ f.sender → m.entry n = s.entry n) ∧ (m.entry f.sender).state = .present ∧
  m.roster.reference = s.roster.reference

/-- The window as a mark in RUN that m stands at leaves it; an install sets every late pending to 0 (R64, R99). -/
def State.windowInRun (m : State) : Window :=
  match m.pool.held with
  | none => (m.windowMark true).window
  | some h =>
    if installTest h.point (m.windowMark true).oldest (m.windowMark true).pool.foldPoint
    then ((m.windowMark true).install h).window else (m.windowMark true).window

/-- The window after frame f is taken for the records of its epoch (R65, R66). -/
def Window.took (w : Window) (f : ReportFrame) : Window :=
  { w with records := w.records.map (fun r => if r.epoch = f.epoch then r.take f.sender f.deltas else r) }

/-- The conflict count and the conflict-free mark count of t are those of s after a mark (R50). -/
abbrev ConflictFree (s t : State) : Prop :=
  t.roster.conflicts = (if s.roster.conflicts = 0 ∨ s.roster.conflictFree < 7 then s.roster.conflicts else 0) ∧
  t.roster.conflictFree = (if s.roster.conflicts = 0 then s.roster.conflictFree
    else if s.roster.conflictFree < 7 then s.roster.conflictFree + 1 else 0)

/-- t is s out of CONFIG at the instant now: frozen profile with its digest, own entry SELF, receiver on, listen span begun
(R118, R120, R121, R170). -/
abbrev LeftConfig (s t : State) (now : Instant) : Prop :=
  t.now = now ∧ t.ctl = { s.ctl with
    life := .listen, cause := .none, frozen := true, digest := some (Sys2Proof.Machine.profileDigest s.ctl.straps.rate s.ctl.profile)
    autoTimer := none, listenTimer := some (now + s.listenSpan), matching := 0, mismatched := 0 } ∧
  t.line = { s.line with state := .idle now } ∧
  (∀ n : Station, n ≠ s.own → t.entry n = s.entry n) ∧ t.entry s.own = { RosterEntry.blank with state := .self } ∧
  t.clock = s.clock ∧ t.builder = s.builder ∧ t.window = s.window ∧ t.pool = s.pool ∧ t.adjust = s.adjust ∧
  t.channels = s.channels ∧
  DrivesFollow s t s.clock.cur .listen s.pool.agreement ∧
  Reported t { kind := .state, epoch := s.clock.cur, subject := none, value := 0x0100 }

/-- t is s in MUTE or QUIET: the columns "Entry into MUTE or QUIET" of R18, R35, R52, R61, R78, R100, R114, R153 and R163,
with R134 and R135; the roster is kept (R52). -/
abbrev FrozenFrom (s t : State) (life : Life) (cause : MuteCause) : Prop :=
  t.ctl.life = life ∧ t.ctl.cause = cause ∧ t.ctl.leave = .none ∧ t.ctl.listenTimer = none ∧ t.ctl.silence = none ∧
  t.ctl.profile = s.ctl.profile ∧ t.ctl.straps = s.ctl.straps ∧ t.ctl.digest = s.ctl.digest ∧
  t.clock = { s.clock with timer := .stopped, pending := false, slotTimer := .stopped, probation := 0 } ∧
  t.line.tx = none ∧ t.line.queue = [] ∧ t.line.discarded = 0 ∧ t.line.slotWaiting = none ∧ t.roster = s.roster ∧
  t.builder.outbox = (s.builder.outbox.filter (fun e => e.transmitted)).map (fun e => { e with designated := false }) ∧
  (∀ p : Fin 8, t.builder.carry.get p = s.builder.carry.get p + withdrawnSum s.builder.outbox p) ∧
  t.window = s.window ∧ t.adjust = s.adjust ∧ t.channels = s.channels ∧
  t.pool = { s.pool with agreement := .none, target := none, held := none, holdBack := 0, wait := 0, noComparison := 0
                         uncleanSelf := 0 } ∧
  DrivesFollow s t s.clock.cur life .none ∧ t.drives.fault = (life == .mute) ∧ t.port.reply = s.port.reply ∧
  t.port.txn = s.port.txn ∧ t.inputs = s.inputs ∧ t.pending = s.pending ∧
  Reported t { kind := .state, epoch := s.clock.cur, subject := none, value := life.code ++ cause.code }

/-- t is s after the path of RESTART at the instant now: the columns "RESTART, or abandoned founding" of R18, R35, R52,
R61, R78, R100, R114, R137, R153, R163 and R171, with R121 and R136. -/
abbrev RestartedFrom (s t : State) (now : Instant) : Prop :=
  t.now = now ∧ t.ctl = { s.ctl with
    life := .listen, cause := .none, autoTimer := none, listenTimer := some (now + s.listenSpan), matching := 0
    mismatched := 0, joinWait := 0, joinAttempts := 0, silence := none, leave := .none } ∧
  t.clock = { cur := s.clock.cur, pacing := none, timer := .stopped, pending := false, origin := none
              slotTimer := .stopped, slotCount := 0, probation := 0 } ∧
  t.line.tx = none ∧ t.line.state = .idle now ∧ t.line.queue = [] ∧ t.line.discarded = 0 ∧ t.line.slotWaiting = none ∧
  (∀ n : Station, t.entry n = { RosterEntry.blank with state := if n = s.own then .self else .absent }) ∧
  t.roster.reference = none ∧ t.roster.conflicts = 0 ∧ t.roster.conflictFree = 0 ∧
  t.builder.outbox = [] ∧
  (∀ p : Fin 8, t.builder.carry.get p = s.builder.carry.get p + withdrawnSum s.builder.outbox p) ∧
  t.window.records = [] ∧ t.window.asked = [] ∧ t.pool = Pool.reset ∧
  t.adjust = { queue := [], lastSerial := s.adjust.lastSerial } ∧ t.channels = s.channels ∧
  (∀ i : Fin 4, (t.drives.drives.get i).rule = .off ∧ (t.drives.drives.get i).mode = (s.drives.drives.get i).mode) ∧
  DrivesFollow { s with drives := s.drives.ruleOff } t s.clock.cur .listen .none ∧ t.drives.fault = false ∧
  t.port.txn = s.port.txn ∧ t.inputs = s.inputs ∧ t.pending = s.pending ∧
  Reported t { kind := .state, epoch := s.clock.cur, subject := none, value := 0x0100 }

/-- What a mark of R64 that begins epoch x, taken in RUN or taking a joiner there, does outside the window and the pool unit:
the capture with its carries, designated at a direct mark only (R54, R55, R57, R144), the drive rules on the balances as the
mark leaves them and the pins that follow (R155, R158). -/
abbrev CapturedAtMark (s t : State) (x : Epoch) (direct : Bool) : Prop :=
  t.builder.outbox.getLast? = some
    { epoch := x - 1, deltas := s.captureDeltas, transmitted := false, resends := 0, designated := direct } ∧
  (∀ p : Fin 8, t.builder.carry.get p = (if p.val < s.ctl.profile.pools then (clampDelta (s.captureTotal p)).2
    else s.builder.carry.get p) + displacedDelta s.builder.outbox p) ∧
  (∀ i : Fin 4, t.channels.get i = if (s.ctl.profile.channels.get i).mode = .off then s.channels.get i
    else { s.channels.get i with acc := 0, accSat := false }) ∧
  RulesMoved s t ∧ PinsFollow t ∧ ∀ i : Fin 4, (t.drives.drives.get i).mode = (s.drives.drives.get i).mode

/-- What every mark of R64 that begins epoch x does: the discarded count is reported and becomes 0 (R24), and the mark counts
toward the end of conflicts (R50). -/
abbrev CountedAtMark (s t : State) (x : Epoch) : Prop :=
  t.line.discarded = 0 ∧
  (0 < s.line.discarded → Reported t
    { kind := .lineError, epoch := x, subject := none, value := BitVec.ofNat 16 s.line.discarded }) ∧
  ConflictFree s t

/-- A joiner's held snapshot passed its test at the mark that begins epoch x: the station is in RUN with its mark timer
running and its silence timer stopped, and the mark's responses are those of RUN (R99, R116, R130, R132). -/
abbrev JoinerEnters (s t : State) (x : Epoch) (direct : Bool) : Prop :=
  t.ctl = { s.ctl with life := .run, cause := .none, silence := none } ∧
  t.clock.timer = .running (t.now + s.period + s.bits (64 * (s.own.val : Int))) ∧ CapturedAtMark s t x direct ∧
  Reported t { kind := .state, epoch := x, subject := none, value := 0x0300 }

/-- The joiner that enters RUN has installed its held snapshot h (R99, R132). -/
abbrev JoinerInstalled (s m t : State) (h : HeldSnapshot) (x : Epoch) (direct : Bool) : Prop :=
  JoinerEnters s t x direct ∧ InstalledAtMark m t h true

/-- A joiner holds no snapshot, or the one it held failed its test: that one is discarded, and the station stays in JOINING,
where the join wait count rises and the silence timer is reloaded, and nothing is captured (R99, R127, R130). The agreement
state is NONE in JOINING (R89), and with it the pool unit is as the fold and the ageing leave it. -/
abbrev JoinerStays (s m t : State) : Prop :=
  t.ctl = { s.ctl with joinWait := if s.ctl.joinWait < 4 then s.ctl.joinWait + 1 else 4
                       silence := some (t.now + s.listenSpan) } ∧
  t.clock.timer = s.clock.timer ∧ t.builder = s.builder ∧ t.channels = s.channels ∧ t.pool.held = none ∧
  (s.pool.agreement = .none → DiscardedAtMark m t false ∧ t.pool.agreement = .none)

/-- A joiner stays at the implied mark of frame f, with its join attempts at 3 and its join wait count at 4, and the
slot-phase end that follows at once mutes it with cause JOIN (R129, R134, R135): its clock stopped at the new epoch (R16),
the pool unit as the fold and the ageing leave it but for what MUTE clears, and every other block as FrozenFrom has it. With
the frame before the slot-phase end the window has taken it; with the slot-phase end first its sender has missed it (R43,
notes/assumptions/6.md). -/
abbrev JoinerGivesUp (s m t : State) (f : ReportFrame) : Prop :=
  t.ctl = { s.ctl with
    life := .mute, cause := .join, joinWait := 4, leave := .none, listenTimer := none, silence := none } ∧
  t.clock.timer = .stopped ∧ t.clock.slotTimer = .stopped ∧ t.clock.probation = 0 ∧
  t.line.tx = none ∧ t.line.queue = [] ∧ t.line.slotWaiting = none ∧
  t.builder.outbox = (s.builder.outbox.filter (fun e => e.transmitted)).map (fun e => { e with designated := false }) ∧
  (∀ p : Fin 8, t.builder.carry.get p = s.builder.carry.get p + withdrawnSum s.builder.outbox p) ∧
  t.pool = { (m.windowMark false).pool with
    agreement := .none, target := none, held := none, holdBack := 0, wait := 0, noComparison := 0, uncleanSelf := 0 } ∧
  t.adjust = (m.windowMark false).adjust ∧ t.channels = s.channels ∧
  DrivesFollow s t (s.clock.cur + 1) .mute .none ∧ t.drives.fault = true ∧
  Reported t { kind := .state, epoch := s.clock.cur + 1, subject := none, value := 0x0403 } ∧
  ((t.window = (m.windowMark false).window.took f ∧ (t.entry f.sender).state = .present ∧
      (t.entry f.sender).miss = 0) ∨
    (t.window = (m.windowMark false).window ∧ (t.entry f.sender).miss = 1 ∧
      (t.entry f.sender).state = (if s.ctl.profile.eviction ≤ 1 then .gone else .missing)))

/-- t is s after a direct mark of R64 taken in RUN that begins epoch x: the new record (R64), the capture and the drives
(CapturedAtMark), the discarded count and the conflict-free mark (CountedAtMark), the leave stage (R133), the pool unit and
the rest of the window (PoolAtMark, R64, R99), and what the mark leaves alone. -/
abbrev MarkedInRun (s t : State) (x : Epoch) : Prop :=
  t.window.records.head? = some
    { epoch := x - 1, state := .collecting
      expected := mapWhere (fun n => n == s.own || (s.entry n).state == .present || (s.entry n).state == .missing)
      heard := 0, sums := List.replicate s.ctl.profile.pools 0, late := List.replicate s.ctl.profile.pools 0
      applied := [] } ∧
  t.window.asked = [] ∧ CapturedAtMark s t x true ∧ CountedAtMark s t x ∧
  t.ctl = { s.ctl with leave := if s.ctl.leave = .taken then .leaving else s.ctl.leave } ∧
  t.roster.entries = s.roster.entries ∧ t.roster.reference = s.roster.reference ∧
  t.adjust.lastSerial = s.adjust.lastSerial ∧ t.port.reply = s.port.reply ∧ t.pending = s.pending ∧
  ∃ m : State, AtMark s m x ∧ PoolAtMark m t ∧ t.window = m.windowInRun

/-- t is s after the implied mark of frame f in RUN, which begins epoch x: as MarkedInRun, but that the sender is PRESENT and
compared before it, no slot is designated, and the new record takes the frame after it (R16, R57, R65, R66). -/
abbrev ImpliedInRun (s t : State) (x : Epoch) (f : ReportFrame) : Prop :=
  t.window.records.head? = some
    { epoch := x - 1, state := .collecting
      expected := mapWhere (fun n => n == s.own || n == f.sender || (s.entry n).state == .present ||
        (s.entry n).state == .missing)
      heard := mapOf f.sender, sums := f.deltas.map (fun d => d.signExtend 32)
      late := List.replicate s.ctl.profile.pools 0, applied := [] } ∧
  CapturedAtMark s t x false ∧ (∀ e ∈ t.builder.outbox, e.designated = false) ∧ CountedAtMark s t x ∧
  t.ctl = { s.ctl with leave := if s.ctl.leave = .taken then .leaving else s.ctl.leave } ∧
  (s.line.queue.length < 7 → ∃ q ∈ t.line.queue, q.key = .resend s.clock.cur) ∧
  t.adjust.lastSerial = s.adjust.lastSerial

/-- t is s after a mark of R64 taken in JOINING that begins epoch x, with no snapshot held: the new record does not expect
this station, record x − 2 − F is folded into the provisional balances, the join wait count rises to 4 at most, the silence
timer is reloaded, and nothing is captured (R50, R64, R85, R127, R130). -/
abbrev MarkedInJoining (s t : State) (x : Epoch) : Prop :=
  t.ctl = { s.ctl with joinWait := if s.ctl.joinWait < 4 then s.ctl.joinWait + 1 else 4
                       silence := some (t.now + s.listenSpan) } ∧
  (∃ r, t.window.records.head? = some r ∧ r.epoch = x - 1 ∧ r.heard = 0 ∧
    r.expected = mapWhere (fun n => (s.entry n).state == .present || (s.entry n).state == .missing) ∧
    r.state = (if r.expected = 0 then .settled else .collecting)) ∧
  FoldedAtMark s t x ∧ ConflictFree s t ∧
  t.window.asked = [] ∧ t.builder = s.builder ∧ t.channels = s.channels ∧ t.line.queue = s.line.queue ∧
  t.line.discarded = 0 ∧ t.roster.entries = s.roster.entries ∧ t.roster.reference = s.roster.reference ∧
  t.adjust.lastSerial = s.adjust.lastSerial ∧ t.port.reply = s.port.reply

/-- What a discontinuity that MARK f brings does in JOINING and RUN alike: the records not FOLDED and then the late pendings
reach the balances, nothing is captured, the window, the outbox, the gaps, the history and the adjustment queue are
emptied, the hold-back count is F, a queued REQUEST goes, and the discarded count is reported (R12, R34, R50, R61, R77,
R95, R113). -/
abbrev Discontinued (s t : State) (f : MarkFrame) : Prop :=
  EmergencyFolded s t ∧ ConflictFree s t ∧ t.window = { records := [], asked := [] } ∧ t.builder.outbox = [] ∧
  (∀ i : Fin 8, t.builder.carry.get i = s.builder.carry.get i + withdrawnSum s.builder.outbox i) ∧
  t.pool.gaps = [] ∧ t.pool.history = [] ∧ t.pool.foldPoint = none ∧ t.pool.held = none ∧ t.pool.clean = false ∧
  t.pool.holdBack = s.ctl.profile.foldLag ∧ t.adjust = { s.adjust with queue := [] } ∧
  t.line.queue = s.line.queue.filter (fun e => e.key != .request) ∧ t.line.discarded = 0 ∧
  t.channels = s.channels ∧ t.roster.entries = s.roster.entries ∧ t.roster.reference = s.roster.reference ∧
  t.port.reply = s.port.reply ∧
  Reported t { kind := .discontinuity, epoch := f.epoch, subject := some f.sender, value := s.clock.cur }

/-- What it does in RUN beside: the station is RESYNCING with the reference as its target, and the drives leave the rule (R95,
R158, R162). -/
abbrev DiscontinuedInRun (s t : State) (f : MarkFrame) : Prop :=
  Discontinued s t f ∧ t.ctl = s.ctl ∧ t.pool.agreement = .resyncing ∧ t.pool.target = s.roster.reference ∧
  t.pool.wait = 0 ∧ DrivesFollow s t f.epoch .run .resyncing ∧ t.drives.fault = true

/-- What it does in JOINING beside: join wait count and join attempts become 0, the silence timer is reloaded, and the
agreement state stays (R95, R130, R131). -/
abbrev DiscontinuedInJoining (s t : State) (f : MarkFrame) : Prop :=
  Discontinued s t f ∧ t.pool.agreement = s.pool.agreement ∧
  t.ctl = { s.ctl with joinWait := 0, joinAttempts := 0, silence := some (t.now + s.listenSpan) }

/-- The epoch clock as it takes epoch x at the instant now from station n, the mark timer reloaded where this leaves the
station in RUN, a joiner that it brings there among them (R4, R11, R12, R132). -/
def State.clockTook (s : State) (x : Epoch) (n : Station) (now : Instant) (life : Life) : Clock :=
  { s.clock with
    cur := x, pacing := some n, pending := false, origin := some now, slotTimer := .slots, slotCount := 0
    timer := if life = .run then .running (now + s.period + s.bits (64 * (s.own.val : Int))) else s.clock.timer }

/-- t with other conflict counts: the words for a mark's effect on everything but these. -/
def State.withConflicts (t : State) (conflicts conflictFree : Nat) : State :=
  { t with roster := { t.roster with conflicts := conflicts, conflictFree := conflictFree } }

/-- This station's own report, outbox entry e, has entered the window: in the record of its epoch, which has not heard this
station yet, the deltas enter the sums, of a FOLDED record the late pending too, whose gap closes; a COLLECTING record that
thereby has heard all it expects is SETTLED (R66, R67, R69). Where every record of that epoch has heard it, or none is
held, window and pool unit stay (R65, R68). -/
abbrev OwnReportEntered (s t : State) (e : OutEntry) : Prop :=
  (∀ r : Record, s.record e.epoch = some r → mapHas r.heard s.own = false →
    (∃ r', t.record e.epoch = some r' ∧ r'.heard = r.heard ||| mapOf s.own ∧ r'.expected = r.expected ||| mapOf s.own ∧
      r'.sums = List.zipWith (fun v d => v + d.signExtend 32) r.sums e.deltas ∧
      r'.late =
        (if r.state = .folded then List.zipWith (fun v d => v + d.signExtend 32) r.late e.deltas else r.late) ∧
      r'.state = (if r.state = .collecting ∧ r'.heard = r'.expected then .settled else r.state) ∧
      r'.applied = r.applied) ∧
    (r.state = .folded → t.pool = { s.pool with
      gaps := s.pool.gaps.filter (fun g => g != { station := s.own, epoch := e.epoch }) }) ∧
    (r.state ≠ .folded → t.pool = s.pool)) ∧
  ((∀ r ∈ s.window.records, r.epoch = e.epoch → mapHas r.heard s.own = true) →
    t.window = s.window ∧ t.pool = s.pool) ∧
  t.window.asked = s.window.asked

/-- The item of number n fails the test of R169: P, a channel's pool index, a drive's pool index or its low mark, numbered as
R191 numbers them. -/
abbrev Offends (rate : Bool) (p : Profile) (n : Nat) : Prop :=
  (n = 1 ∧ rate = false ∧ p.period < 50) ∨
  (∃ c : Fin 4, n = 17 + 5 * c.val ∧ p.pools ≤ (p.channels.get c).pool.val) ∨
  (∃ (d : Fin 4) (i : Fin 8), (p.drives.get d).pool = some i ∧
    ((n = 34 + 7 * d.val ∧ p.pools ≤ i.val) ∨
      (n = 36 + 7 * d.val ∧ (p.drives.get d).high.toInt ≤ (p.drives.get d).low.toInt)))

/-- With no command waiting, a step of s at the instant t comes before every filtered change and every wire. -/
abbrev FirstAt (s : State) (t : Instant) : Prop :=
  s.pending = [] ∧ (∀ c ∈ s.filterChanges, t < c.due) ∧ (∀ w ∈ s.wires.head?, t < s.now + (w.dt : Int))

/-- s at the instant t, or now if that is later, the wires that wait coming when they would have. -/
def State.atSample (s : State) (t : Instant) : State := { s with now := s.due t, wires := s.wiresFrom (s.due t) }

/-- The receiver of s has given up the frame in progress: it is counted as discarded and waited out (R21, R24). -/
def Line.gaveUp (l : Line) : Line :=
  { l with rx := .wait, state := .abandoned, overlap := false
           discarded := if l.discarded < 65535 then l.discarded + 1 else 65535 }

end Sys2Proof.Machine
end

