-- ==== Sys2Proof/Certificates/Slice0/Obligations.lean ====
section
/-! DEFINITION. The statements for the provers. -/

section
open Sys2Proof Sys2Proof.Machine

/-! ### The machine as a whole -/

/-- A step takes the command at the front of the queue: it is exec of that command on the state with the queue's rest. -/
def Obligations.StepRunsFrontCommand : Prop :=
  ∀ (c : Instr) (rest : List Instr) (s : State),
    step { s with pending := c :: rest } = exec c { s with pending := rest }

/-- Every command answers a next state in every state, leaves the queue of waiting commands and the waiting wires to step,
and never runs back in time; so does a step with no command waiting, and with no wire waiting, every filtered level at its
pin's, and a recessive line on which the receiver is in no frame the block idles (the model's choices,
notes/assumptions/1.md, 2.md, 4.md and 41.md). -/
def Obligations.EveryCommandAnswers : Prop :=
  (∀ (c : Instr) (s : State), ∃ t, exec c s = .next t ∧ t.pending = s.pending ∧ t.wires = s.wires ∧ s.now ≤ t.now) ∧
  (∀ s : State, s.pending = [] → ∃ t, step s = .next t ∧ t.pending = [] ∧ s.now ≤ t.now ∧
    (s.wires = [] → s.line.rx = .idle → s.inputs.tally.high = true →
      (∀ (i : Fin 4) (x : InputPin), (s.pin i x).high = (s.channels.get i).level x) → t = s))

/-- Every step keeps the outputs at their conditions: IRQ (R184), FAULT (R162), the bound of the event queue (R182). -/
def Obligations.StepKeepsOutputs : Prop :=
  ∀ s t : State, OutputsFollow s → step s = .next t → OutputsFollow t

/-- After every command FAULT is asserted exactly in MUTE and in RUN while DIVERGED or RESYNCING (R162), and IRQ exactly
while an event waits or LOST is set (R184), neither during hardware reset. -/
def Obligations.FaultAndIrqFollow : Prop :=
  ∀ (c : Instr) (s t : State), OutputsFollow s → exec c s = .next t →
    (t.drives.fault = true ↔ t.ctl.inReset = false ∧
      (t.ctl.life = .mute ∨ (t.ctl.life = .run ∧ (t.pool.agreement = .diverged ∨ t.pool.agreement = .resyncing)))) ∧
    (t.port.irq = true ↔ t.ctl.inReset = false ∧ (t.port.events ≠ [] ∨ t.port.lost = true))

/-- Every step keeps every buffer within its bound. -/
def Obligations.StepKeepsBounds : Prop := ∀ s t : State, Bounded s → step s = .next t → Bounded t

/-- Every step keeps the agreement state NONE exactly outside RUN (R89). -/
def Obligations.StepKeepsAgreement : Prop :=
  ∀ s t : State, AgreementFollowsRun s → step s = .next t → AgreementFollowsRun t

/-- Every step keeps the drive pins where R158 and R159 put them, by the table that DrivePinsFollowTable states;
AgreementFollowsRun rules out states no run reaches. -/
def Obligations.StepKeepsPins : Prop :=
  ∀ s t : State, AgreementFollowsRun s → PinsFollow s → step s = .next t → PinsFollow t

/-- The reset state has all four invariants. -/
def Obligations.ResetHasInvariants : Prop :=
  OutputsFollow State.reset ∧ Bounded State.reset ∧ AgreementFollowsRun State.reset ∧ PinsFollow State.reset

/-! ### Bytes -/

/-- The receiver reads every good frame back from the bytes the sender builds for it, which are as many as R22's table
gives. On the line they stand back to back, ten bits a byte (R20), and each byte is read back from its data bits (R21). -/
def Obligations.FramesRoundTrip : Prop :=
  ∀ (k : Nat) (f : Frame), f.good k = true → checkFrame k f.bytes = some f ∧ f.bytes.length = f.size ∧
    f.lineBits.length = 10 * f.size ∧
    ∀ (j : Nat) (b : Byte), f.bytes[j]? = some b →
      (f.lineBits.drop (10 * j)).take 10 = lineBits b ∧ flagsByte (((f.lineBits.drop (10 * j)).drop 1).take 8) = b

/-- The line CRC over a byte sequence and its own CRC is 0, and over 0x31 to 0x39 it is 0x29B1 (R187); the example RESEND of
12_frame_and_transaction_formats.md, and a MARK, REQUEST, JOIN and LEAVE, byte by byte before their CRC (R186). A byte on
the line is a start bit, dominant and so 0, its eight data bits, least significant first, and a stop bit, recessive and so 1
(R19, R20). -/
def Obligations.FramesAsWritten : Prop :=
  (∀ b : Byte, lineBits b = [false, b.getLsbD 0, b.getLsbD 1, b.getLsbD 2, b.getLsbD 3, b.getLsbD 4, b.getLsbD 5,
    b.getLsbD 6, b.getLsbD 7, true]) ∧
  (∀ bytes : List Byte, crc (bytes ++ bytes16 (crc bytes)) = 0) ∧
  crc [0x31, 0x32, 0x33, 0x34, 0x35, 0x36, 0x37, 0x38, 0x39] = 0x29B1 ∧
  (∀ d : Digest, (Frame.resend { sender := 5, epoch := 11, deltas := [-3], fold := some { point := 9, digest := d }
                                 clean := true }).body =
    [0x42, 0x05, 0x00, 0x0B, 0x01, 0xFF, 0xFD, 0x00, 0x09, d.extractLsb' 8 8, d.extractLsb' 0 8, 0x03]) ∧
  (Frame.mark { sender := 2, epoch := 0x0129, founding := true, digest := 0xABCD, map := 0x00000224 }).body =
    [0x30, 0x02, 0x01, 0x29, 0x01, 0xAB, 0xCD, 0x00, 0x00, 0x02, 0x24] ∧
  (Frame.request { sender := 9, target := none, pairs := [{ station := 5, epoch := 11 }] }).body =
    [0x53, 0x09, 0x00, 0xFF, 0x01, 0x05, 0x00, 0x0B] ∧
  (Frame.join { sender := 12, digest := 0xFF8A }).body = [0x86, 0x0C, 0xFF, 0x8A] ∧
  (Frame.leave { sender := 31 }).body = [0x97, 0x1F]

/-! ### Reset, timers and the life cycle -/

/-- Hardware reset releases the line and the outputs, SDO among them, abandons a transaction, and leaves the rest to the
reset's end (R137, R158, R162, R174, R184, R185); what it keeps until the reset ends is the model's choice,
notes/assumptions/10.md. At its end every block takes the reset value its chapter gives (R18, R35, R52, R61, R78, R100,
R114, R137, R153, R163, R164, R171, R185), with the default profile (R165, R166). Kept as they stand are now, but for dt,
and the queues of commands and wires, the model's choice, notes/assumptions/10.md; line.taken and line.overlap at false
are the model's choice, notes/assumptions/8.md. The pins and the
tally line keep their levels, and the filters run from here (R139). -/
def Obligations.HardwareResets : Prop :=
  (∀ (dt : Nat) (s : State), ∃ t, exec (.hardwareReset dt) s = .next t ∧
     t.now = s.now + dt ∧ t.ctl = { s.ctl with inReset := true } ∧ t.line = { s.line with tx := none } ∧
     (∀ i : Fin 4, (t.drives.drives.get i).pin = false) ∧ t.drives.fault = false ∧ t.port.irq = false ∧
     t.port.reply = none ∧ t.port.txn = none ∧ t.sdo = none ∧ t.port.events = s.port.events ∧ t.clock = s.clock ∧
     t.roster = s.roster ∧ t.builder = s.builder ∧ t.window = s.window ∧ t.pool = s.pool ∧ t.adjust = s.adjust ∧
     t.channels = s.channels ∧ t.inputs = s.inputs) ∧
  ∀ (dt : Nat) (id : Station) (rate auto : Bool) (s : State), s.ctl.inReset = true →
    ∃ t, exec (.hardwareResetEnd dt id rate auto) s = .next t ∧
    t.now = s.now + dt ∧ t.pending = s.pending ∧ t.wires = s.wires ∧
    t.clock = { cur := 0, pacing := none, timer := .stopped, pending := false, origin := none, slotTimer := .stopped
                slotCount := 0, probation := 0 } ∧
    t.line = { tx := none, rx := .idle, state := .off, overlap := false, queue := [], discarded := 0
               slotWaiting := none, taken := false } ∧
    (∀ n : Station, t.entry n = { state := .absent, miss := 0, firstHeard := none, lastJoin := none, lastReport := none }) ∧
    t.roster.reference = none ∧ t.roster.conflicts = 0 ∧ t.roster.conflictFree = 0 ∧
    (∀ p : Fin 8, t.builder.carry.get p = 0) ∧ t.builder.outbox = [] ∧ t.window = { records := [], asked := [] } ∧
    (∀ p : Fin 8, t.pool.table.get p = { balance := 0, clipped := false }) ∧ t.pool.foldPoint = none ∧
    t.pool.history = [] ∧ t.pool.gaps = [] ∧ t.pool.clean = false ∧ t.pool.agreement = .none ∧ t.pool.target = none ∧
    t.pool.held = none ∧ t.pool.holdBack = 0 ∧ t.pool.wait = 0 ∧ t.pool.noComparison = 0 ∧ t.pool.uncleanSelf = 0 ∧
    t.adjust = { queue := [], lastSerial := 255 } ∧
    t.ctl.life = .config ∧ t.ctl.cause = .none ∧
    t.ctl.autoTimer = (if auto then some (s.now + dt + 200000000) else none) ∧ t.ctl.listenTimer = none ∧
    t.ctl.matching = 0 ∧ t.ctl.mismatched = 0 ∧ t.ctl.joinWait = 0 ∧ t.ctl.joinAttempts = 0 ∧ t.ctl.silence = none ∧
    t.ctl.leave = .none ∧ t.ctl.frozen = false ∧ t.ctl.digest = none ∧
    t.ctl.straps = { id := id, rate := rate, auto := auto } ∧ t.ctl.inReset = false ∧
    t.ctl.profile.period = 100 ∧ t.ctl.profile.foldLag = 2 ∧ t.ctl.profile.pools = 1 ∧ t.ctl.profile.eviction = 4 ∧
    t.ctl.profile.lead = 3 ∧ (∀ p : Fin 8, t.ctl.profile.initial.get p = 0) ∧
    (∀ i : Fin 4, t.ctl.profile.channels.get i =
      { mode := if i.val < 2 then .pulse else .off, gateUse := false, width := 4, pool := 0, negative := i == 1 }) ∧
    (∀ i : Fin 4, t.ctl.profile.drives.get i =
      { pool := none, high := 1, low := 0, riseDwell := 0, fallDwell := 0, activeHigh := true, action := .hold }) ∧
    (∀ i : Fin 4, t.channels.get i =
      { cntHigh := false, dirHigh := false, gateHigh := false, lastRise := none, acc := 0, accSat := false, lifetime := 0
        batch := 0, holder := { value := 0, new := false, overwritten := false } }) ∧
    (∀ i : Fin 4, (t.drives.drives.get i).rule = .off ∧ (t.drives.drives.get i).mode = .auto ∧
      (t.drives.drives.get i).held = false ∧ (t.drives.drives.get i).pin = false) ∧ t.drives.fault = false ∧
    t.port = { events := [], lost := false, irq := false, reply := none, txn := none, arising := [] } ∧
    (∀ (i : Fin 4) (x : InputPin), t.pin i x = { high := (s.pin i x).high, since := s.now + dt }) ∧
    t.inputs.cs = s.inputs.cs ∧ t.inputs.sck = s.inputs.sck ∧ t.inputs.sdi = s.inputs.sdi ∧
    t.inputs.tally = s.inputs.tally

/-- START and the AUTO timer's expiry leave CONFIG with a valid profile: it is frozen, its digest computed, the own entry
SELF, the receiver on, the listen span begun, and every drive's pin found afresh with its DRIVE event (R118, R119, R120,
R121, R158, R159, R161, R170). The profile is valid exactly when the four conditions of R169 hold, and the first
offending item is the lowest-numbered one that fails (R169, R191). With a profile that is not valid START returns the first
offending item and changes nothing else, and the AUTO timer's expiry stops the timer
and changes nothing else; outside CONFIG START is refused (R118, R119, R169). Instants of the station's own steps: the
model's choice, notes/assumptions/2.md. -/
def Obligations.StartIsTaken : Prop :=
  (∀ (s : State), Ready s → s.ctl.life = .config → firstOffending s.ctl.straps.rate s.ctl.profile = none →
     (∀ dt : Nat, ∃ t, exec (.start dt) s = .next t ∧ LeftConfig s t (s.now + dt) ∧
       t.port.reply = some { outcome := .done, result := bytes16 (profileDigest s.ctl.straps.rate s.ctl.profile) }) ∧
     (∀ x : Instant, s.ctl.autoTimer = some x →
       ∃ t, exec .autoTimerExpiry s = .next t ∧ LeftConfig s t (s.due x) ∧ t.port.reply = s.port.reply)) ∧
  (∀ (rate : Bool) (p : Profile), firstOffending rate p = none ↔
    (rate = false → 50 ≤ p.period) ∧ (∀ c : Fin 4, (p.channels.get c).pool.val < p.pools) ∧
    (∀ (d : Fin 4) (i : Fin 8), (p.drives.get d).pool = some i →
      i.val < p.pools ∧ (p.drives.get d).low.toInt < (p.drives.get d).high.toInt)) ∧
  (∀ (rate : Bool) (p : Profile) (item : Byte), firstOffending rate p = some item ↔
    Offends rate p item.toNat ∧ ∀ n : Nat, Offends rate p n → item.toNat ≤ n) ∧
  ∀ (s : State), Ready s →
    (∀ (item : Byte), s.ctl.life = .config → firstOffending s.ctl.straps.rate s.ctl.profile = some item →
      (∀ dt : Nat, exec (.start dt) s = .next (s.answered dt .badArgument [item])) ∧
      (∀ x : Instant, s.ctl.autoTimer = some x →
        exec .autoTimerExpiry s = .next { s with now := s.due x, ctl := { s.ctl with autoTimer := none } })) ∧
    (∀ dt : Nat, s.ctl.life ≠ .config → exec (.start dt) s = .next (s.answered dt .wrongState []))

/-- The end of the listen span: founding with no MARK heard, MUTE with cause PROFILE with mismatched ones only, a new span
with one matching MARK (R123, R124). That founding keeps origin and slot-phase timer, and the epoch its events carry, is
the model's choice, notes/assumptions/34.md. Instants of the station's own steps: the model's choice,
notes/assumptions/2.md. -/
def Obligations.ListenSpanEnds : Prop :=
  ∀ (s : State) (x : Instant), Ready s → s.ctl.life = .listen → s.ctl.listenTimer = some x →
    (s.ctl.matching = 0 → s.ctl.mismatched = 0 → ∃ t, exec .listenTimerExpiry s = .next t ∧
      t.now = s.due x ∧ t.ctl = { s.ctl with life := .run, cause := .none, listenTimer := none } ∧
      t.clock = { s.clock with cur := 0, pacing := some s.own, timer := .expired, pending := true, probation := 2 } ∧
      t.pool.agreement = .agreed ∧ t.pool.clean = true ∧
      (∀ p : Fin 8, p.val < s.ctl.profile.pools → (t.pool.table.get p).balance = s.ctl.profile.initial.get p) ∧
      t.line = s.line ∧ t.roster = s.roster ∧ t.builder = s.builder ∧ t.window = s.window ∧ t.adjust = s.adjust ∧
      t.channels = s.channels ∧ (∀ i : Fin 4, t.drives.drives.get i =
        (s.drives.drives.get i).refreshed (s.ctl.profile.drives.get i) .run .agreed) ∧
      ∃ e, Reported t { kind := .state, epoch := e, subject := none, value := 0x0300 }) ∧
    (s.ctl.matching = 0 → 0 < s.ctl.mismatched → ∃ t, exec .listenTimerExpiry s = .next t ∧ t.now = s.due x ∧
      FrozenFrom s t .mute .profile) ∧
    (0 < s.ctl.matching → exec .listenTimerExpiry s = .next
      { s with now := s.due x
               ctl := { s.ctl with listenTimer := some (s.due x + s.listenSpan), matching := 0, mismatched := 0 } })

/-- RESTART outside CONFIG, and the join silence timer's expiry in JOINING, take every block to its RESTART state and the
station to LISTEN with a new listen span (R130, R136). Instants of the station's own steps: the model's choice,
notes/assumptions/2.md. -/
def Obligations.RestartClears : Prop :=
  ∀ (s : State), Ready s →
    (∀ dt : Nat, s.ctl.life ≠ .config → ∃ t, exec (.restart dt) s = .next t ∧ RestartedFrom s t (s.now + dt) ∧
      t.port.reply = some { outcome := .done, result := [] }) ∧
    (∀ x : Instant, s.ctl.life = .joining → s.ctl.silence = some x → ∃ t, exec .joinSilenceExpiry s = .next t ∧
      RestartedFrom s t (s.due x) ∧ t.port.reply = s.port.reply) ∧
    (∀ dt : Nat, s.ctl.life = .config → exec (.restart dt) s = .next (s.answered dt .wrongState []))

/-- LEAVE is taken in RUN and refused in every other state; the departure is complete at the end of the LEAVE, at origin
+ P − 24 bit times of the leaving epoch, or at the end of a frame that would bring a mark, a MARK that would be accepted or
taken as a discontinuity or a REPORT or RESEND that would imply a mark, which no block then takes: QUIET, with what R134
gives (R133). Instants of the station's own steps: the model's choice, notes/assumptions/2.md. That such a frame ends a
departure only in stage LEAVING: notes/assumptions/31.md. -/
def Obligations.StationsDepart : Prop :=
  ∀ (s : State), Ready s →
    (∀ dt : Nat, s.ctl.life = .run → exec (.leaveCommand dt) s = .next
      { s.answered dt .done [] with
        ctl := { s.ctl with leave := if s.ctl.leave = .none then .taken else s.ctl.leave } }) ∧
    (∀ dt : Nat, s.ctl.life ≠ .run → exec (.leaveCommand dt) s = .next (s.answered dt .wrongState [])) ∧
    (∀ x : Tx, s.line.tx = some x → x.owner = .queue .leave → ∃ t, exec .leaveSent s = .next t ∧
      t.now = s.due (s.txEnd x) ∧ FrozenFrom s t .quiet .none) ∧
    (∀ o : Instant, s.ctl.life = .run → s.ctl.leave = .leaving → s.clock.origin = some o →
      ∃ t, exec .leaveDeadline s = .next t ∧ t.now = s.due (o + s.period - s.bits 24) ∧ FrozenFrom s t .quiet .none) ∧
    (∀ (dt : Nat) (f : MarkFrame), s.ctl.life = .run → s.ctl.leave = .leaving → s.canReceive = true →
      s.clock.probation = 0 → s.ctl.digest = some f.digest →
      (f.epoch = s.clock.cur + 1 ∨ (f.epoch ≠ s.clock.cur ∧ ∃ p : Station, s.clock.pacing = some p ∧ f.sender ≤ p)) →
      ∃ t, exec (.markReceived dt f) s = .next t ∧ t.now = s.now + dt ∧ FrozenFrom s t .quiet .none) ∧
    (∀ (dt : Nat) (f : ReportFrame) (c : Instr), (c = .reportReceived dt f ∨ c = .resendReceived dt f) →
      s.ctl.life = .run → s.ctl.leave = .leaving → s.canReceive = true → f.wf = true →
      f.deltas.length = s.ctl.profile.pools → f.epoch = s.clock.cur → f.sender ≠ s.own →
      ∃ t, exec c s = .next t ∧ t.now = s.now + dt ∧ FrozenFrom s t .quiet .none)

/-! ### Slots and the slot phase -/

/-- A slot start is delivered at origin + 320 × n bit times and raises the slot-start count; at the own slot in RUN this
slot's REPORT is built from a designated untransmitted entry, with the fold point, digest and clean flag of that instant, and
handed over, and the designation is cleared; with no such entry the slot stays empty (R8, R57). Instants of the station's
own steps: the model's choice, notes/assumptions/2.md. That the REPORT is built here: notes/assumptions/37.md. -/
def Obligations.SlotStarts : Prop :=
  ∀ (s : State) (o : Instant), Ready s → s.clock.origin = some o → s.clock.slotTimer = .slots → s.clock.slotCount < 32 →
    ∃ t, exec .slotStart s = .next t ∧ t.now = s.due (o + s.bits (320 * (s.clock.slotCount : Int))) ∧
      t.clock = { s.clock with slotCount := s.clock.slotCount + 1 } ∧
      (s.ctl.life ≠ .run ∨ s.clock.slotCount ≠ s.own.val → t.line = s.line ∧ t.builder = s.builder) ∧
      (∀ e : OutEntry, s.ctl.life = .run → s.clock.slotCount = s.own.val →
        s.builder.outbox.find? (fun x => x.designated) = some e → e.transmitted = false →
        t.line = { s.line with slotWaiting := some (ReportFrame.mk s.own e.epoch e.deltas
          (s.pool.history.getLast?.map (fun h => { point := h.point, digest := h.digest })) s.pool.clean) } ∧
        t.builder = { s.builder with outbox := s.builder.outbox.map (fun x => { x with designated := false }) }) ∧
      ((∀ e : OutEntry, s.builder.outbox.find? (fun x => x.designated) = some e → e.transmitted = true) →
        t.line = s.line ∧ t.builder = s.builder) ∧
      t.roster = s.roster ∧ t.window = s.window ∧ t.pool = s.pool ∧ t.adjust = s.adjust ∧ t.ctl = s.ctl ∧
      t.channels = s.channels ∧ t.drives = s.drives ∧ t.port = s.port

/-- The slot REPORT handed over begins once the line has been idle for 4 bit times, if it then ends within the slot, and
not otherwise; a slot whose line stays busy is missed at the last instant at which the REPORT could begin, and its report
then waits in the send queue as a RESEND, with no conflict counted (R28, R48, R58). Instants of the station's own steps: the
model's choice, notes/assumptions/2.md. A line still held for idle at a missed slot: notes/assumptions/38.md. -/
def Obligations.SlotReportWaits : Prop :=
  ∀ (s : State) (o : Instant) (f : ReportFrame), Ready s → s.ctl.life = .run → s.clock.origin = some o →
    s.line.slotWaiting = some f →
    (∀ x : Instant, s.line.tx = none → s.line.state = .idle x →
      s.due (x + s.bits 4) + s.bits (10 * (12 + 2 * (f.deltas.length : Int))) ≤
        o + s.bits (320 * ((s.own.val : Int) + 1)) →
      exec .slotReportBegin s = .next
        { s with
          now := s.due (x + s.bits 4)
          line := { s.line with
            slotWaiting := none, state := .busy
            tx := some { frame := .report f, began := s.due (x + s.bits 4), owner := .slot f.epoch, changed := false } } }) ∧
    (∀ x : Instant, s.line.tx = none → s.line.state = .idle x →
      o + s.bits (320 * ((s.own.val : Int) + 1)) <
        s.due (x + s.bits 4) + s.bits (10 * (12 + 2 * (f.deltas.length : Int))) →
      exec .slotReportBegin s = .next s) ∧
    ∃ t, exec .slotReportMissed s = .next t ∧
      t.now = s.due (o + s.bits (320 * ((s.own.val : Int) + 1)) - s.bits (10 * (12 + 2 * (f.deltas.length : Int)))) ∧
      t.line.slotWaiting = none ∧
      (s.line.queue.length < 8 → ∃ q ∈ t.line.queue, q.key = .resend f.epoch) ∧
      (s.line.state = .busy → t.line.state = .busy) ∧ t.line.tx = s.line.tx ∧
      t.roster = s.roster ∧ t.builder = s.builder ∧ t.clock = s.clock ∧ t.window = s.window ∧ t.pool = s.pool ∧
      t.adjust = s.adjust ∧ t.ctl = s.ctl ∧ t.channels = s.channels ∧ t.drives = s.drives ∧ t.port = s.port

/-- The slot REPORT has gone out whole: its entry is transmitted, and its deltas enter this station's record: its sums, of a
FOLDED record its late pending too, whose gap closes, while a COLLECTING record that has then heard all it expects is
SETTLED (R58, R65 to R69). Instants of the station's own steps: the model's choice, notes/assumptions/2.md. -/
def Obligations.SlotReportIsSent : Prop :=
  ∀ (s : State) (x : Tx) (e : OutEntry), Ready s → s.line.tx = some x → x.owner = .slot e.epoch →
    s.outEntry e.epoch = some e →
    ∃ t, exec .slotReportSent s = .next t ∧ t.now = s.due (s.txEnd x) ∧ t.line.tx = none ∧
      t.line.state = .idle (s.due (s.txEnd x)) ∧ t.line.queue = s.line.queue ∧
      t.builder.outbox = s.builder.outbox.map
        (fun y => if y.epoch = e.epoch then { y with transmitted := true, designated := false } else y) ∧
      t.builder.carry = s.builder.carry ∧
      OwnReportEntered s t e ∧
      t.clock = s.clock ∧ t.roster = s.roster ∧ t.adjust = s.adjust ∧ t.ctl = s.ctl ∧ t.channels = s.channels ∧
      t.drives = s.drives ∧ t.port = s.port

/-- The slot-phase end: the slot-start count is 32, the open window begins, and in JOINING and RUN misses are counted, JOINs
lapse and the roster has chosen the reference afresh (R8, R43 to R46); what these three do RosterIsCounted says, and what
a slot-phase end in RUN offers to the send queue SlotPhaseEndOffers says. In JOINING a station whose third JOIN has gone
unanswered enters MUTE with cause JOIN (R129), and otherwise the standing REQUEST is discarded and a JOIN is offered when
its wait is over (R34, R127); in LISTEN only lapsed JOINING entries change (R44). Instants of the station's own steps:
the model's choice, notes/assumptions/2.md. -/
def Obligations.SlotPhaseEnds : Prop :=
  ∀ (s : State) (o : Instant), Ready s → s.clock.origin = some o → s.clock.slotTimer = .slots →
    ∃ t, exec .slotPhaseEnd s = .next t ∧ t.now = s.due (o + s.bits 10240) ∧
      (s.ctl.life = .run → t.clock = { s.clock with slotCount := 32, slotTimer := .window } ∧ t.ctl = s.ctl ∧
        t.roster.reference = (s.countMisses.lapseJoins).chosenReference ∧
        t.roster.entries = (s.countMisses.lapseJoins).roster.entries ∧ t.builder = s.builder ∧ t.window = s.window ∧
        t.adjust = s.adjust) ∧
      (s.ctl.life = .joining →
        let givesUp := s.ctl.joinAttempts = 3 ∧ s.ctl.joinWait = 4 ∧ s.pool.held = none
        let offers := (s.ctl.joinAttempts = 0 ∧ s.ctl.profile.foldLag ≤ s.ctl.joinWait) ∨
          ((s.ctl.joinAttempts = 1 ∨ s.ctl.joinAttempts = 2) ∧ s.ctl.joinWait = 4)
        t.roster.reference = (s.countMisses.lapseJoins).chosenReference ∧
        t.roster.entries = (s.countMisses.lapseJoins).roster.entries ∧ t.window = s.window ∧ t.adjust = s.adjust ∧
        (givesUp → t.ctl.life = .mute ∧ t.ctl.cause = .join ∧ t.drives.fault = true ∧ t.line.queue = [] ∧
          Reported t { kind := .state, epoch := s.clock.cur, subject := none, value := 0x0403 }) ∧
        (¬givesUp → t.clock = { s.clock with slotCount := 32, slotTimer := .window } ∧ t.ctl = s.ctl ∧
          t.builder = s.builder ∧
          (offers → (s.line.queue.filter (fun e => e.key != .request)).length < 8 →
            ∃ q ∈ t.line.queue, q.key = .join) ∧
          (¬offers → t.line.queue = s.line.queue.filter (fun e => e.key != .request)))) ∧
      (s.ctl.life = .listen → t.clock = { s.clock with slotCount := 32, slotTimer := .window } ∧
        t.roster.entries = s.lapseJoins.roster.entries ∧
        t.roster.reference = s.roster.reference ∧ t.ctl = s.ctl ∧ t.pool = s.pool ∧ t.window = s.window ∧
        t.builder = s.builder) ∧
      t.channels = s.channels ∧ t.port.reply = s.port.reply

/-- What the miss counting, the JOIN lapse and the choice of the reference do, which a slot-phase end takes (SlotPhaseEnds).
Against record cur − 1, and not without it, every other station that is expected there, not heard, and PRESENT or MISSING
has its miss count raised: below L it is MISSING, at L it is GONE, and a change of state raises one PEER event; every
other station is passed over (R42, R43). A JOINING entry whose last JOIN epoch is 12 or more epochs behind cur becomes
ABSENT with a PEER event (R44). The reference is the lowest-numbered clean candidate, failing one the lowest-numbered
candidate, and none without a candidate (R46). -/
def Obligations.RosterIsCounted : Prop :=
  (∀ s : State, s.record (s.clock.cur - 1) = none → s.countMisses = s) ∧
  (∀ (s : State) (r : Record), s.record (s.clock.cur - 1) = some r →
    let t := s.countMisses
    let missed := fun (n : Station) => n ≠ s.own ∧ mapHas r.expected n = true ∧ mapHas r.heard n = false ∧
      ((s.entry n).state = .present ∨ (s.entry n).state = .missing)
    let state := fun (n : Station) => if (s.entry n).miss + 1 < s.ctl.profile.eviction then RosterState.missing else .gone
    let event := fun (n : Station) => (Block.roster, ({ kind := .peer, epoch := s.clock.cur, subject := some n
                                                        value := (state n).code.setWidth 16 } : Event))
    (∀ n : Station, missed n → t.entry n = { s.entry n with miss := (s.entry n).miss + 1, state := state n } ∧
      (state n ≠ (s.entry n).state → event n ∈ t.port.arising)) ∧
    (∀ n : Station, ¬missed n → t.entry n = s.entry n) ∧
    (∀ x ∈ t.port.arising, x ∈ s.port.arising ∨
      ∃ n : Station, missed n ∧ state n ≠ (s.entry n).state ∧ x = event n) ∧
    t = { s with roster := { s.roster with entries := t.roster.entries }
                 port := { s.port with arising := t.port.arising } }) ∧
  (∀ s : State,
    let t := s.lapseJoins
    let lapses := fun (n : Station) => (s.entry n).state = .joining ∧ ∃ j : Epoch, (s.entry n).lastJoin = some j ∧
      12 ≤ (s.clock.cur - j).toNat ∧ (s.clock.cur - j).toNat ≤ 32768
    let event := fun (n : Station) => (Block.roster, ({ kind := .peer, epoch := s.clock.cur, subject := some n
                                                        value := 0 } : Event))
    (∀ n : Station, lapses n → t.entry n = { state := .absent, miss := 0, firstHeard := none, lastJoin := none
                                             lastReport := none } ∧ event n ∈ t.port.arising) ∧
    (∀ n : Station, ¬lapses n → t.entry n = s.entry n) ∧
    (∀ x ∈ t.port.arising, x ∈ s.port.arising ∨ ∃ n : Station, lapses n ∧ x = event n) ∧
    t = { s with roster := { s.roster with entries := t.roster.entries }
                 port := { s.port with arising := t.port.arising } }) ∧
  (∀ s : State,
    let candidate := fun (n : Station) =>
      (n = s.own ∧ s.ctl.life = .run) ∨ (n ≠ s.own ∧ (s.entry n).state = .present)
    let clean := fun (n : Station) => candidate n ∧ ((n = s.own ∧ s.pool.clean = true) ∨
      (n ≠ s.own ∧ ∃ r : LastReport, (s.entry n).lastReport = some r ∧ r.clean = true))
    (∀ n : Station, clean n → (∀ m : Station, clean m → n ≤ m) → s.chosenReference = some n) ∧
    (∀ n : Station, (∀ m : Station, ¬clean m) → candidate n → (∀ m : Station, candidate m → n ≤ m) →
      s.chosenReference = some n) ∧
    ((∀ m : Station, ¬candidate m) → s.chosenReference = none))

/-- What a slot-phase end in RUN does to the send queue: the standing REQUEST is discarded (R34) and every other entry stays;
a RESEND is offered for each untransmitted outbox entry, oldest first (R59); the first four wanted pairs, the unheard
reports of COLLECTING records and the open gaps, oldest epoch first and then lowest station, without this station's own
and without asked ones, go into a REQUEST (R74); the ADJUST of the own queued adjustment is offered while cur is at or
behind its effective epoch (R106), and a LEAVE in stage LEAVING (R133). Nothing else enters, and nothing enters a full
queue. What the pool unit offers PhaseEndSettlesAgreement says. The order of the wanted pairs is stated for records and
gaps at or behind cur. Which offer finds room in a nearly full queue follows the order of the blocks' work,
notes/assumptions/21.md. Instants of the station's own steps: the model's choice, notes/assumptions/2.md. -/
def Obligations.SlotPhaseEndOffers : Prop :=
  ∀ (s : State) (o : Instant), Ready s → s.ctl.life = .run → s.clock.origin = some o → s.clock.slotTimer = .slots →
    let queue := s.line.queue.filter (fun e => e.key != .request)
    let owed := s.builder.outbox.filter (fun e => !e.transmitted)
    let plain := fun (key : QKey) => ({ key := key, target := none, pairs := none } : QEntry)
    let pairOf := fun (g : Gap) => ({ station := stationByte g.station, epoch := g.epoch } : Pair)
    let wanted := fun (g : Gap) => g.station ≠ s.own ∧ pairOf g ∉ s.window.asked ∧ (g ∈ s.pool.gaps ∨
      ∃ r ∈ s.window.records, r.state = .collecting ∧ r.epoch = g.epoch ∧ mapHas r.expected g.station = true ∧
        mapHas r.heard g.station = false)
    ∃ t, exec .slotPhaseEnd s = .next t ∧
      (∀ q ∈ queue, q ∈ t.line.queue) ∧
      (∀ q ∈ t.line.queue, q ∈ queue ∨ (∃ e ∈ owed, q = plain (.resend e.epoch)) ∨ q.key = .request ∨
        (∃ a ∈ s.adjust.queue, a.originator = s.own ∧ atOrBehind s.clock.cur a.effective = true ∧
          q = plain (.adjust a.serial)) ∨ (s.ctl.leave = .leaving ∧ q = plain .leave)) ∧
      (8 ≤ queue.length → t.line.queue = queue) ∧
      (∀ (e : OutEntry) (rest : List OutEntry), owed = e :: rest → queue.length < 8 →
        ∃ q ∈ t.line.queue, q.key = .resend e.epoch) ∧
      (queue.length + owed.length ≤ 8 → ∀ e ∈ owed, ∃ q ∈ t.line.queue, q.key = .resend e.epoch) ∧
      (queue.length + owed.length + 2 ≤ 8 → ∀ a : Adjustment,
        s.adjust.queue.filter (fun x => x.originator == s.own) = [a] → atOrBehind s.clock.cur a.effective = true →
        ∃ q ∈ t.line.queue, q.key = .adjust a.serial) ∧
      (queue.length + owed.length + 3 ≤ 8 → s.ctl.leave = .leaving → ∃ q ∈ t.line.queue, q.key = .leave) ∧
      (∃ list : List Gap, (∀ g : Gap, g ∈ list ↔ wanted g) ∧ list.Nodup ∧
        ((∀ r ∈ s.window.records, (s.clock.cur - r.epoch).toNat ≤ 32767) →
          (∀ g ∈ s.pool.gaps, (s.clock.cur - g.epoch).toNat ≤ 32767) →
          list.Pairwise (fun a b => (s.clock.cur - b.epoch).toNat < (s.clock.cur - a.epoch).toNat ∨
            (a.epoch = b.epoch ∧ a.station < b.station))) ∧
        (list ≠ [] → queue.length + owed.length < 8 →
          ∃ q ∈ t.line.queue, q.key = .request ∧ q.pairs = some ((list.take 4).map pairOf)) ∧
        (list = [] → ∀ q ∈ t.line.queue, q.key = .request → q.pairs = none))

/-- At a slot-phase end in RUN a station that is its own reference takes its agreement state from its clean flag, and an
unclean one re-baselines at the eighth (R91); an UNCERTAIN station that is not counts a slot-phase end without a
comparison, and at the fourth resynchronises with the reference, offering the snapshot part (R92). A DIVERGED station
offers the snapshot part again and becomes RESYNCING once it is taken; while RESYNCING the part is offered at hold-back
count 0 with no snapshot held (R93, R95); in either state a changed reference is the new target and clears the wait count
(R94). That without a target nothing is offered: notes/assumptions/25.md; which offer finds room in a nearly full queue:
notes/assumptions/21.md. Instants of the station's own steps: the model's choice, notes/assumptions/2.md. -/
def Obligations.PhaseEndSettlesAgreement : Prop :=
  ∀ (s : State) (o : Instant), Ready s → s.ctl.life = .run → s.clock.origin = some o → s.clock.slotTimer = .slots →
    let reference := (s.countMisses.lapseJoins).chosenReference
    let target := if reference = s.roster.reference then s.pool.target else reference
    let wait := if reference = s.roster.reference then s.pool.wait else 0
    let queue := s.line.queue.filter (fun e => e.key != .request)
    let room := queue.length + (s.builder.outbox.filter (fun e => !e.transmitted)).length < 8
    ∃ t, exec .slotPhaseEnd s = .next t ∧
      (reference = some s.own → t.pool.target = none ∧ t.pool.held = none ∧
        (s.pool.clean = true → t.pool.agreement = .agreed ∧ t.pool.clean = true ∧ t.pool.uncleanSelf = 0) ∧
        (s.pool.clean = false → s.pool.uncleanSelf < 7 → t.pool.agreement = .uncertain ∧ t.pool.clean = false ∧
          t.pool.uncleanSelf = s.pool.uncleanSelf + 1) ∧
        (s.pool.clean = false → s.pool.uncleanSelf = 7 → t.pool.agreement = .agreed ∧ t.pool.clean = true ∧
          t.pool.uncleanSelf = 0 ∧
          Reported t { kind := .rebaseline, epoch := s.clock.cur, subject := none, value := s.pool.foldPoint.getD 0 })) ∧
      (reference ≠ some s.own → t.pool.uncleanSelf = 0 ∧ t.pool.clean = s.pool.clean ∧ t.pool.held = s.pool.held ∧
        (s.pool.agreement = .agreed → t.pool.agreement = .agreed ∧ t.pool.noComparison = s.pool.noComparison) ∧
        (s.pool.agreement = .uncertain → s.pool.noComparison < 3 →
          t.pool.agreement = .uncertain ∧ t.pool.noComparison = s.pool.noComparison + 1) ∧
        (s.pool.agreement = .uncertain → 3 ≤ s.pool.noComparison →
          t.pool.agreement = .resyncing ∧ t.pool.noComparison = 0 ∧ t.pool.wait = 0 ∧ t.pool.target = reference ∧
          t.drives.fault = true ∧ (∀ n : Station, reference = some n → s.pool.holdBack = 0 → room →
            ∃ q ∈ t.line.queue, q.key = .request ∧ q.target = some n)) ∧
        (s.pool.agreement = .diverged → t.pool.target = target ∧
          (∀ n : Station, target = some n → s.pool.holdBack = 0 → room →
            t.pool.agreement = .resyncing ∧ t.pool.wait = 0 ∧
              ∃ q ∈ t.line.queue, q.key = .request ∧ q.target = some n) ∧
          (target = none ∨ 0 < s.pool.holdBack ∨ 8 ≤ queue.length → t.pool.agreement = .diverged ∧ t.pool.wait = wait)) ∧
        (s.pool.agreement = .resyncing → t.pool.agreement = .resyncing ∧ t.pool.target = target ∧ t.pool.wait = wait ∧
          (∀ n : Station, target = some n → s.pool.holdBack = 0 → s.pool.held = none → room →
            ∃ q ∈ t.line.queue, q.key = .request ∧ q.target = some n) ∧
          (target = none ∨ 0 < s.pool.holdBack ∨ s.pool.held ≠ none →
            ∀ q ∈ t.line.queue, q.key = .request → q.target = none))) ∧
      t.pool.table = s.pool.table ∧ t.pool.gaps = s.pool.gaps ∧ t.pool.history = s.pool.history ∧
      t.pool.foldPoint = s.pool.foldPoint

/-! ### The open window -/

/-- What the frame of each send-queue entry carries, and when its owner declines. A RESEND carries the outbox entry's epoch
and deltas with the newest fold point, its digest and the clean flag, and is declined without an entry (R60). A SNAPSHOT
is built in RUN and AGREED with a fold point whose history entry is complete, with the k balances, their digest and the
present map, and else declined (R97). An ADJUST carries the own queued adjustment of its serial, or is declined (R105). A
REQUEST carries the pairs that still stand, with the snapshot target if it has one, and is declined with neither (R76);
when a pair still stands is read as notes/assumptions/28.md gives. A JOIN carries the profile digest, in JOINING at a
join wait count of at least F, and is else declined (R127, R131), and a LEAVE goes out in stage LEAVING (R133). The
present map holds the stations in SELF, PRESENT and MISSING (R41). -/
def Obligations.QueueFramesAreBuilt : Prop :=
  (∀ (s : State) (n : Station), mapHas s.presentMap n = true ↔
    (s.entry n).state = .self ∨ (s.entry n).state = .present ∨ (s.entry n).state = .missing) ∧
  (∀ (s : State) (p : Pair), s.pairStands p = true ↔ ∃ (n : Station) (r : Record), p.station = stationByte n ∧
    s.record p.epoch = some r ∧ mapHas r.heard n = false ∧
    (r.state = .folded → ({ station := n, epoch := p.epoch } : Gap) ∈ s.pool.gaps) ∧ p ∉ s.window.asked) ∧
  (∀ (s : State) (x : Epoch) (target : Option Station) (pairs : Option (List Pair)),
    (∀ o : OutEntry, s.builder.outbox.find? (fun o => o.epoch == x) = some o →
      s.build ⟨.resend x, target, pairs⟩ = some (.resend
        { sender := s.own, epoch := x, deltas := o.deltas
          fold := s.pool.history.getLast?.map (fun h => { point := h.point, digest := h.digest })
          clean := s.pool.clean })) ∧
    ((∀ o ∈ s.builder.outbox, o.epoch ≠ x) → s.build ⟨.resend x, target, pairs⟩ = none)) ∧
  (∀ (s : State) (target : Option Station) (pairs : Option (List Pair)),
    let balances := (s.pool.table.rows.take s.ctl.profile.pools).map (fun e => e.balance)
    (∀ (f : Epoch) (h : HistEntry), s.ctl.life = .run → s.pool.agreement = .agreed → s.pool.foldPoint = some f →
      s.pool.history.getLast? = some h → h.complete = true →
      s.build ⟨.snapshot, target, pairs⟩ = some (.snapshot
        { sender := s.own, point := f, balances := balances, digest := balanceDigest f balances
          map := s.presentMap })) ∧
    (s.ctl.life ≠ .run ∨ s.pool.agreement ≠ .agreed ∨ s.pool.foldPoint = none ∨ s.pool.history = [] ∨
        (∃ h : HistEntry, s.pool.history.getLast? = some h ∧ h.complete = false) →
      s.build ⟨.snapshot, target, pairs⟩ = none)) ∧
  (∀ (s : State) (n : Byte) (target : Option Station) (pairs : Option (List Pair)),
    (∀ a : Adjustment, s.adjust.queue.find? (fun a => a.originator == s.own && a.serial == n) = some a →
      s.build ⟨.adjust n, target, pairs⟩ = some (.adjust
        { sender := s.own, serial := n, effective := a.effective, pools := BitVec.ofNat 8 s.ctl.profile.pools
          items := a.items.map (fun i =>
            { pool := BitVec.ofNat 8 i.pool, kind := if i.set then 0 else 1, value := i.value }) })) ∧
    ((∀ a ∈ s.adjust.queue, ¬(a.originator = s.own ∧ a.serial = n)) → s.build ⟨.adjust n, target, pairs⟩ = none)) ∧
  (∀ (s : State) (target : Option Station) (pairs : Option (List Pair)),
    let stand := (pairs.getD []).filter (fun p => s.pairStands p)
    (stand ≠ [] ∨ target ≠ none → s.build ⟨.request, target, pairs⟩ = some (.request
      { sender := s.own, target := target.map stationByte, pairs := stand })) ∧
    (stand = [] → target = none → s.build ⟨.request, target, pairs⟩ = none)) ∧
  (∀ (s : State) (d : Digest) (target : Option Station) (pairs : Option (List Pair)), s.ctl.digest = some d →
    (s.ctl.life = .joining → s.ctl.profile.foldLag ≤ s.ctl.joinWait →
      s.build ⟨.join, target, pairs⟩ = some (.join { sender := s.own, digest := d })) ∧
    (s.ctl.life ≠ .joining ∨ s.ctl.joinWait < s.ctl.profile.foldLag → s.build ⟨.join, target, pairs⟩ = none) ∧
    (s.ctl.leave = .leaving → s.build ⟨.leave, target, pairs⟩ = some (.leave { sender := s.own })))

/-- Taking the send queue yields the first entry whose frame is built and would end at least 24 bit times before P, and
begins no other: the entries before it were declined, and leave, or failed the guard, and stay; where it yields none
every entry was declined or failed the guard (R29, R33). What each entry's frame is, and when it is declined,
QueueFramesAreBuilt says. The open-window gap of 24 + 2 × n bit times, reckoned from the slot-phase end or the end of the
last frame, is complete: the queue is taken, and the first frame that passes the guard begins (R27, R29, R33). What the
gap is reckoned from is the model's choice, notes/assumptions/20.md. Instants of the station's own steps: the model's
choice, notes/assumptions/2.md. The queue's taken mark is the model's, notes/assumptions/19.md. -/
def Obligations.OpenWindowSends : Prop :=
  (∀ (s : State) (latest : Instant) (q : List QEntry),
     (∀ (key : QKey) (f : Frame), (s.takeQueue latest q).2 = some (key, f) →
       ∃ (before after : List QEntry) (e : QEntry), q = before ++ e :: after ∧ e.key = key ∧ s.build e = some f ∧
         s.now + s.bits (10 * (f.size : Int)) ≤ latest ∧
         (∀ x ∈ before, ∀ g : Frame, s.build x = some g → latest < s.now + s.bits (10 * (g.size : Int))) ∧
         (s.takeQueue latest q).1 = before.filter (fun x => (s.build x).isSome) ++ e :: after) ∧
     ((s.takeQueue latest q).2 = none →
       (∀ x ∈ q, ∀ g : Frame, s.build x = some g → latest < s.now + s.bits (10 * (g.size : Int))) ∧
       (s.takeQueue latest q).1 = q.filter (fun x => (s.build x).isSome))) ∧
  ∀ (s : State) (o x : Instant), Ready s → (s.ctl.life = .run ∨ s.ctl.life = .joining) →
    s.clock.slotTimer = .window → s.line.tx = none → s.clock.pending = false → s.line.slotWaiting = none →
    s.line.taken = false → s.line.state = .idle x → s.clock.origin = some o →
    let at_ := s.due (max x (o + s.bits 10240) + s.bits (24 + 2 * (s.own.val : Int)))
    let taken := ({ s with now := at_ } : State).takeQueue (o + s.period - s.bits 24) s.line.queue
    (∀ (key : QKey) (f : Frame), taken.2 = some (key, f) → exec .openWindowGapComplete s = .next
      { s with
        now := at_
        line := { s.line with
          queue := taken.1, state := .busy
          tx := some { frame := f, began := at_, owner := .queue key, changed := false } } }) ∧
    (taken.2 = none → exec .openWindowGapComplete s = .next
      { s with now := at_, line := { s.line with queue := taken.1, taken := true } })

/-- A frame of the send queue gone out whole: its entry leaves the queue unless a merge changed it, and the line is idle from
the frame's end (R33). SNAPSHOT, ADJUST and REQUEST change nothing else (R76, R96, R106); a JOIN raises the join attempts
and clears the join wait count (R127); a RESEND raises its entry's resend count, and an untransmitted entry is marked
transmitted and handed to the window as this station's report: a record that is FOLDED already takes it in its late pending,
which the next mark brings to the balances (R60, R65 to R69). Instants of the station's own steps: the model's
choice, notes/assumptions/2.md. The queue's taken mark is the model's, notes/assumptions/19.md. -/
def Obligations.QueueFramesAreSent : Prop :=
  ∀ (s : State) (x : Tx) (key : QKey), Ready s → s.line.tx = some x → x.owner = .queue key →
    let line : Line := { s.line with
      tx := none, state := .idle (s.due (s.txEnd x)), overlap := false, taken := false
      queue := if x.changed then s.line.queue else s.line.queue.filter (fun e => e.key != key) }
    let t : State := { s with now := s.due (s.txEnd x), line := line }
    (key = .snapshot → exec .snapshotSent s = .next t) ∧
    (∀ n : Byte, key = .adjust n → exec .adjustSent s = .next t) ∧
    (key = .request → exec .requestSent s = .next t) ∧
    (key = .join → exec .joinSent s = .next
      { t with ctl := { s.ctl with
          joinAttempts := if s.ctl.joinAttempts < 3 then s.ctl.joinAttempts + 1 else 3, joinWait := 0 } }) ∧
    (∀ e : OutEntry, key = .resend e.epoch → s.outEntry e.epoch = some e →
      ∃ u, exec .resendSent s = .next u ∧ u.now = s.due (s.txEnd x) ∧ u.line = line ∧
        u.builder.carry = s.builder.carry ∧
        (∃ e', u.outEntry e.epoch = some e' ∧ e'.transmitted = true ∧ e'.deltas = e.deltas ∧
          e'.resends = (if e.resends < 255 then e.resends + 1 else 255) ∧
          (e.transmitted = false → e'.designated = false)) ∧
        (e.transmitted = true → u.window = s.window ∧ u.pool = s.pool) ∧
        (e.transmitted = false → OwnReportEntered s u e) ∧
        u.clock = s.clock ∧ u.roster = s.roster ∧ u.adjust = s.adjust ∧ u.ctl = s.ctl ∧ u.channels = s.channels ∧
        u.drives = s.drives ∧ u.port = s.port)

/-! ### Frames lost and frames not good -/

/-- A frame that loses arbitration leaves the line to the winner with the overlap indication set; a MARK stays pending, a
queue entry stays, and a slot REPORT waits as a RESEND and counts as an identity conflict, the third of which mutes (R5,
R25, R26, R48, R50, R58, R59). A drive fault releases the line and raises the discarded count; a slot REPORT waits as a
RESEND, and no conflict is counted (R24, R25, R26, R48, R58). -/
def Obligations.FramesAreLost : Prop :=
  ∀ (s : State) (dt : Nat) (x : Tx), Ready s → s.line.tx = some x →
    ((∀ e : Epoch, x.owner ≠ .slot e) → exec (.arbitrationLost dt) s = .next
      { s.later dt with line := { s.line with tx := none, state := .busy, overlap := true } }) ∧
    (∀ e : Epoch, x.owner = .slot e → ∃ t, exec (.arbitrationLost dt) s = .next t ∧ t.line.tx = none ∧
      t.roster.conflicts = s.roster.conflicts + 1 ∧ t.roster.conflictFree = 0 ∧ t.roster.entries = s.roster.entries ∧
      Reported t { kind := .identityConflict, epoch := s.clock.cur, subject := some s.own
                   value := BitVec.ofNat 16 (s.roster.conflicts + 1) } ∧
      (s.roster.conflicts < 2 → t.line.overlap = true ∧ t.line.state = .busy ∧ t.ctl = s.ctl ∧ t.builder = s.builder ∧
        t.clock = s.clock ∧
        (s.ctl.life = .run → s.line.queue.length < 8 → ∃ q ∈ t.line.queue, q.key = .resend e)) ∧
      (2 ≤ s.roster.conflicts → t.ctl.life = .mute ∧ t.ctl.cause = .identity ∧ t.drives.fault = true ∧
        t.line.queue = []) ∧
      t.window = s.window ∧ t.adjust = s.adjust ∧ t.channels = s.channels ∧ t.port.reply = s.port.reply) ∧
    ∃ t, exec (.driveFault dt) s = .next t ∧ t.now = s.now + dt ∧ t.line.tx = none ∧
      t.line.discarded = (if s.line.discarded < 65535 then s.line.discarded + 1 else 65535) ∧
      ((∀ e : Epoch, x.owner ≠ .slot e) → t.line.queue = s.line.queue) ∧
      (∀ e : Epoch, x.owner = .slot e → s.ctl.life = .run → s.line.queue.length < 8 →
        ∃ q ∈ t.line.queue, q.key = .resend e) ∧
      t.clock = s.clock ∧ t.roster = s.roster ∧ t.builder = s.builder ∧ t.window = s.window ∧ t.pool = s.pool ∧
      t.adjust = s.adjust ∧ t.ctl = s.ctl ∧ t.channels = s.channels ∧ t.drives = s.drives ∧ t.port = s.port

/-- The receiver's own steps: a frame that fails a check and a frame given up are counted, an abandoned frame ends, a
glitch restarts the idle time, and another station's frame that begins on an idle line makes it busy; nothing else changes
(R19, R21, R22, R24). With no command waiting the line brings these steps bit by bit. A fall while idle or after a stop bit
is sampled half a bit time later; any other change of level moves the level alone (R21). A dominant sample there begins a
byte, or at the 65th gives the frame up, and a recessive one is a glitch (R19, R21). Data bits and stop bit are sampled in
the middle of their bit times, least significant first, and a dominant stop bit gives the frame up (R20, R21). A frame ends
when the line has been recessive for 3 bit times, and is checked and handed on as of the end of its last stop bit, the idle
time running from a later glitch (R19, R20, R22, R23); a frame given up ends after 3 recessive bit times (R21). A
transmitter that reads dominant where it sends recessive has lost arbitration there, and its receiver goes on in the other
frame from the bits before (R25). That levels and a frame's beginning come over wires: notes/assumptions/4.md; what the
frame's 3 bit times leave open: notes/assumptions/41.md; that a dominant level whose fall the receiver has not seen ends
without effect: notes/assumptions/43.md. The queue's taken mark is the model's, notes/assumptions/19.md. -/
def Obligations.ReceiverCounts : Prop :=
  (∀ (s : State) (dt : Nat), Ready s →
    (∀ bytes : List Byte, s.canReceive = true → checkFrame s.ctl.profile.pools bytes = none →
      exec (.frameDiscarded dt bytes) s = .next { s.later dt with line := { s.line with
        state := .idle (s.now + dt), overlap := false, taken := false
        discarded := if s.line.discarded < 65535 then s.line.discarded + 1 else 65535 } }) ∧
    (s.canReceive = true → exec (.frameAbandoned dt) s = .next { s.later dt with line := { s.line with
        state := .abandoned, overlap := false
        discarded := if s.line.discarded < 65535 then s.line.discarded + 1 else 65535 } }) ∧
    (s.line.state = .abandoned → s.listening = true → exec (.abandonedFrameEnd dt) s = .next { s.later dt with
      line := { s.line with state := .idle (s.now + dt), overlap := false, taken := false } }) ∧
    (∀ x : Instant, s.line.state = .idle x → s.listening = true → s.line.tx = none →
      exec (.glitch dt) s = .next { s.later dt with line := { s.line with state := .idle (s.now + dt) } })) ∧
  (∀ (s : State) (dt : Nat) (w : Wire) (rest : List WireChange), Ready s → s.pending = [] →
    s.wires = { dt := dt, wire := w } :: rest → (∀ c ∈ s.filterChanges, s.now + dt < c.due) →
    (∀ x : Instant, s.nextSample = some x → s.now + dt < x) →
    let t : State := { s.later dt with wires := rest }
    let moved := fun (high : Bool) =>
      ({ t with inputs := { s.inputs with tally := { high := high, since := s.now + dt } } } : State)
    let falls := w = .line false ∧ s.inputs.tally.high = true ∧ s.ctl.life ≠ .config ∧ s.line.tx = none
    (∀ x : Instant, w = .frameBegins → s.line.state = .idle x → s.listening = true → s.line.tx = none →
      step s = .next { t with line := { s.line with state := .busy } }) ∧
    (∀ high : Bool, w = .line high → s.inputs.tally.high = high → step s = .next t) ∧
    (∀ x : Instant, falls → s.line.rx = .idle → s.line.state = .idle x → s.listening = true →
      step s = .next { moved false with
        line := { s.line with state := .busy, rx := .start (s.now + dt) [] (s.now + dt) } }) ∧
    (∀ (stop : Instant) (bytes : List Byte), falls → s.line.rx = .gap stop bytes →
      step s = .next { moved false with line := { s.line with rx := .start (s.now + dt) bytes stop } }) ∧
    (∀ high : Bool, w = .line high → s.inputs.tally.high ≠ high →
      (high = true ∨ s.ctl.life = .config ∨ s.line.tx ≠ none ∨ s.line.state = .abandoned ∧ s.line.rx = .idle ∨
        (s.line.rx ≠ .idle ∧ ∀ (stop : Instant) (bytes : List Byte), s.line.rx ≠ .gap stop bytes)) →
      step s = .next (moved high))) ∧
  (∀ (s : State) (x : Instant), Ready s → FirstAt s x → s.ctl.life ≠ .config → s.line.tx = none →
    let t := s.atSample x
    let at_ := fun (rx : Rx) => ({ t with line := { s.line with rx := rx } } : State)
    let high := s.inputs.tally.high
    let since := s.inputs.tally.since
    (∀ (fall : Instant) (bytes : List Byte) (stop : Instant), s.line.rx = .start fall bytes stop →
      x = fall + s.bits 1 / 2 →
      (high = false → bytes.length < 64 → step s = .next (at_ (.data fall [] bytes))) ∧
      (high = false → 64 ≤ bytes.length → s.canReceive = true → step s = .next { t with line := s.line.gaveUp }) ∧
      (high = true → bytes ≠ [] → step s = .next (at_ (.gap stop bytes))) ∧
      (high = true → bytes = [] → s.line.state = .busy → s.listening = true →
        step s = .next { t with line := { s.line with rx := .idle, state := .idle since } })) ∧
    (∀ (fall : Instant) (bits : List Bool) (bytes : List Byte), s.line.rx = .data fall bits bytes →
      x = fall + s.bits (2 * (bits.length : Int) + 3) / 2 →
      (bits.length < 8 → step s = .next (at_ (.data fall (bits ++ [high]) bytes))) ∧
      (bits.length = 8 → high = true → step s = .next (at_ (.gap (fall + s.bits 10) (bytes ++ [flagsByte bits])))) ∧
      (bits.length = 8 → high = false → s.canReceive = true → step s = .next { t with line := s.line.gaveUp })) ∧
    (∀ (stop : Instant) (bytes : List Byte) (c : Instr), s.line.rx = .gap stop bytes → high = true →
      x = max stop since + s.bits 3 →
      (∀ f : Frame, checkFrame s.ctl.profile.pools bytes = some f → c = f.received 0) →
      (checkFrame s.ctl.profile.pools bytes = none → c = .frameDiscarded 0 bytes) →
      ∃ u v, exec c { at_ .idle with now := stop } = .next u ∧ step s = .next v ∧
        v = { u with now := s.due x, line := { u.line with state := v.line.state } } ∧
        (∀ y : Instant, u.line.state = .idle y → v.line.state = .idle (max y since)) ∧
        ((∀ y : Instant, u.line.state ≠ .idle y) → v.line.state = u.line.state)) ∧
    (s.line.rx = .wait → high = true → x = since + s.bits 3 → s.line.state = .abandoned → s.listening = true →
      step s = .next { t with line := { s.line with rx := .idle, state := .idle x, overlap := false, taken := false } })) ∧
  (∀ (s : State) (x : Instant) (y : Tx) (k : Nat), Ready s → FirstAt s x → s.ctl.life ≠ .config → s.line.tx = some y →
    let sampled := fun (j : Nat) => y.began + s.bits (2 * (j : Int) + 1) / 2
    s.inputs.tally.high = false → y.frame.lineBits[k]? = some true → x = sampled k → s.now ≤ x →
    (∀ j : Nat, j < k → y.frame.lineBits[j]? = some true → sampled j < s.now) →
    ∃ u, step s = .next u ∧ exec (.arbitrationLost 0) { s.atSample x with line := { s.line with
      rx := .data (y.began + s.bits (10 * ((k / 10 : Nat) : Int)))
        ((y.frame.lineBits.drop (10 * (k / 10) + 1)).take (k % 10 - 1)) (y.frame.bytes.take (k / 10)) } } = .next u)

/-! ### Marks -/

/-- The mark timer's expiry makes a MARK pending; MARK_BEGIN builds and begins it after 12 idle bit times, carrying cur + 1,
the FOUNDING flag and the present map as they stand; and the MARK gone out whole is taken as the station's own mark (R2,
R5, R6, R27, and R24, R50, R54, R55, R64, R94, R99, R133, R155 in RUN), which installs or discards a held snapshot. At which
mark the wait count rises beside a falling hold-back count: notes/assumptions/24.md. Instants of the station's own steps:
the model's choice, notes/assumptions/2.md. -/
def Obligations.OwnMarkIsTaken : Prop :=
  ∀ (s : State), Ready s → s.ctl.life = .run →
    (∀ x : Instant, s.clock.timer = .running x → exec .markTimerExpiry s = .next
      { s with now := s.due x, clock := { s.clock with timer := .expired, pending := true } }) ∧
    (∀ x : Instant, s.clock.pending = true → s.line.tx = none → s.line.state = .idle x → exec .markBegin s = .next
      { s with
        now := s.due (x + s.bits 12)
        line := { s.line with
          state := .busy
          tx := some
            { frame := .mark { sender := s.own, epoch := s.clock.cur + 1, founding := decide (0 < s.clock.probation)
                               digest := s.profileDigest, map := s.presentMap }
              began := s.due (x + s.bits 12), owner := .mark, changed := false } } }) ∧
    (∀ x : Tx, s.line.tx = some x → x.owner = .mark →
      ∃ t, exec .ownMark s = .next t ∧ t.now = s.due (s.txEnd x) ∧
        t.clock = { cur := s.clock.cur + 1, pacing := some s.own
                    timer := .running (s.due (s.txEnd x) + s.period + s.bits (64 * (s.own.val : Int)))
                    pending := false, origin := some (s.due (s.txEnd x)), slotTimer := .slots, slotCount := 0
                    probation := s.clock.probation - 1 } ∧
        t.line.tx = none ∧ t.line.state = .idle (s.due (s.txEnd x)) ∧ t.line.queue = s.line.queue ∧
        MarkedInRun s t (s.clock.cur + 1))

/-- A MARK carrying cur + 1 is accepted in RUN (R11, and R24, R50, R54, R55, R64, R94, R99, R133, R155); it installs or
discards a held snapshot. A MARK with this station's own number whose overlap indication is set is taken alike (R11, R49).
At which mark the wait count rises beside a falling hold-back count: notes/assumptions/24.md. -/
def Obligations.NextMarkIsAccepted : Prop :=
  ∀ (s : State) (dt : Nat) (f : MarkFrame), Ready s → s.canReceive = true → s.ctl.life = .run →
    s.ctl.digest = some f.digest → s.clock.probation = 0 → s.ctl.leave ≠ .leaving →
    (f.sender ≠ s.own ∨ s.line.overlap = true) → f.epoch = s.clock.cur + 1 →
    ∃ t, exec (.markReceived dt f) s = .next t ∧ t.now = s.now + dt ∧
      t.clock = { cur := s.clock.cur + 1, pacing := some f.sender
                  timer := .running (s.now + dt + s.period + s.bits (64 * (s.own.val : Int)))
                  pending := false, origin := some (s.now + dt), slotTimer := .slots, slotCount := 0, probation := 0 } ∧
      t.line.tx = none ∧ t.line.state = .idle (s.now + dt) ∧ t.line.queue = s.line.queue ∧
      MarkedInRun s t (s.clock.cur + 1)

/-- In JOINING and RUN a repeated MARK changes nothing, a foreign one and one of another profile raise their event, and none
moves the clock (R10, R11); one of another profile is ignored during founding probation as well (R10). A MARK with this
station's own number whose overlap indication is set is handled alike (R11, R49). The queue's taken mark is the model's,
notes/assumptions/19.md. -/
def Obligations.OtherMarksAreIgnored : Prop :=
  ∀ (s : State) (dt : Nat) (f : MarkFrame), Ready s → s.canReceive = true →
    (s.ctl.life = .run ∨ s.ctl.life = .joining) → (f.sender ≠ s.own ∨ s.line.overlap = true) →
    let checked := s.ctl.digest = some f.digest ∧ (s.ctl.life = .run → s.clock.probation = 0)
    (checked → f.epoch = s.clock.cur → exec (.markReceived dt f) s = .next (s.heard dt)) ∧
    (∀ p : Station, checked → f.epoch ≠ s.clock.cur → f.epoch ≠ s.clock.cur + 1 →
      s.clock.pacing = some p → p < f.sender →
      exec (.markReceived dt f) s = .next { s.heard dt with
        port := s.port.took { kind := .foreignMark, epoch := s.clock.cur, subject := some f.sender, value := f.epoch } }) ∧
    (s.ctl.digest ≠ some f.digest →
      exec (.markReceived dt f) s = .next { s.heard dt with
        port := s.port.took
          { kind := .profileConflict, epoch := s.clock.cur, subject := some f.sender, value := f.digest } })

/-- A MARK of an unexpected epoch from a sender at or below the pacing station is a discontinuity: the records not FOLDED and
then the late pendings reach the balances, nothing is captured, the window and the pool unit start afresh, and the drives
leave the rule (R12, R34, R50, R61, R77, R95, R113, R158); so is one with this station's own number whose overlap indication
is set (R11, R49). -/
def Obligations.DiscontinuityIsTaken : Prop :=
  ∀ (s : State) (dt : Nat) (f : MarkFrame) (p : Station), Ready s → s.canReceive = true → s.ctl.life = .run →
    s.ctl.digest = some f.digest → s.clock.probation = 0 → s.ctl.leave ≠ .leaving →
    (f.sender ≠ s.own ∨ s.line.overlap = true) →
    f.epoch ≠ s.clock.cur → f.epoch ≠ s.clock.cur + 1 → s.clock.pacing = some p → f.sender ≤ p →
    ∃ t, exec (.markReceived dt f) s = .next t ∧ t.now = s.now + dt ∧
      t.clock = { cur := f.epoch, pacing := some f.sender
                  timer := .running (s.now + dt + s.period + s.bits (64 * (s.own.val : Int)))
                  pending := false, origin := some (s.now + dt), slotTimer := .slots, slotCount := 0, probation := 0 } ∧
      DiscontinuedInRun s t f

/-- In JOINING a MARK carrying cur + 1 is taken as a mark: record cur − 1 − F is folded into the provisional balances, the
new record does not expect this station, the join wait count rises to 4 at most, the join silence timer is reloaded, and
nothing is captured (R11, R50, R64, R85, R127, R130). A MARK of an unexpected epoch from a sender at or below the pacing
station is a discontinuity: join wait count and join attempts become 0, the emergency fold reaches the balances, the
window and the pool unit start afresh, and the agreement state stays NONE with the hold-back count at F (R12, R77, R95,
R131). A repeated MARK changes nothing. A MARK with this station's own number whose overlap
indication is set is taken alike (R11, R49). The queue's taken mark is the model's, notes/assumptions/19.md. -/
def Obligations.JoinersTakeMarks : Prop :=
  ∀ (s : State) (dt : Nat) (f : MarkFrame), Ready s → s.canReceive = true → s.ctl.life = .joining →
    s.ctl.digest = some f.digest → (f.sender ≠ s.own ∨ s.line.overlap = true) →
    let clock : Clock := { s.clock with
      cur := f.epoch, pacing := some f.sender, pending := false, origin := some (s.now + dt), slotTimer := .slots
      slotCount := 0 }
    (f.epoch = s.clock.cur + 1 → s.pool.held = none →
      ∃ t, exec (.markReceived dt f) s = .next t ∧ t.now = s.now + dt ∧ t.clock = clock ∧
        MarkedInJoining s t (s.clock.cur + 1)) ∧
    (∀ p : Station, f.epoch ≠ s.clock.cur → f.epoch ≠ s.clock.cur + 1 → s.clock.pacing = some p → f.sender ≤ p →
      ∃ t, exec (.markReceived dt f) s = .next t ∧ t.now = s.now + dt ∧ t.clock = clock ∧ DiscontinuedInJoining s t f) ∧
    (f.epoch = s.clock.cur → exec (.markReceived dt f) s = .next (s.heard dt))

/-- A mismatched MARK in LISTEN is counted, up to 255, with a PROFILE_CONFLICT event, and changes nothing else (R14, R122). A
matching one sets cur, pacing station and slot phase and is counted; the second takes the station to JOINING; one whose
present map holds this station's number mutes it (R14, R50, R51, R122, R126). That cur, pacing station, origin, the
conflict counts and the event's epoch follow the MARK also when its present map holds this station's number is the
model's reading, notes/assumptions/27.md. The queue's taken mark is the model's, notes/assumptions/19.md. -/
def Obligations.ListeningTakesMarks : Prop :=
  ∀ (s : State) (dt : Nat) (f : MarkFrame), Ready s → s.canReceive = true → s.ctl.life = .listen →
    (f.sender ≠ s.own ∨ s.line.overlap = true) →
    (s.ctl.digest ≠ some f.digest → exec (.markReceived dt f) s = .next { s.heard dt with
      ctl := { s.ctl with mismatched := if s.ctl.mismatched < 255 then s.ctl.mismatched + 1 else 255 }
      port := s.port.took
        { kind := .profileConflict, epoch := s.clock.cur, subject := some f.sender, value := f.digest } }) ∧
    (s.ctl.digest = some f.digest →
    ∃ t, exec (.markReceived dt f) s = .next t ∧ t.now = s.now + dt ∧
      t.clock.cur = f.epoch ∧ t.clock.pacing = some f.sender ∧ t.clock.origin = some (s.now + dt) ∧
      (mapHas f.map s.own = false → t.clock.slotTimer = .slots ∧ t.clock.slotCount = 0 ∧
        t.ctl.matching = s.ctl.matching + 1) ∧
      (mapHas f.map s.own = false → s.ctl.matching = 0 → t.ctl.life = .listen ∧ t.ctl.listenTimer = s.ctl.listenTimer) ∧
      (mapHas f.map s.own = false → 1 ≤ s.ctl.matching → t.ctl.life = .joining ∧ t.ctl.listenTimer = none ∧
        t.ctl.joinWait = 0 ∧ t.ctl.joinAttempts = 0 ∧ t.ctl.silence = some (s.now + dt + s.listenSpan) ∧
        Reported t { kind := .state, epoch := f.epoch, subject := none, value := 0x0200 }) ∧
      (mapHas f.map s.own = true → t.ctl.life = .mute ∧ t.ctl.cause = .identity ∧ t.drives.fault = true ∧
        Reported t { kind := .identityConflict, epoch := f.epoch, subject := some f.sender, value := 0 }) ∧
      ConflictFree s t ∧ t.roster.entries = s.roster.entries ∧ t.window = s.window ∧ t.adjust = s.adjust ∧
      t.channels = s.channels ∧
      t.port.reply = s.port.reply)

/-- A founder on probation abandons on a MARK without the FOUNDING flag or with it from a lower number, and ignores one with
it from a number at or above its own, with a FOREIGN_MARK event (R15, R125). A MARK with its own number counts as an
identity conflict too, unless its overlap indication is set; the third conflict mutes (R49, R50). Which of conflict and
MARK comes first is free, notes/assumptions/6.md. The queue's taken mark is the model's, notes/assumptions/19.md. -/
def Obligations.FounderOnProbation : Prop :=
  ∀ (s : State) (dt : Nat) (f : MarkFrame), Ready s → s.canReceive = true → s.ctl.life = .run →
    s.ctl.digest = some f.digest → 0 < s.clock.probation →
    let foreign : Event := { kind := .foreignMark, epoch := s.clock.cur, subject := some f.sender, value := f.epoch }
    let conflict := fun (n : Nat) => ({ kind := .identityConflict, epoch := s.clock.cur, subject := some s.own
                                        value := BitVec.ofNat 16 n } : Event)
    let counted := (s.heard dt).withConflicts (s.roster.conflicts + 1) 0
    (f.sender ≠ s.own ∨ s.line.overlap = true →
      (f.founding = false ∨ f.sender < s.own →
        ∃ t, exec (.markReceived dt f) s = .next t ∧ RestartedFrom s t (s.now + dt) ∧ t.port.reply = s.port.reply) ∧
      (f.founding = true → s.own ≤ f.sender → exec (.markReceived dt f) s = .next { s.heard dt with
        port := s.port.took foreign })) ∧
    (f.sender = s.own → s.line.overlap = false → ∃ t, exec (.markReceived dt f) s = .next t ∧ t.now = s.now + dt ∧
      t.port.reply = s.port.reply ∧
      (2 ≤ s.roster.conflicts → f.founding = true →
        FrozenFrom counted t .mute .identity ∧ Reported t (conflict (s.roster.conflicts + 1))) ∧
      (s.roster.conflicts < 2 → f.founding = true → t = { counted with port := t.port, free := t.free } ∧
        Reported t foreign ∧ Reported t (conflict (s.roster.conflicts + 1))) ∧
      (f.founding = false →
        (2 ≤ s.roster.conflicts ∧ FrozenFrom counted t .mute .identity ∧
          Reported t (conflict (s.roster.conflicts + 1))) ∨
        (t.roster.conflicts = 0 ∧ s.roster.conflicts < 2 ∧ RestartedFrom s t (s.now + dt) ∧
          Reported t (conflict (s.roster.conflicts + 1))) ∨
        (t.roster.conflicts = 1 ∧ RestartedFrom s (t.withConflicts 0 0) (s.now + dt) ∧ Reported t (conflict 1))))

/-- An install sets the balances to the snapshot's, replays every FOLDED record ahead of its fold point, oldest first, its
sums and then its applied adjustments, sets every late pending to 0, keeps the gaps that the snapshot does not cover, leaves
the CLIPPED flags but for those the replay sets, starts the history afresh, and leaves the station clean and AGREED (R80,
R99). Its test asks that the records from its fold point + 1 on be held and that its fold point be at or behind the latest
one; a joiner's is decided on the window as the mark's fold and ageing leave it (R99). At an accepted MARK in RUN a held
snapshot that passes its test is installed on the state the fold and the ageing leave, and one that fails is discarded; in
JOINING one that passes brings the station into RUN: the mark timer runs, the silence timer stops, it captures, and its
drive rules are evaluated on the installed balances (R99, R116, R130, R132, R155), and one that fails leaves it in JOINING
(R99). -/
def Obligations.SnapshotsAreInstalled : Prop :=
  (∀ (s : State) (h : HeldSnapshot), h.balances.length = s.ctl.profile.pools →
    let t := s.install h
    t.pool.agreement = .agreed ∧ t.pool.clean = true ∧ t.pool.held = none ∧ t.pool.target = none ∧ t.pool.wait = 0 ∧
    t.pool.holdBack = 0 ∧ t.pool.noComparison = 0 ∧ t.pool.foldPoint = s.pool.foldPoint ∧
    t.pool.uncleanSelf = s.pool.uncleanSelf ∧
    t.pool.gaps = s.pool.gaps.filter (fun g => !(atOrBehind g.epoch h.point) && mapHas h.map g.station) ∧
    t.window = { s.window with records := s.window.records.map (fun r => { r with late := r.late.map (fun _ => 0) }) } ∧
    (∀ e : Epoch, s.pool.foldPoint = some e → t.pool.history =
      [{ point := e, digest := balanceDigest e t.balances, complete := t.pool.gaps.isEmpty }]) ∧
    (∀ p : Fin 8,
      let base := { s.pool.table.get p with balance := h.balances[p.val]?.getD (s.pool.table.get p).balance }
      let replayed := (s.window.records.filter (fun r => r.state == .folded && ahead r.epoch h.point)).reverse
      t.pool.table.get p = (replayed.flatMap (fun r => recordSteps p r.sums r.applied)).foldl PoolEntry.stepped base) ∧
    t.clock = s.clock ∧ t.line = s.line ∧ t.roster = s.roster ∧ t.builder = s.builder ∧ t.adjust = s.adjust ∧
    t.ctl = s.ctl ∧ t.channels = s.channels ∧ t.drives = s.drives) ∧
  (∀ (p : Epoch) (oldest : Option Record) (point : Option Epoch), installTest p oldest point = true ↔
    ∃ (r : Record) (f : Epoch), oldest = some r ∧ point = some f ∧ (p + 1 - r.epoch).toNat ≤ 32767 ∧
      (p = f ∨ 32768 ≤ (p - f).toNat)) ∧
  (∀ s : State,
    let e := s.clock.cur - 1 - BitVec.ofNat 16 s.ctl.profile.foldLag
    let point := if ∃ r ∈ s.window.records, r.epoch = e then some e else s.pool.foldPoint
    let kept := if s.window.records.length < 8 then s.window.records else s.window.records.dropLast
    s.joinInstall = true ↔ ∃ h : HeldSnapshot, s.pool.held = some h ∧ installTest h.point kept.getLast? point = true) ∧
  ∀ (s : State) (dt : Nat) (f : MarkFrame) (h : HeldSnapshot), Ready s → s.canReceive = true →
    s.ctl.digest = some f.digest → s.clock.probation = 0 → s.ctl.leave ≠ .leaving →
    (f.sender ≠ s.own ∨ s.line.overlap = true) → f.epoch = s.clock.cur + 1 → s.pool.held = some h →
    ∃ t, exec (.markReceived dt f) s = .next t ∧ t.now = s.now + dt ∧ CountedAtMark s t (s.clock.cur + 1) ∧
      ∃ m : State, AtMark s m (s.clock.cur + 1) ∧
        (s.ctl.life = .run →
          (installTest h.point (m.windowMark true).oldest (m.windowMark true).pool.foldPoint = true →
            InstalledAtMark m t h true ∧ t.window = ((m.windowMark true).install h).window) ∧
          (installTest h.point (m.windowMark true).oldest (m.windowMark true).pool.foldPoint = false →
            DiscardedAtMark m t true ∧ t.window = (m.windowMark true).window)) ∧
        (s.ctl.life = .joining →
          (m.joinInstall = true → JoinerInstalled s m t h (s.clock.cur + 1) true ∧
            t.window = ((m.windowMark true).install h).window) ∧
          (m.joinInstall = false → JoinerStays s m t ∧ t.window = (m.windowMark false).window))

/-! ### Balances -/

/-- A capture's total for a pool is its carry and the accumulator of every channel mapped to the pool, times the channel's
sign; a channel in mode OFF hands over nothing (R54, R144). Each total is split into a delta within ±32,767 and a carry,
losing nothing, the delta standing at the limit that the total passes (R54), and every addition to a balance saturates at
the limit it would pass (R80). -/
def Obligations.SumsKeepTheirLimits : Prop :=
  (∀ (s : State) (p : Fin 8),
    let part := fun (i : Fin 4) =>
      let cfg := s.ctl.profile.channels.get i
      let v := (s.channels.get i).acc.signExtend 64
      if cfg.mode = .off ∨ cfg.pool ≠ p then 0#64 else if cfg.negative then -v else v
    s.captureTotal p = s.builder.carry.get p + (part 0 + part 1 + part 2 + part 3) ∧
    s.captureDeltas.length = s.ctl.profile.pools ∧
    (p.val < s.ctl.profile.pools → s.captureDeltas[p.val]? = some (clampDelta (s.captureTotal p)).1)) ∧
  (∀ total : BitVec 64,
    -32767 ≤ (clampDelta total).1.toInt ∧ (clampDelta total).1.toInt ≤ 32767 ∧
    (clampDelta total).1.signExtend 64 + (clampDelta total).2 = total ∧
    (-32767 ≤ total.toInt → total.toInt ≤ 32767 → (clampDelta total).1.toInt = total.toInt ∧ (clampDelta total).2 = 0) ∧
    (32767 < total.toInt → (clampDelta total).1.toInt = 32767) ∧
    (total.toInt < -32767 → (clampDelta total).1.toInt = -32767)) ∧
  (∀ b v : BitVec 32,
    (-2147483648 ≤ b.toInt + v.toInt → b.toInt + v.toInt ≤ 2147483647 →
      (satAdd b v).1.toInt = b.toInt + v.toInt ∧ (satAdd b v).2 = none) ∧
    (2147483647 < b.toInt + v.toInt → (satAdd b v).1.toInt = 2147483647 ∧ (satAdd b v).2 = some true) ∧
    (b.toInt + v.toInt < -2147483648 → (satAdd b v).1.toInt = -2147483648 ∧ (satAdd b v).2 = some false))

/-- A mark's fold with no adjustment due and no late pending: the record's sums enter the balances pool by pool, a sum that
saturates a pool whose CLIPPED flag is clear sets the flag and raises one CLIPPED event with the limit met, and no other
does (R80), the record is FOLDED, and the digest history takes the digest of the new balances (R64, R71, R81, R83). -/
def Obligations.FoldsAddSums : Prop :=
  ∀ (s : State) (e : Epoch) (r : Record), e = s.clock.cur - 1 - BitVec.ofNat 16 s.ctl.profile.foldLag →
    s.record e = some r → r.state ≠ .folded → (∀ a ∈ s.adjust.queue, a.effective ≠ e) →
    (∀ x ∈ s.window.records, x.state = .folded → ∀ v ∈ x.late, v = 0) →
    let t := s.foldAtMark
    t.pool.foldPoint = some e ∧
    (∀ (p : Fin 8) (v : BitVec 32), r.sums[p.val]? = some v →
      (t.pool.table.get p).balance = (satAdd (s.pool.table.get p).balance v).1 ∧
      (t.pool.table.get p).clipped =
        ((s.pool.table.get p).clipped || (satAdd (s.pool.table.get p).balance v).2.isSome) ∧
      (∀ upper : Bool, (satAdd (s.pool.table.get p).balance v).2 = some upper → (s.pool.table.get p).clipped = false →
        (Block.pool, { kind := .clipped, epoch := s.clock.cur, subject := some (p.castLE (by decide))
                       value := if upper then 1 else 0 }) ∈ t.port.arising)) ∧
    (∀ x ∈ t.port.arising, x.2.kind = .clipped → x ∈ s.port.arising ∨
      ∃ (p : Fin 8) (v : BitVec 32), r.sums[p.val]? = some v ∧ x.2.subject = some (p.castLE (by decide)) ∧
        (s.pool.table.get p).clipped = false ∧ (satAdd (s.pool.table.get p).balance v).2 ≠ none) ∧
    (∀ p : Fin 8, r.sums[p.val]? = none → t.pool.table.get p = s.pool.table.get p) ∧
    t.pool.history.getLast? = some
      { point := e, digest := balanceDigest e t.balances, complete := t.pool.gaps.isEmpty } ∧
    (∃ r', t.record e = some r' ∧ r'.state = .folded ∧ r'.heard = r.heard ∧ r'.sums = r.sums ∧ r'.applied = []) ∧
    t.clock = s.clock ∧ t.line = s.line ∧ t.roster = s.roster ∧ t.builder = s.builder ∧ t.adjust = s.adjust ∧
    t.ctl = s.ctl ∧ t.channels = s.channels ∧ t.drives = s.drives

/-- The adjustments due at a fold leave the queue, are applied after the record's sums, SET replacing and ADD adding, are
listed in the record, and raise ADJUST_APPLIED (R81, R110), as the pool unit's event, the model's choice,
notes/assumptions/40.md. At every mark the late pending of each FOLDED record other than
one folded at it is added to the balances, oldest record first, and set to 0, whether or not a record folds (R72, R82): at a
fold after the sums and the adjustments, so that it is in the digest the fold records (R81, R82, R83). Every addition
saturates and sets the CLIPPED flag when it does, a flag that was clear with a CLIPPED event (R80). -/
def Obligations.FoldsApplyAdjustments : Prop :=
  (∀ (s : State) (e : Epoch) (r : Record), e = s.clock.cur - 1 - BitVec.ofNat 16 s.ctl.profile.foldLag →
    s.record e = some r → r.state ≠ .folded →
    let t := s.foldAtMark
    let due := s.adjust.queue.filter (fun a => a.effective == e)
    let late := s.window.records.reverse.filter (fun x => x.state == .folded && x.epoch != e)
    t.adjust.queue = s.adjust.queue.filter (fun a => a.effective != e) ∧ t.adjust.lastSerial = s.adjust.lastSerial ∧
    (∃ r', t.record e = some r' ∧ r'.state = .folded ∧ r'.late = r.late ∧ r'.applied = due) ∧
    (∀ a ∈ due, (Block.pool, { kind := .adjustApplied, epoch := s.clock.cur, subject := some a.originator
                               value := a.serial.setWidth 16 }) ∈ t.port.arising) ∧
    (∀ p : Fin 8, t.pool.table.get p =
      (recordSteps p r.sums due ++ lateSteps p late).foldl PoolEntry.stepped (s.pool.table.get p)) ∧
    t.pool.foldPoint = some e ∧ t.pool.history.getLast? = some
      { point := e, digest := balanceDigest e t.balances, complete := t.pool.gaps.isEmpty }) ∧
  (∀ s : State,
    let e := s.clock.cur - 1 - BitVec.ofNat 16 s.ctl.profile.foldLag
    let t := s.foldAtMark
    (∀ x ∈ t.window.records, x.state = .folded → x.epoch ≠ e → ∀ w ∈ x.late, w = 0) ∧
    (∀ p : Fin 8, (s.pool.table.get p).clipped = false → (t.pool.table.get p).clipped = true →
      ∃ limit ∈ [0#16, 1#16], (Block.pool, { kind := .clipped, epoch := s.clock.cur
                                             subject := some (p.castLE (by decide)), value := limit }) ∈ t.port.arising) ∧
    ((s.record e = none ∨ ∃ r, s.record e = some r ∧ r.state = .folded) →
      t.pool.foldPoint = s.pool.foldPoint ∧ t.pool.history = s.pool.history ∧ t.adjust = s.adjust ∧
      t.pool.gaps = s.pool.gaps ∧
      (∀ p : Fin 8, t.pool.table.get p =
        (lateSteps p (s.window.records.reverse.filter (fun x => x.state == .folded))).foldl PoolEntry.stepped
          (s.pool.table.get p))))

/-- A fold opens a gap for every station it expected and did not hear whose roster entry is neither GONE nor ABSENT, as far
as the sixteen places go; the gaps beyond sixteen are lost, which raises GAP_OVERFLOW with their number, clears the clean
flag and makes AGREED UNCERTAIN (R71, R86). Ageing drops the oldest of eight records, and its gaps expire with one
GAP_EXPIRED event each and the same loss of the clean flag (R64, R73, R87). -/
def Obligations.GapsOpenAndExpire : Prop :=
  (∀ (s : State) (r : Record) (g : Gap), g ∈ s.gapsOf r ↔ g.epoch = r.epoch ∧ mapHas r.expected g.station = true ∧
    mapHas r.heard g.station = false ∧ (s.entry g.station).state ≠ .gone ∧ (s.entry g.station).state ≠ .absent) ∧
  (∀ (s : State) (e : Epoch) (r : Record), e = s.clock.cur - 1 - BitVec.ofNat 16 s.ctl.profile.foldLag →
    s.record e = some r → r.state ≠ .folded →
    let t := s.foldAtMark
    let lost := (enterGaps s.pool.gaps 0 (s.gapsOf r)).2
    (∀ g ∈ t.pool.gaps, g ∈ s.pool.gaps ∨ g ∈ s.gapsOf r) ∧ (∀ g ∈ s.pool.gaps, g ∈ t.pool.gaps) ∧
    (s.pool.gaps.length + (s.gapsOf r).length ≤ 16 → (∀ g ∈ s.gapsOf r, g ∈ t.pool.gaps) ∧ lost = 0) ∧
    (s.pool.gaps.length ≤ 16 → (∀ g ∈ s.gapsOf r, g ∉ s.pool.gaps) →
      lost = s.pool.gaps.length + (s.gapsOf r).length - 16 ∧
      t.pool.gaps.length = min 16 (s.pool.gaps.length + (s.gapsOf r).length)) ∧
    (lost = 0 → t.pool.clean = s.pool.clean ∧ t.pool.agreement = s.pool.agreement) ∧
    (0 < lost → t.pool.clean = false ∧
      t.pool.agreement = (if s.pool.agreement = .agreed then .uncertain else s.pool.agreement) ∧
      (Block.pool, { kind := .gapOverflow, epoch := s.clock.cur, subject := none, value := BitVec.ofNat 16 lost }) ∈
        t.port.arising)) ∧
  (∀ s : State,
    (s.window.records.length < 8 → s.age = s) ∧
    (∀ r : Record, 8 ≤ s.window.records.length → s.oldest = some r →
      s.age.window = { s.window with records := s.window.records.dropLast } ∧
      s.age.pool.gaps = s.pool.gaps.filter (fun g => g.epoch != r.epoch) ∧ s.age.pool.table = s.pool.table ∧
      (∀ g ∈ s.pool.gaps, g.epoch = r.epoch →
        s.age.pool.clean = false ∧
        s.age.pool.agreement = (if s.pool.agreement = .agreed then .uncertain else s.pool.agreement) ∧
        (Block.pool, { kind := .gapExpired, epoch := s.clock.cur, subject := some g.station, value := g.epoch }) ∈
          s.age.port.arising) ∧
      ((∀ g ∈ s.pool.gaps, g.epoch ≠ r.epoch) →
        s.age.pool.clean = s.pool.clean ∧ s.age.pool.agreement = s.pool.agreement)))

/-! ### Other frames received -/

/-- A REPORT or RESEND of another station in LISTEN, and one whose epoch is not cur in JOINING and RUN. Its sender becomes
PRESENT with miss count 0, its epoch first heard is set if it was ABSENT, its last JOIN epoch goes, its last report takes
the frame's fold point, digest and clean flag and the newest report epoch, and a change of state raises a PEER event
(R38, R42). In JOINING and RUN, for a record held that has not heard its sender it is taken: heard set, sums, and late
pending of a FOLDED record, whose gap it closes; a COLLECTING record that thereby has heard all it expects is SETTLED
(R65, R66, R67). A duplicate, a stale one, one ahead of cur and one in LISTEN change nothing of the window (R63, R65,
R68). One whose sender is not the reference, and one outside RUN, is not compared: but for a gap that it closes the pool
unit, the send queue and the drives stay as they were (R47, R90). The queue's taken mark is the model's,
notes/assumptions/19.md. -/
def Obligations.ReportsAreTaken : Prop :=
  ∀ (s : State) (dt : Nat) (f : ReportFrame) (c : Instr),
    (c = .reportReceived dt f ∨ c = .resendReceived dt f) → Ready s → s.canReceive = true →
    f.wf = true → f.deltas.length = s.ctl.profile.pools → f.sender ≠ s.own →
    let takes := s.ctl.life = .joining ∨ s.ctl.life = .run
    (takes → f.epoch ≠ s.clock.cur) →
    ∃ t, exec c s = .next t ∧ t.now = s.now + dt ∧
      (∀ r : Record, takes → behind f.epoch s.clock.cur = true → s.record f.epoch = some r → mapHas r.heard f.sender = false →
        ∃ r', t.record f.epoch = some r' ∧
          r'.heard = r.heard ||| mapOf f.sender ∧ r'.expected = r.expected ||| mapOf f.sender ∧
          r'.sums = List.zipWith (fun v d => v + d.signExtend 32) r.sums f.deltas ∧
          r'.late =
            (if r.state = .folded then List.zipWith (fun v d => v + d.signExtend 32) r.late f.deltas else r.late) ∧
          r'.state = (if r.state = .collecting ∧ r'.heard = r'.expected then .settled else r.state) ∧
          (r.state = .folded → ({ station := f.sender, epoch := f.epoch } : Gap) ∉ t.pool.gaps) ∧
          (r.state ≠ .folded → t.pool.gaps = s.pool.gaps)) ∧
      (takes → (∀ r ∈ s.window.records, r.epoch = f.epoch → mapHas r.heard f.sender = true) →
        t.window = s.window ∧ t.pool.gaps = s.pool.gaps) ∧
      (¬takes ∨ s.record f.epoch = none ∨ ahead f.epoch s.clock.cur = true →
        t.window = s.window ∧ t.pool.gaps = s.pool.gaps) ∧
      t.entry f.sender =
        { state := .present, miss := 0
          firstHeard := if (s.entry f.sender).state = .absent then some s.clock.cur else (s.entry f.sender).firstHeard
          lastJoin := none
          lastReport := some
            { epoch := match (s.entry f.sender).lastReport with
                | none => f.epoch
                | some r => if ahead f.epoch r.epoch then f.epoch else r.epoch
              fold := f.fold, clean := f.clean } } ∧
      ((s.entry f.sender).state ≠ .present → Reported t
        { kind := .peer, epoch := s.clock.cur, subject := some f.sender, value := 2 }) ∧
      (∀ n : Station, n ≠ f.sender → t.entry n = s.entry n) ∧ t.roster.reference = s.roster.reference ∧
      (s.ctl.life ≠ .run ∨ s.roster.reference ≠ some f.sender →
        t.pool = { s.pool with gaps := t.pool.gaps } ∧ t.line = (s.heard dt).line ∧ t.drives = s.drives) ∧
      t.pool.table = s.pool.table ∧ t.clock = s.clock ∧ t.builder = s.builder ∧ t.adjust = s.adjust ∧ t.ctl = s.ctl ∧
      t.channels = s.channels ∧ t.port.reply = s.port.reply

/-- A REPORT or RESEND of the reference that carries a fold point the history holds is compared with it, before an implied
mark it may cause. Equal digests make the station AGREED, take over a clean flag of 1 and discard a held snapshot;
unequal ones against a complete entry make AGREED and UNCERTAIN DIVERGED, with a snapshot request to the reference that
makes it RESYNCING once the send queue takes it; against an incomplete entry they change nothing (R90, R93). The drive
pins follow at that instant (R158, R159, R161). Stated for a frame that implies no mark. That an equal comparison leaves the
target is the model's choice, notes/assumptions/35.md. -/
def Obligations.ReportsAreCompared : Prop :=
  ∀ (s : State) (dt : Nat) (f : ReportFrame) (c : Instr),
    (c = .reportReceived dt f ∨ c = .resendReceived dt f) → Ready s → s.canReceive = true →
    f.wf = true → f.deltas.length = s.ctl.profile.pools → s.ctl.life = .run → s.roster.reference = some f.sender →
    f.sender ≠ s.own → f.epoch ≠ s.clock.cur →
    ∃ t, exec c s = .next t ∧
      (∀ (m : FoldMark) (h : HistEntry), f.fold = some m → s.pool.history.find? (fun x => x.point == m.point) = some h →
        (m.digest = h.digest → t.pool.agreement = .agreed ∧ t.pool.clean = (s.pool.clean || f.clean) ∧
          t.pool.held = none ∧ t.pool.noComparison = 0 ∧ t.pool.target = s.pool.target ∧ t.line.queue = s.line.queue ∧
          DrivesFollow s t s.clock.cur .run .agreed ∧
          (s.pool.agreement ≠ .agreed → Reported t
            { kind := .agreement, epoch := s.clock.cur, subject := some f.sender, value := 1 })) ∧
        (m.digest ≠ h.digest → h.complete = true → t.pool.noComparison = 0 ∧ t.pool.clean = s.pool.clean ∧
          t.pool.held = s.pool.held ∧
          (s.pool.agreement = .agreed ∨ s.pool.agreement = .uncertain → t.pool.target = some f.sender ∧
            t.drives.fault = true ∧ DrivesFollow s t s.clock.cur .run .diverged ∧
            Reported t { kind := .agreement, epoch := s.clock.cur, subject := some f.sender, value := 3 } ∧
            (0 < s.pool.holdBack → t.pool.agreement = .diverged ∧ t.line.queue = s.line.queue) ∧
            (s.pool.holdBack = 0 → s.line.queue.length < 8 → t.pool.agreement = .resyncing ∧ t.pool.wait = 0 ∧
              ∃ q ∈ t.line.queue, q.key = .request ∧ q.target = some f.sender)) ∧
          (s.pool.agreement = .diverged ∨ s.pool.agreement = .resyncing →
            t.pool.agreement = s.pool.agreement ∧ t.pool.target = s.pool.target ∧ t.line.queue = s.line.queue)) ∧
        (m.digest ≠ h.digest → h.complete = false → t.pool.agreement = s.pool.agreement ∧
          t.pool.clean = s.pool.clean ∧ t.pool.held = s.pool.held ∧ t.pool.noComparison = s.pool.noComparison ∧
          t.pool.target = s.pool.target ∧ t.line.queue = s.line.queue)) ∧
      (f.fold = none ∨ (∃ m : FoldMark, f.fold = some m ∧ s.pool.history.find? (fun x => x.point == m.point) = none) →
        t.pool.agreement = s.pool.agreement ∧ t.pool.clean = s.pool.clean ∧ t.pool.held = s.pool.held ∧
        t.pool.noComparison = s.pool.noComparison ∧ t.pool.target = s.pool.target ∧ t.line.queue = s.line.queue) ∧
      t.pool.history = s.pool.history ∧ t.pool.table = s.pool.table ∧ t.pool.foldPoint = s.pool.foldPoint

/-- A REPORT whose report epoch is cur is taken after an implied mark: cur advances, the pacing station stays, the origin
is reconstructed from the REPORT's beginning (R16). The blocks take their mark responses as for an accepted MARK, the
comparison standing before them (R16, R90): the discarded count is reported (R24), the conflict-free mark counted (R50), the
record of cur - 1 - F folded and the oldest aged (R64, R71, R81), a held snapshot installed or discarded (R99), in RUN the
channels captured (R54, R144) and the drive rules evaluated (R155). The new record then takes the frame (R65, R66). In RUN
the own report goes out as no slot REPORT but waits as a RESEND (R57); in JOINING nothing is captured, the join wait count
rises and the silence timer is reloaded (R127, R130), unless a held snapshot passes its test and brings the station into
RUN (R132). At which mark the wait count rises beside a falling hold-back count: notes/assumptions/24.md. -/
def Obligations.ReportImpliesMark : Prop :=
  ∀ (s : State) (dt : Nat) (f : ReportFrame), Ready s → s.canReceive = true → f.wf = true →
    f.deltas.length = s.ctl.profile.pools → (s.ctl.life = .run ∨ s.ctl.life = .joining) → s.ctl.leave ≠ .leaving →
    f.sender ≠ s.own → f.epoch = s.clock.cur →
    ∃ t, exec (.reportReceived dt f) s = .next t ∧ t.now = s.now + dt ∧
      t.clock.cur = s.clock.cur + 1 ∧ t.clock.pacing = s.clock.pacing ∧ t.clock.pending = false ∧
      t.clock.origin = some (s.now + dt - s.bits (10 * (12 + 2 * (s.ctl.profile.pools : Int))) -
        s.bits (320 * (f.sender.val : Int))) ∧
      t.clock.slotTimer = .slots ∧ t.clock.slotCount = f.sender.val + 1 ∧
      (∃ r, t.window.records.head? = some r ∧ r.epoch = s.clock.cur ∧ r.heard = mapOf f.sender ∧
        r.sums = f.deltas.map (fun d => d.signExtend 32) ∧ r.applied = []) ∧
      (t.entry f.sender).state = .present ∧ (t.entry f.sender).miss = 0 ∧
      (∀ n : Station, n ≠ f.sender → t.entry n = s.entry n) ∧ t.roster.reference = s.roster.reference ∧
      CountedAtMark s t (s.clock.cur + 1) ∧
      (s.ctl.life = .run → t.ctl.life = .run ∧
        t.clock.timer = .running (s.now + dt + s.period + s.bits (64 * (s.own.val : Int))) ∧
        ImpliedInRun s t (s.clock.cur + 1) f ∧
        ∃ m : State, AtImpliedMark s m (s.clock.cur + 1) f ∧ PoolAtMark m t ∧ t.window = m.windowInRun.took f) ∧
      (s.ctl.life = .joining → s.pool.held = none → t.builder = s.builder ∧ t.channels = s.channels ∧
        t.ctl = { s.ctl with joinWait := if s.ctl.joinWait < 4 then s.ctl.joinWait + 1 else 4
                             silence := some (s.now + dt + s.listenSpan) } ∧ t.clock.timer = s.clock.timer ∧
        ∃ m : State, AtImpliedMark s m (s.clock.cur + 1) f ∧ FoldedFrom m t ∧ t.pool.held = none ∧
          t.window = (m.windowMark false).window.took f) ∧
      (∀ h : HeldSnapshot, s.ctl.life = .joining → s.pool.held = some h →
        ∃ m : State, AtImpliedMark s m (s.clock.cur + 1) f ∧
          (m.joinInstall = true → JoinerInstalled s m t h (s.clock.cur + 1) false ∧
            t.window = ((m.windowMark true).install h).window.took f ∧
            (s.line.queue.length < 8 → ∃ q ∈ t.line.queue, q.key = .resend s.clock.cur)) ∧
          (m.joinInstall = false → JoinerStays s m t ∧ t.window = (m.windowMark false).window.took f)) ∧
      t.port.reply = s.port.reply

/-- A RESEND whose report epoch is cur is taken with an implied mark and the slot-phase end that follows it at once: the
origin lies 10,240 bit times back and the open window runs (R16). The blocks take their mark responses as for an accepted
MARK, the comparison standing before them (R16, R24, R50, R54, R64, R71, R81, R90, R99, R144, R155), and then the slot-phase
end, which leaves the balances, the history and the gaps as the mark left them. Whichever of the frame and the slot-phase end
comes first, the record of cur has heard the sender, and its entry is PRESENT with miss count 0 (R43,
notes/assumptions/6.md); in RUN the own report waits as a RESEND (R57). A joiner whose held snapshot passes its test
installs it and enters RUN (R99, R132); with none, or one that fails and is discarded, it stays in JOINING, where the join
wait count rises and the silence timer is reloaded (R127, R130), unless its third JOIN is unanswered: then the slot-phase
end mutes it with cause JOIN (R129), before or after the frame is taken (notes/assumptions/6.md). At which mark the wait
count rises beside a falling hold-back count: notes/assumptions/24.md. -/
def Obligations.ResendImpliesMark : Prop :=
  ∀ (s : State) (dt : Nat) (f : ReportFrame), Ready s → s.canReceive = true → f.wf = true →
    f.deltas.length = s.ctl.profile.pools → (s.ctl.life = .run ∨ s.ctl.life = .joining) → s.ctl.leave ≠ .leaving →
    f.sender ≠ s.own → f.epoch = s.clock.cur →
    let givesUp := s.ctl.joinAttempts = 3 ∧ 3 ≤ s.ctl.joinWait
    ∃ t, exec (.resendReceived dt f) s = .next t ∧ t.now = s.now + dt ∧
      t.clock.cur = s.clock.cur + 1 ∧ t.clock.pacing = s.clock.pacing ∧ t.clock.pending = false ∧
      t.clock.origin = some (s.now + dt - s.bits 10240) ∧ t.clock.slotCount = 32 ∧
      (t.ctl.life ≠ .mute → t.clock.slotTimer = .window ∧
        (∃ r, t.window.records.head? = some r ∧ r.epoch = s.clock.cur ∧ r.heard = mapOf f.sender ∧
          r.sums = f.deltas.map (fun d => d.signExtend 32) ∧ r.applied = []) ∧
        (t.entry f.sender).state = .present ∧ (t.entry f.sender).miss = 0) ∧
      CountedAtMark s t (s.clock.cur + 1) ∧
      (s.ctl.life = .run → t.ctl.life = .run ∧
        t.clock.timer = .running (s.now + dt + s.period + s.bits (64 * (s.own.val : Int))) ∧
        ImpliedInRun s t (s.clock.cur + 1) f ∧
        ∃ m u : State, AtImpliedMark s m (s.clock.cur + 1) f ∧ PoolAtMark m u ∧ t.window = m.windowInRun.took f ∧
          t.pool.table = u.pool.table ∧ t.pool.foldPoint = u.pool.foldPoint ∧ t.pool.history = u.pool.history ∧
          t.pool.gaps = u.pool.gaps ∧ t.pool.holdBack = u.pool.holdBack ∧ t.adjust = u.adjust ∧
          (t.roster.reference ≠ some s.own → t.pool.clean = u.pool.clean ∧ t.pool.held = u.pool.held ∧
            (u.pool.agreement = .agreed → t.pool.agreement = .agreed))) ∧
      (s.ctl.life = .joining → ∃ m : State, AtImpliedMark s m (s.clock.cur + 1) f ∧
        (∀ h : HeldSnapshot, s.pool.held = some h → m.joinInstall = true →
          JoinerEnters s t (s.clock.cur + 1) false ∧
          t.pool = { ((m.windowMark true).install h).pool with uncleanSelf := 0 } ∧
          t.adjust.queue = (m.windowMark true).adjust.queue ∧
          t.window = ((m.windowMark true).install h).window.took f ∧
          (s.line.queue.length < 8 → ∃ q ∈ t.line.queue, q.key = .resend s.clock.cur)) ∧
        (m.joinInstall = false → ¬givesUp → JoinerStays s m t ∧ (s.pool.held = none → FoldedFrom m t) ∧
          t.window = (m.windowMark false).window.took f) ∧
        (m.joinInstall = false → givesUp → JoinerGivesUp s m t f)) ∧
      t.port.reply = s.port.reply

/-- A REQUEST of another station. In RUN its pairs enter the asked set, each once and in their order, as far as the 32 places
go (R75); each pair with this station's number whose epoch the outbox holds is offered as a RESEND (R59); and a station that
is the target and AGREED offers a SNAPSHOT, while one that is not the target or not AGREED offers none (R96). Nothing else
enters the send queue, what stands in it stays, and a full queue takes nothing (R32). Outside RUN, in JOINING as well, it is
only heard (R59, R63, R75, R96). Which offer finds room in a nearly full queue follows the model's order, RESENDs first,
notes/assumptions/42.md. The queue's taken mark is the model's, notes/assumptions/19.md. -/
def Obligations.RequestsAreAnswered : Prop :=
  (∀ asked pairs : List Pair,
    ∃ new : List Pair, addAsked asked pairs = asked ++ new ∧ new.Nodup ∧ (∀ p ∈ new, p ∈ pairs ∧ p ∉ asked) ∧
      (asked.length ≤ 32 → (addAsked asked pairs).length ≤ 32) ∧
      ((addAsked asked pairs).length < 32 → ∀ p ∈ pairs, p ∈ addAsked asked pairs)) ∧
  ∀ (s : State) (dt : Nat) (f : RequestFrame), Ready s → s.canReceive = true → f.wf = true → f.sender ≠ s.own →
    let answers := fun (key : QKey) =>
      (∃ p ∈ f.pairs, p.station = stationByte s.own ∧ (∃ e ∈ s.builder.outbox, e.epoch = p.epoch) ∧
        key = .resend p.epoch) ∨
      (key = .snapshot ∧ f.target = some (stationByte s.own) ∧ s.pool.agreement = .agreed)
    (s.ctl.life = .run → ∃ t, exec (.requestReceived dt f) s = .next t ∧ t.now = s.now + dt ∧
      t.window = { s.window with asked := addAsked s.window.asked f.pairs } ∧
      t.line = { (s.heard dt).line with queue := t.line.queue } ∧
      (∀ q ∈ s.line.queue, q ∈ t.line.queue) ∧
      (∀ q ∈ t.line.queue, q ∈ s.line.queue ∨
        (q = { key := q.key, target := none, pairs := none } ∧ answers q.key)) ∧
      (8 ≤ s.line.queue.length → t.line.queue = s.line.queue) ∧
      (s.line.queue.length + f.pairs.length < 8 → ∀ key : QKey, answers key → ∃ q ∈ t.line.queue, q.key = key) ∧
      t.clock = s.clock ∧ t.roster = s.roster ∧ t.builder = s.builder ∧ t.pool = s.pool ∧ t.adjust = s.adjust ∧
      t.ctl = s.ctl ∧ t.channels = s.channels ∧ t.drives = s.drives ∧ t.port = s.port) ∧
    (s.ctl.life ≠ .run → exec (.requestReceived dt f) s = .next (s.heard dt))

/-- A SNAPSHOT is installable when it carries the digest of its fold point and balances, its fold point + 1 is at or ahead of
the oldest record held, and its fold point is at or behind cur − F. It is taken in JOINING, and in RUN while RESYNCING,
if it is installable and not older than one held; else nothing changes but the line (R98). The queue's taken mark is the
model's, notes/assumptions/19.md. -/
def Obligations.SnapshotsAreHeld : Prop :=
  (∀ (s : State) (f : SnapshotFrame), s.installable f = true ↔
    f.digest = balanceDigest f.point f.balances ∧
    (∃ r : Record, s.window.records.getLast? = some r ∧ (f.point + 1 - r.epoch).toNat ≤ 32767) ∧
    (f.point = s.clock.cur - BitVec.ofNat 16 s.ctl.profile.foldLag ∨
      32768 ≤ (f.point - (s.clock.cur - BitVec.ofNat 16 s.ctl.profile.foldLag)).toNat)) ∧
  ∀ (s : State) (dt : Nat) (f : SnapshotFrame), Ready s → s.canReceive = true → f.wf = true →
    f.balances.length = s.ctl.profile.pools → f.sender ≠ s.own →
    ((s.ctl.life = .joining ∨ (s.ctl.life = .run ∧ s.pool.agreement = .resyncing)) → s.installable f = true →
      (∀ h, s.pool.held = some h → atOrAhead f.point h.point = true) →
      exec (.snapshotReceived dt f) s = .next { s.heard dt with pool := { s.pool with
        held := some { point := f.point, balances := f.balances, map := f.map } } }) ∧
    (s.installable f = false ∨ (s.ctl.life = .run ∧ s.pool.agreement ≠ .resyncing) ∨ s.ctl.life = .listen ∨
        (∃ h, s.pool.held = some h ∧ atOrAhead f.point h.point = false) →
      exec (.snapshotReceived dt f) s = .next (s.heard dt))

/-- The fold floor is the epoch after the latest fold point, failing one the oldest record's, and with none held cur (R102).
An adjustment's place in the queue is behind those of an earlier effective epoch, lower originator or lower serial
(R101). An ADJUST of another station is ignored if its pool count or an item does not fit, if the queue holds its
originator and serial, or if a record lists them as applied; within reach it is else queued (R107); one that is too late,
out of reach, or finds the queue full is refused: the clean flag is cleared, AGREED becomes UNCERTAIN, ADJUST_REFUSED is
raised and nothing is queued (R108). The queue's taken mark is the model's, notes/assumptions/19.md. -/
def Obligations.AdjustsAreJudged : Prop :=
  (∀ s : State,
    (∀ f : Epoch, s.pool.foldPoint = some f → s.foldFloor = f + 1) ∧
    (∀ r : Record, s.pool.foldPoint = none → s.window.records.getLast? = some r → s.foldFloor = r.epoch) ∧
    (s.pool.foldPoint = none → s.window.records = [] → s.foldFloor = s.clock.cur)) ∧
  (∀ (q : List Adjustment) (a : Adjustment),
    let before := fun (x : Adjustment) => 32768 ≤ (x.effective - a.effective).toNat ∨ (x.effective = a.effective ∧
      (x.originator < a.originator ∨ (x.originator = a.originator ∧ x.serial.toNat < a.serial.toNat)))
    ∃ front back : List Adjustment, q = front ++ back ∧ insertAdj q a = front ++ a :: back ∧
      (∀ x ∈ front, before x) ∧ (∀ x ∈ back.head?, ¬before x)) ∧
  ∀ (s : State) (dt : Nat) (f : AdjustFrame), Ready s → s.canReceive = true → f.wf = true →
    (s.ctl.life = .joining ∨ s.ctl.life = .run) → f.sender ≠ s.own →
    let ignored := f.pools.toNat ≠ s.ctl.profile.pools ∨
      (∃ i ∈ f.items, s.ctl.profile.pools ≤ i.pool.toNat ∨ 1 < i.kind.toNat) ∨
      (∃ a ∈ s.adjust.queue, a.originator = f.sender ∧ a.serial = f.serial) ∨
      (∃ r ∈ s.window.records, ∃ a ∈ r.applied, a.originator = f.sender ∧ a.serial = f.serial)
    let late := behind f.effective s.foldFloor
    let far := ahead f.effective (s.clock.cur + BitVec.ofNat 16 s.ctl.profile.lead + 1)
    let a : Adjustment := ⟨f.sender, f.serial, f.effective, f.items.map RawItem.item⟩
    (ignored → exec (.adjustReceived dt f) s = .next (s.heard dt)) ∧
    (¬ignored → late = false → far = false → s.adjust.queue.length < 4 →
      exec (.adjustReceived dt f) s = .next { s.heard dt with
        adjust := { s.adjust with queue := insertAdj s.adjust.queue a } }) ∧
    (¬ignored → late = true ∨ far = true ∨ 4 ≤ s.adjust.queue.length →
      ∃ t, exec (.adjustReceived dt f) s = .next t ∧ t.now = s.now + dt ∧ t.pool.clean = false ∧
        t.pool.agreement = (if s.pool.agreement = .agreed then .uncertain else s.pool.agreement) ∧
        t.adjust = s.adjust ∧ t.pool.table = s.pool.table ∧
        Reported t { kind := .adjustRefused, epoch := s.clock.cur, subject := some f.sender
                     value := ((if late then 1#8 else if far then 2#8 else 3#8) ++ f.serial : BitVec 16) } ∧
        t.line.queue = s.line.queue ∧ t.clock = s.clock ∧ t.roster = s.roster ∧ t.builder = s.builder ∧
        t.window = s.window ∧ t.ctl = s.ctl ∧ t.channels = s.channels ∧ t.port.reply = s.port.reply)

/-- A JOIN of another number moves its entry as R39 gives, and a station in RUN that is AGREED and its own reference
answers a matching one with a SNAPSHOT (R39, R96, R128). -/
def Obligations.JoinsAreHeard : Prop :=
  ∀ (s : State) (dt : Nat) (f : JoinFrame), Ready s → s.canReceive = true → f.sender ≠ s.own →
    ∃ t, exec (.joinReceived dt f) s = .next t ∧ t.now = s.now + dt ∧
      ((s.entry f.sender).state = .absent → t.entry f.sender = { s.entry f.sender with
        state := .joining, firstHeard := some s.clock.cur, lastJoin := some s.clock.cur }) ∧
      ((s.entry f.sender).state = .gone → t.entry f.sender = { s.entry f.sender with
        state := .joining, lastJoin := some s.clock.cur, miss := 0 }) ∧
      ((s.entry f.sender).state = .joining →
        t.entry f.sender = { s.entry f.sender with lastJoin := some s.clock.cur }) ∧
      ((s.entry f.sender).state = .present ∨ (s.entry f.sender).state = .missing →
        t.entry f.sender = s.entry f.sender) ∧
      (∀ n : Station, n ≠ f.sender → t.entry n = s.entry n) ∧
      (s.ctl.life = .run → s.ctl.digest = some f.digest → s.roster.reference = some s.own →
        s.pool.agreement = .agreed → s.line.queue.length < 8 → ∃ q ∈ t.line.queue, q.key = .snapshot) ∧
      (s.roster.reference ≠ some s.own → t.line.queue = s.line.queue) ∧
      t.clock = s.clock ∧ t.builder = s.builder ∧ t.window = s.window ∧ t.pool = s.pool ∧ t.adjust = s.adjust ∧
      t.ctl = s.ctl ∧ t.channels = s.channels ∧ t.drives = s.drives ∧ t.port.reply = s.port.reply

/-- A LEAVE of another number makes its entry ABSENT, and takes the number out of the expected set of every record that is
not FOLDED and has not heard it; a COLLECTING record that thereby has heard all it expects is SETTLED (R40, R70). -/
def Obligations.LeavesAreHeard : Prop :=
  ∀ (s : State) (dt : Nat) (f : LeaveFrame), Ready s → s.canReceive = true → f.sender ≠ s.own →
    ∃ t, exec (.leaveReceived dt f) s = .next t ∧ t.now = s.now + dt ∧ t.entry f.sender = RosterEntry.blank ∧
      (∀ n : Station, n ≠ f.sender → t.entry n = s.entry n) ∧
      t.window.records = s.window.records.map (fun r =>
        if r.state = .folded ∨ mapHas r.heard f.sender then r
        else { r with
          expected := r.expected &&& ~~~(1#32 <<< f.sender.val)
          state := if r.state = .collecting ∧ r.heard = r.expected &&& ~~~(1#32 <<< f.sender.val) then .settled
            else r.state }) ∧
      t.window.asked = s.window.asked ∧ t.pool = s.pool ∧ t.clock = s.clock ∧ t.builder = s.builder ∧
      t.adjust = s.adjust ∧ t.ctl = s.ctl ∧ t.channels = s.channels ∧ t.drives = s.drives ∧
      t.roster.reference = s.roster.reference ∧ t.line.queue = s.line.queue ∧ t.port.reply = s.port.reply

/-- A good frame with this station's own number. With its overlap indication clear it counts one identity conflict: the
conflict count rises, the conflict-free mark count becomes 0, and an IDENTITY_CONFLICT event names this station and the new
count; the third mutes with cause IDENTITY (R49, R50). A REPORT, RESEND, ADJUST or LEAVE does nothing else, and no kind
moves a roster entry. A MARK is counted as well as taken by the epoch clock, and one taken at the eighth conflict-free mark
leaves the count at 1 where the mark comes first (R50). With the overlap indication set the frame is not counted (R49).
Which of conflict and mark comes first is free, notes/assumptions/6.md; in LISTEN the conflict comes before the present map
is examined, notes/assumptions/39.md. That an own-number REQUEST or JOIN is still answered: notes/assumptions/22.md; that an
own-number report is not compared: notes/assumptions/23.md. The epoch clock handles it by the table for any MARK (R11): cur
+ 1 is accepted, by a joiner with a held snapshot too, which enters RUN or stays (R99, R132); cur is ignored, and any other
epoch a discontinuity or, this number being above the pacing station's, foreign; a mismatched one is ignored with its event,
during founding probation as well (R10). A matching one during probation FounderOnProbation has, and one in stage LEAVING
StationsDepart. The queue's taken mark is the model's, notes/assumptions/19.md. -/
def Obligations.OwnNumbersAreConflicts : Prop :=
  (∀ (s : State) (dt : Nat) (f : Frame), Ready s → s.canReceive = true → f.sender = s.own →
    f.good s.ctl.profile.pools = true → (∀ m : MarkFrame, f ≠ .mark m) →
    let counted : State := { s.heard dt with
      roster := { s.roster with conflicts := s.roster.conflicts + 1, conflictFree := 0 } }
    let event : Event := { kind := .identityConflict, epoch := s.clock.cur, subject := some s.own
                           value := BitVec.ofNat 16 (s.roster.conflicts + 1) }
    let alone := (∀ r : RequestFrame, f ≠ .request r) ∧ (∀ r : SnapshotFrame, f ≠ .snapshot r) ∧
      (∀ r : JoinFrame, f ≠ .join r)
    (s.line.overlap = true → ∃ t, exec (f.received dt) s = .next t ∧ t.roster = s.roster ∧ t.port = s.port ∧
      t.ctl = s.ctl ∧ (alone → t = s.heard dt)) ∧
    (s.line.overlap = false → s.roster.conflicts < 2 → ∃ t, exec (f.received dt) s = .next t ∧
      t.roster = counted.roster ∧ t.port = s.port.took event ∧ t.ctl = s.ctl ∧
      (alone → t = { counted with port := s.port.took event })) ∧
    (s.line.overlap = false → 2 ≤ s.roster.conflicts → ∃ t, exec (f.received dt) s = .next t ∧
      t.now = s.now + dt ∧ FrozenFrom counted t .mute .identity ∧ Reported t event)) ∧
  ∀ (s : State) (dt : Nat) (f : MarkFrame), Ready s → s.canReceive = true → f.sender = s.own →
    (s.clock.probation = 0 ∨ s.ctl.digest ≠ some f.digest) → s.ctl.leave ≠ .leaving →
    let taken := s.ctl.digest = some f.digest ∧ (s.line.overlap = true ∨ s.roster.conflicts < 2)
    let next := taken ∧ f.epoch = s.clock.cur + 1
    let unexpected := taken ∧ f.epoch ≠ s.clock.cur ∧ f.epoch ≠ s.clock.cur + 1 ∧
      ∃ p : Station, s.clock.pacing = some p ∧ s.own ≤ p
    let foreign := taken ∧ f.epoch ≠ s.clock.cur ∧ f.epoch ≠ s.clock.cur + 1 ∧
      ∃ p : Station, s.clock.pacing = some p ∧ p < s.own
    let counts := if s.line.overlap then s.roster
      else { s.roster with conflicts := s.roster.conflicts + 1, conflictFree := 0 }
    let quiet := fun (t : State) => t = { s.heard dt with roster := counts, port := t.port, free := t.free }
    ∃ t, exec (.markReceived dt f) s = .next t ∧ t.now = s.now + dt ∧ t.roster.entries = s.roster.entries ∧
      (s.line.overlap = true → (s.roster.conflicts = 0 ∨ s.roster.conflictFree < 7) →
        t.roster.conflicts = s.roster.conflicts) ∧
      (s.line.overlap = false → (s.roster.conflicts = 0 ∨ s.roster.conflictFree < 7) →
        t.roster.conflicts = s.roster.conflicts + 1 ∧ t.roster.conflictFree ≤ 1 ∧
        (2 ≤ s.roster.conflicts → t.ctl.life = .mute ∧ t.ctl.cause = .identity ∧ t.drives.fault = true) ∧
        ∃ e : Epoch, (e = s.clock.cur ∨ e = f.epoch) ∧
          Reported t { kind := .identityConflict, epoch := e, subject := some s.own
                       value := BitVec.ofNat 16 (s.roster.conflicts + 1) }) ∧
      (s.line.overlap = false → s.roster.conflicts < 2 → s.ctl.life = .listen →
        s.ctl.digest = some f.digest → mapHas f.map s.own = true → t.ctl.life = .mute ∧ t.ctl.cause = .identity) ∧
      (s.line.overlap = false → 0 < s.roster.conflicts → 7 ≤ s.roster.conflictFree → s.ctl.digest = some f.digest →
        f.epoch = s.clock.cur + 1 → s.ctl.life = .run ∨ s.ctl.life = .joining →
        (t.roster.conflicts = 1 ∧ t.roster.conflictFree = 0) ∨ t.roster.conflicts = s.roster.conflicts + 1) ∧
      (s.ctl.digest ≠ some f.digest → s.line.overlap = true ∨ s.roster.conflicts < 2 → Reported t
        { kind := .profileConflict, epoch := s.clock.cur, subject := some f.sender, value := f.digest }) ∧
      (s.ctl.digest ≠ some f.digest → (s.ctl.life = .run ∨ s.ctl.life = .joining) →
        s.line.overlap = true ∨ s.roster.conflicts < 2 → quiet t) ∧
      (s.ctl.life = .run ∨ s.ctl.life = .joining → (taken ∧ f.epoch = s.clock.cur → quiet t) ∧
        (foreign → quiet t ∧ Reported t
          { kind := .foreignMark, epoch := s.clock.cur, subject := some f.sender, value := f.epoch }) ∧
        (next ∨ unexpected → t.clock = s.clockTook f.epoch s.own (s.now + dt) t.ctl.life)) ∧
      (∃ a b : Nat,
        (s.ctl.life = .run → (next → MarkedInRun s (t.withConflicts a b) (s.clock.cur + 1)) ∧
          (unexpected → DiscontinuedInRun s (t.withConflicts a b) f)) ∧
        (s.ctl.life = .joining → (next → s.pool.held = none → MarkedInJoining s (t.withConflicts a b) (s.clock.cur + 1)) ∧
          (next → ∀ h : HeldSnapshot, s.pool.held = some h → ∃ m : State, AtMark s m (s.clock.cur + 1) ∧
            (m.joinInstall = true → JoinerInstalled s m (t.withConflicts a b) h (s.clock.cur + 1) true) ∧
            (m.joinInstall = false → JoinerStays s m (t.withConflicts a b))) ∧
          (unexpected → DiscontinuedInJoining s (t.withConflicts a b) f))) ∧
      (s.ctl.life = .listen → taken → t.clock.cur = f.epoch ∧ t.clock.pacing = some s.own ∧
        t.clock.origin = some (s.now + dt) ∧ (mapHas f.map s.own = false → t.ctl.matching = s.ctl.matching + 1))

/-! ### Channels -/

/-- The input filters. A filtered level is to change exactly while its pin stands at the other level, at the end of one
filter width from the instant the pin took that level (R138, R139); so a pin that goes back earlier changes nothing. The
width is the default, 2 µs, until the profile is frozen, and the profile's from then on (R152, R153, R170); that it acts
at once on pins as they stand is the model's choice, notes/assumptions/15.md. With no command waiting, a pin's change
that comes before any filtered change that is due moves the pin alone, and a filtered change that comes first takes place
at its instant and moves its level to the pin's, a CNT rise with the effect of FILTERED_CNT_RISE and a GATE edge with
that of its own row; the other levels stand (R139, R141, R146, R147). That pins change over wires, between commands:
notes/assumptions/4.md; which of two changes due at one instant is first is free, notes/assumptions/5.md. -/
def Obligations.FiltersFollowPins : Prop :=
  (∀ (s : State) (i : Fin 4) (x : InputPin),
    (∀ c : FilterChange, s.ctl.inReset = false → c.ch = i → c.pin = x →
      (c ∈ s.filterChanges ↔ (s.pin i x).high ≠ (s.channels.get i).level x ∧
        c.due = (s.pin i x).since + 500 * ((if s.ctl.frozen then (s.ctl.profile.channels.get i).width else 4 : Nat) : Int))) ∧
    (s.ctl.inReset = true → s.filterChanges = [])) ∧
  (∀ (s : State) (dt : Nat) (i : Fin 4) (x : InputPin) (high : Bool) (rest : List WireChange), Ready s →
    s.pending = [] → s.wires = { dt := dt, wire := .input i x high } :: rest →
    (∀ c ∈ s.filterChanges, s.now + dt < c.due) → (∀ x : Instant, s.nextSample = some x → s.now + dt < x) →
    ∃ t, step s = .next t ∧ t = { s.later dt with wires := rest, inputs := t.inputs } ∧
      t.pin i x = (if (s.pin i x).high = high then s.pin i x else { high := high, since := s.now + dt }) ∧
      (∀ (j : Fin 4) (y : InputPin), (j ≠ i ∨ y ≠ x) → t.pin j y = s.pin j y) ∧
      t.inputs.cs = s.inputs.cs ∧ t.inputs.sck = s.inputs.sck ∧ t.inputs.sdi = s.inputs.sdi ∧
      t.inputs.tally = s.inputs.tally) ∧
  (∀ (s : State) (d : FilterChange), Ready s → s.pending = [] → d ∈ s.filterChanges →
    (∀ w ∈ s.wires.head?, d.due < s.now + w.dt) → (∀ x : Instant, s.nextSample = some x → d.due < x) →
    ∃ c ∈ s.filterChanges, (∀ d' ∈ s.filterChanges, c.due ≤ d'.due) ∧
      ∃ t, step s = .next t ∧ t.now = s.due c.due ∧
        (t.channels.get c.ch).level c.pin = (s.pin c.ch c.pin).high ∧
        (∀ (j : Fin 4) (y : InputPin), (j ≠ c.ch ∨ y ≠ c.pin) →
          (t.channels.get j).level y = (s.channels.get j).level y) ∧
        (∀ (n : Nat) (row : Instr), s.due c.due = s.now + n →
          (c.pin = .cnt ∧ (s.pin c.ch c.pin).high = true ∧ row = .filteredCntRise n c.ch) ∨
          (c.pin = .dir ∧ row = .filteredDirChange n c.ch) ∨
          (c.pin = .gate ∧ (s.pin c.ch c.pin).high = true ∧ row = .filteredGateRise n c.ch) ∨
          (c.pin = .gate ∧ (s.pin c.ch c.pin).high = false ∧ row = .filteredGateFall n c.ch) →
          ∃ u, exec row s = .next u ∧ t.channels = u.channels ∧ t.port = u.port) ∧
        (c.pin = .cnt → (s.pin c.ch c.pin).high = false → t.port = s.port ∧
          t.channels = s.channels.set c.ch { s.channels.get c.ch with cntHigh := false }) ∧
        t.inputs = s.inputs ∧ t.wires.length = s.wires.length ∧ t.clock = s.clock ∧ t.line = s.line ∧
        t.roster = s.roster ∧ t.builder = s.builder ∧ t.window = s.window ∧ t.pool = s.pool ∧ t.adjust = s.adjust ∧
        t.ctl = s.ctl ∧ t.drives = s.drives)

/-- A filtered CNT rise is taken when none was before or at least 5 µs have passed, and then sets the last rise instant
whether or not it makes a count; one that is not taken changes only the filtered level (R140, R152). A rise that makes a
count moves the accumulator unless it stands at its limit, the lifetime count, and in gate use USE the batch count; a
rise in mode OFF or with the gate closed moves none of them (R141, R142, R143, R146). That the pin then stands at the
level is the model's choice, notes/assumptions/15.md; that a rise given while the level stands high is one,
notes/assumptions/16.md. -/
def Obligations.RisesAreCounted : Prop :=
  (∀ i : Fin 4, (State.reset.channels.get i).lastRise = none) ∧
  (∀ (s : State) (dt : Nat) (i : Fin 4), Ready s →
    let risen : State := { (s.later dt).sawPin i .cnt true with
      channels := s.channels.set i { s.channels.get i with cntHigh := true } }
    (∀ x : Instant, (s.channels.get i).lastRise = some x → s.now + dt < x + 5000 →
      exec (.filteredCntRise dt i) s = .next risen) ∧
    (s.ctl.life = .config → exec (.filteredCntRise dt i) s = .next risen) ∧
    (s.ctl.life ≠ .config → (∀ x : Instant, (s.channels.get i).lastRise = some x → x + 5000 ≤ s.now + dt) →
      ∃ t, exec (.filteredCntRise dt i) s = .next t ∧ (t.channels.get i).lastRise = some (s.now + dt))) ∧
  ∀ (s : State) (dt : Nat) (i : Fin 4), Ready s → s.ctl.life ≠ .config →
    (∀ x : Instant, (s.channels.get i).lastRise = some x → x + 5000 ≤ s.now + dt) →
    let c := s.channels.get i
    let cfg := s.ctl.profile.channels.get i
    let down := cfg.mode = .pulseDir ∧ c.dirHigh = true
    ∃ t, exec (.filteredCntRise dt i) s = .next t ∧ t.now = s.now + dt ∧
      (cfg.mode ≠ .off → (cfg.gateUse = true → c.gateHigh = true) →
        (t.channels.get i).lifetime = c.lifetime + 1 ∧
        (¬down → c.acc ≠ 2147483647#32 → (t.channels.get i).acc = c.acc + 1 ∧ (t.channels.get i).accSat = c.accSat) ∧
        (down → c.acc ≠ -2147483647#32 → (t.channels.get i).acc = c.acc - 1 ∧ (t.channels.get i).accSat = c.accSat) ∧
        (¬down → c.acc = 2147483647#32 → (t.channels.get i).acc = c.acc ∧ (t.channels.get i).accSat = true ∧
          (c.accSat = false → t.port = s.port.took
            { kind := .accOverflow, epoch := s.clock.cur, subject := some (i.castLE (by decide)), value := 1 })) ∧
        (down → c.acc = -2147483647#32 → (t.channels.get i).acc = c.acc ∧ (t.channels.get i).accSat = true ∧
          (c.accSat = false → t.port = s.port.took
            { kind := .accOverflow, epoch := s.clock.cur, subject := some (i.castLE (by decide)), value := 0 })) ∧
        (cfg.gateUse = true → ¬down → c.batch = 0x7FFFFFFF#32 → (t.channels.get i).batch = c.batch) ∧
        (cfg.gateUse = true → down → c.batch = 0x80000000#32 → (t.channels.get i).batch = c.batch) ∧
        (cfg.gateUse = false → (t.channels.get i).batch = c.batch) ∧
        (cfg.gateUse = true → ¬down → c.batch ≠ 0x7FFFFFFF#32 → (t.channels.get i).batch = c.batch + 1) ∧
        (cfg.gateUse = true → down → c.batch ≠ 0x80000000#32 → (t.channels.get i).batch = c.batch - 1)) ∧
      (cfg.mode = .off ∨ (cfg.gateUse = true ∧ c.gateHigh = false) →
        t.channels.get i = { c with cntHigh := true, lastRise := some (s.now + dt) } ∧ t.port = s.port) ∧
      (∀ j : Fin 4, j ≠ i → t.channels.get j = s.channels.get j) ∧
      (t.channels.get i).holder = c.holder ∧ t.inputs = ((s.later dt).sawPin i .cnt true).inputs ∧
      t.clock = s.clock ∧ t.line = s.line ∧ t.roster = s.roster ∧ t.builder = s.builder ∧ t.window = s.window ∧
      t.pool = s.pool ∧ t.adjust = s.adjust ∧ t.ctl = s.ctl ∧ t.drives = s.drives

/-- DIR and GATE edges: DIR turns over; a GATE rise opens a batch at 0, and a GATE fall captures it into the holder with a
BATCH event, where gate use is USE, the mode is not OFF and the station is outside CONFIG; else only the level moves
(R139, R141, R146, R147, R152). That the pin then stands at the level: notes/assumptions/15.md. -/
def Obligations.GateEdges : Prop :=
  ∀ (s : State) (dt : Nat) (i : Fin 4), Ready s →
    let c := s.channels.get i
    let acts := s.ctl.life ≠ .config ∧ (s.ctl.profile.channels.get i).gateUse = true ∧
      (s.ctl.profile.channels.get i).mode ≠ .off
    exec (.filteredDirChange dt i) s = .next { (s.later dt).sawPin i .dir (!c.dirHigh) with
      channels := s.channels.set i { c with dirHigh := !c.dirHigh } } ∧
    (c.gateHigh = false → acts → exec (.filteredGateRise dt i) s = .next { (s.later dt).sawPin i .gate true with
      channels := s.channels.set i { c with gateHigh := true, batch := 0 } }) ∧
    (c.gateHigh = false → ¬acts → exec (.filteredGateRise dt i) s = .next { (s.later dt).sawPin i .gate true with
      channels := s.channels.set i { c with gateHigh := true } }) ∧
    (c.gateHigh = true → acts → exec (.filteredGateFall dt i) s = .next { (s.later dt).sawPin i .gate false with
      channels := s.channels.set i { c with
        gateHigh := false
        holder := { value := c.batch, new := true, overwritten := c.holder.overwritten || c.holder.new } }
      port := s.port.took { kind := .batch, epoch := s.clock.cur, subject := some (i.castLE (by decide))
                            value := batchValue c.batch (c.holder.overwritten || c.holder.new) } }) ∧
    (c.gateHigh = true → ¬acts → exec (.filteredGateFall dt i) s = .next { (s.later dt).sawPin i .gate false with
      channels := s.channels.set i { c with gateHigh := false } })

/-! ### Drives -/

/-- One evaluation moves the rule state by the table of R156, and a dwell of d takes d + 1 consecutive evaluations. -/
def Obligations.DriveRuleMoves : Prop :=
  (∀ (cfg : DriveCfg) (b : Int),
    (cfg.high.toInt ≤ b → RuleState.next cfg b .off = if cfg.riseDwell = 0 then .on else .arming cfg.riseDwell) ∧
    (b < cfg.high.toInt → RuleState.next cfg b .off = .off) ∧
    (∀ n : Nat, 1 ≤ n → cfg.high.toInt ≤ b →
      RuleState.next cfg b (.arming n) = if n = 1 then .on else .arming (n - 1)) ∧
    (∀ n : Nat, b < cfg.high.toInt → RuleState.next cfg b (.arming n) = .off) ∧
    (b ≤ cfg.low.toInt → RuleState.next cfg b .on = if cfg.fallDwell = 0 then .off else .disarming cfg.fallDwell) ∧
    (cfg.low.toInt < b → RuleState.next cfg b .on = .on) ∧
    (∀ n : Nat, 1 ≤ n → b ≤ cfg.low.toInt →
      RuleState.next cfg b (.disarming n) = if n = 1 then .off else .disarming (n - 1)) ∧
    (∀ n : Nat, cfg.low.toInt < b → RuleState.next cfg b (.disarming n) = .on)) ∧
  (∀ (cfg : DriveCfg) (bs : List Int), (∀ b ∈ bs, cfg.high.toInt ≤ b) →
    (bs.length = cfg.riseDwell + 1 → bs.foldl (fun r b => RuleState.next cfg b r) .off = .on) ∧
    (bs.length ≤ cfg.riseDwell → bs.foldl (fun r b => RuleState.next cfg b r) .off ≠ .on)) ∧
  (∀ (s : State) (i : Fin 4),
    (∀ p : Fin 8, (s.ctl.profile.drives.get i).pool = some p →
      (s.evaluateDrives.drives.drives.get i).rule = RuleState.next (s.ctl.profile.drives.get i)
        (s.pool.table.get p).balance.toInt (s.drives.drives.get i).rule) ∧
    ((s.ctl.profile.drives.get i).pool = none → s.evaluateDrives.drives.drives.get i = s.drives.drives.get i)) ∧
  (∀ (cfg : DriveCfg) (bs : List Int), (∀ b ∈ bs, b ≤ cfg.low.toInt) →
    (bs.length = cfg.fallDwell + 1 → bs.foldl (fun r b => RuleState.next cfg b r) .on = .off) ∧
    (bs.length ≤ cfg.fallDwell → bs.foldl (fun r b => RuleState.next cfg b r) .on ≠ .off))

/-- The rows of R158 in their order, each with the level it gives, in the terms of the rule: low in CONFIG and while
disabled, the forced level, the rule's level while AGREED, and else the uncertain action's, HOLD giving the held level
(R158, R159). The held level is set on passing from another row to the uncertain action, to the pin's level just before,
and to inactive on leaving CONFIG; else it stands (R159). Finding every drive afresh raises one DRIVE event for each pin
whose level changes, and no other, with the new level and its row (R161, R189, R190). -/
def Obligations.DrivePinsFollowTable : Prop :=
  (∀ (life : Life) (ag : Agreement) (cfg : DriveCfg) (d : Drive) (held : Bool),
    let row := pinRow life ag cfg d.mode
    let level := pinLevel row cfg d held
    (life = .config → row = .config ∧ level = false) ∧
    (life ≠ .config → cfg.pool = none → row = .disabled ∧ level = false) ∧
    (life ≠ .config → cfg.pool ≠ none →
      (d.mode = .forceOn → row = .forced ∧ level = cfg.activeHigh) ∧
      (d.mode = .forceOff → row = .forced ∧ level = !cfg.activeHigh) ∧
      (d.mode = .auto → ag = .agreed → row = .rule ∧
        (d.rule = .on ∨ (∃ n : Nat, d.rule = .disarming n) → level = cfg.activeHigh) ∧
        (d.rule = .off ∨ (∃ n : Nat, d.rule = .arming n) → level = !cfg.activeHigh)) ∧
      (d.mode = .auto → ag ≠ .agreed → row = .uncertain ∧
        (cfg.action = .assert → level = cfg.activeHigh) ∧ (cfg.action = .release → level = !cfg.activeHigh) ∧
        (cfg.action = .hold → held = true → level = cfg.activeHigh) ∧
        (cfg.action = .hold → held = false → level = !cfg.activeHigh)))) ∧
  (PinRow.config.code = 0 ∧ PinRow.disabled.code = 1 ∧ PinRow.forced.code = 2 ∧ PinRow.rule.code = 3 ∧
    PinRow.uncertain.code = 4) ∧
  (∀ (d : Drive) (cfg : DriveCfg) (life : Life) (ag : Agreement),
    let n := d.refreshed cfg life ag
    n.rule = d.rule ∧ n.mode = d.mode ∧ n.row = pinRow life ag cfg d.mode ∧ n.pin = pinLevel n.row cfg d n.held ∧
    (n.row = .uncertain → d.row = .config → n.held = false) ∧
    (n.row = .uncertain → d.row ≠ .config → d.row ≠ .uncertain → n.held = (d.pin == cfg.activeHigh)) ∧
    (n.row ≠ .uncertain ∨ d.row = .uncertain → n.held = d.held)) ∧
  (∀ s : State,
    let t := s.refreshDrives
    let event := fun (i : Fin 4) =>
      (Block.drive, driveEvent s.clock.cur i (s.ctl.profile.drives.get i) (t.drives.drives.get i))
    (∀ i : Fin 4, t.drives.drives.get i =
      (s.drives.drives.get i).refreshed (s.ctl.profile.drives.get i) s.ctl.life s.pool.agreement) ∧
    (∀ i : Fin 4, (t.drives.drives.get i).pin ≠ (s.drives.drives.get i).pin → event i ∈ t.port.arising) ∧
    (∀ x ∈ t.port.arising, x ∈ s.port.arising ∨
      ∃ i : Fin 4, (t.drives.drives.get i).pin ≠ (s.drives.drives.get i).pin ∧ x = event i) ∧
    t = { s with drives := { s.drives with drives := t.drives.drives }
                 port := { s.port with arising := t.port.arising } })

/-- SET DRIVE sets the runtime mode of a drive in every state and finds its pin afresh; a drive that thereby comes under its
uncertain action from another row outside CONFIG takes its pin's level as the held level, and else the held level stands;
a change of the pin's level, and no other change, raises a DRIVE event; an index above 3 or a mode above 2 is refused and
changes nothing (R157, R158, R159, R161, R189). What level each row gives DrivePinsFollowTable says. -/
def Obligations.SetDriveForces : Prop :=
  ∀ (s : State) (dt : Nat) (index mode : Byte), Ready s →
    ((4 ≤ index.toNat ∨ 3 ≤ mode.toNat) →
      exec (.setDrive dt index mode) s = .next (s.answered dt .badArgument [])) ∧
    (∀ (i : Fin 4) (m : DriveMode), index.toNat = i.val → DriveMode.ofCode mode = some m →
      ∃ t, exec (.setDrive dt index mode) s = .next t ∧ t.now = s.now + dt ∧
        (t.drives.drives.get i).mode = m ∧ (t.drives.drives.get i).rule = (s.drives.drives.get i).rule ∧
        (t.drives.drives.get i).pin = pinLevel (t.drives.drives.get i).row (s.ctl.profile.drives.get i)
          (t.drives.drives.get i) (t.drives.drives.get i).held ∧
        (t.drives.drives.get i).row = pinRow s.ctl.life s.pool.agreement (s.ctl.profile.drives.get i) m ∧
        ((t.drives.drives.get i).row = .uncertain → (s.drives.drives.get i).row ≠ .uncertain →
          (s.drives.drives.get i).row ≠ .config → (t.drives.drives.get i).held =
            ((s.drives.drives.get i).pin == (s.ctl.profile.drives.get i).activeHigh)) ∧
        ((t.drives.drives.get i).row ≠ .uncertain ∨ (s.drives.drives.get i).row = .uncertain →
          (t.drives.drives.get i).held = (s.drives.drives.get i).held) ∧
        ((t.drives.drives.get i).pin ≠ (s.drives.drives.get i).pin →
          Reported t (driveEvent s.clock.cur i (s.ctl.profile.drives.get i) (t.drives.drives.get i))) ∧
        ((t.drives.drives.get i).pin = (s.drives.drives.get i).pin →
          t.port = s.port.answered .done []) ∧
        (∀ j : Fin 4, j ≠ i → t.drives.drives.get j = s.drives.drives.get j) ∧ t.drives.fault = s.drives.fault ∧
        t.port.reply = some { outcome := .done, result := [] } ∧
        t.clock = s.clock ∧ t.line = s.line ∧ t.roster = s.roster ∧ t.builder = s.builder ∧ t.window = s.window ∧
        t.pool = s.pool ∧ t.adjust = s.adjust ∧ t.ctl = s.ctl ∧ t.channels = s.channels)

/-! ### The service port -/

/-- A transaction on CS, SCK and SDI, with no command waiting and no filtered change due. A fall of CS begins it and a rise
ends it, an abandoned one without effect; a rise of SCK clocks in SDI's bit, most significant bit of a byte first, until the
command is taken, and the byte that completes a command has it executed at that instant; a fall of SCK counts on SDO once it
is taken (R172, R173, R174). SDO is released outside a transaction, and carries ones, then from the first fall after the last
argument byte outcome and result, then ones (R172, R185). That levels come over wires, between commands:
notes/assumptions/4.md. -/
def Obligations.TransactionsAreClocked : Prop :=
  (∀ (s : State) (dt : Nat) (w : Wire) (rest : List WireChange), Ready s → s.pending = [] →
    s.wires = { dt := dt, wire := w } :: rest → (∀ c ∈ s.filterChanges, s.now + dt < c.due) →
    (∀ x : Instant, s.nextSample = some x → s.now + dt < x) →
    let t : State := { s.later dt with wires := rest }
    (s.inputs.cs = true → w = .cs false → step s = .next { t with
      inputs := { s.inputs with cs := false }
      port := { s.port with reply := none, txn := some { shift := [], bytes := [], taken := false, falls := 0 } } }) ∧
    (s.inputs.cs = false → w = .cs true → step s = .next { t with
      inputs := { s.inputs with cs := true }, port := { s.port with reply := none, txn := none } }) ∧
    (∀ high : Bool, w = .sdi high → step s = .next { t with inputs := { s.inputs with sdi := high } }) ∧
    (∀ high : Bool, w = .cs high → s.inputs.cs = high → step s = .next t) ∧
    (∀ high : Bool, w = .sck high → (s.port.txn = none ∨ s.inputs.sck = high) →
      step s = .next { t with inputs := { s.inputs with sck := high } }) ∧
    (∀ x : Txn, s.port.txn = some x → w = .sck true → s.inputs.sck = false →
      (x.taken = true → step s = .next { t with inputs := { s.inputs with sck := true } }) ∧
      (x.taken = false → x.shift.length < 7 → step s = .next { t with
        inputs := { s.inputs with sck := true }
        port := { s.port with txn := some { x with shift := x.shift ++ [s.inputs.sdi] } } }) ∧
      (x.taken = false → x.shift.length = 7 →
        let bytes := x.bytes ++ [byteOf (x.shift ++ [s.inputs.sdi])]
        (commandOf bytes = none → step s = .next { t with
          inputs := { s.inputs with sck := true }
          port := { s.port with txn := some { shift := [], bytes := bytes, taken := false, falls := 0 } } }) ∧
        (∀ c : Instr, commandOf bytes = some c → step s = exec c { t with
          inputs := { s.inputs with sck := true }
          port := { s.port with txn := some { shift := [], bytes := bytes, taken := true, falls := 0 } } }))) ∧
    (∀ x : Txn, s.port.txn = some x → w = .sck false → s.inputs.sck = true → step s = .next { t with
      inputs := { s.inputs with sck := false }
      port := { s.port with txn := some { x with falls := if x.taken then x.falls + 1 else x.falls } } })) ∧
  (∀ b : Byte, byteOf [b.getLsbD 7, b.getLsbD 6, b.getLsbD 5, b.getLsbD 4, b.getLsbD 3, b.getLsbD 2, b.getLsbD 1,
    b.getLsbD 0] = b) ∧
  (∀ s : State,
    (s.port.txn = none → s.sdo = none) ∧
    (∀ x : Txn, s.port.txn = some x → (x.taken = false ∨ x.falls = 0) → s.sdo = some true) ∧
    (∀ (x : Txn) (r : Reply) (j k : Nat), s.port.txn = some x → x.taken = true → s.port.reply = some r → k < 8 →
      x.falls = 8 * j + k + 1 → s.sdo = some (((r.outcome.code :: r.result)[j]?.getD 0xFF).getLsbD (7 - k))))

/-- The command that a transaction's bytes spell: code, argument bytes, values most significant byte first, the items of a
post as its count says; none while argument bytes are missing, and a code that names no command is a command without
arguments (R175, R189). That command is answered BAD_ARGUMENT, and an abandoned transaction has no effect (R174, R175). -/
def Obligations.CommandBytesAreRead : Prop :=
  (commandOf [] = none ∧ commandOf [0x01] = some (.status 0) ∧ commandOf [0x05] = some (.readGaps 0) ∧
    commandOf [0x08] = some (.takeEvent 0) ∧ commandOf [0x11] = some (.start 0) ∧
    commandOf [0x14] = some (.leaveCommand 0) ∧ commandOf [0x15] = some (.restart 0)) ∧
  (∀ a : Byte, commandOf [0x02, a] = some (.readPool 0 a) ∧ commandOf [0x03, a] = some (.readRoster 0 a) ∧
    commandOf [0x04, a] = some (.readRecord 0 a) ∧ commandOf [0x06, a] = some (.readChannel 0 a) ∧
    commandOf [0x07, a] = some (.takeBatch 0 a) ∧ commandOf [0x13, a] = none) ∧
  (commandOf [0x02] = none ∧ commandOf [0x03] = none ∧ commandOf [0x04] = none ∧ commandOf [0x06] = none ∧
    commandOf [0x07] = none ∧ commandOf [0x10] = none ∧ commandOf [0x12] = none ∧ commandOf [0x13] = none) ∧
  (∀ a b : Byte, commandOf [0x13, a, b] = some (.setDrive 0 a b)) ∧
  (∀ (n : Byte) (v : BitVec 32), commandOf (0x10 :: n :: bytes32 v) = some (.writeProfile 0 n v)) ∧
  (∀ l : List Byte, l.length < 5 → commandOf (0x10 :: l) = none) ∧
  (∀ (count : Byte) (items : List RawItem), items.length = postedItems count →
    commandOf (0x12 :: count :: items.flatMap RawItem.bytes) = some (.postAdjustment 0 count items)) ∧
  (∀ (count : Byte) (l : List Byte), l.length < 6 * postedItems count → commandOf (0x12 :: count :: l) = none) ∧
  (∀ code : Byte, code ∉ commandCodes → commandOf [code] = some (.unknownCommand 0 code)) ∧
  ∀ (s : State) (dt : Nat), Ready s →
    (∀ code : Byte, code ∉ commandCodes → exec (.unknownCommand dt code) s = .next (s.answered dt .badArgument [])) ∧
    exec (.transactionAbandoned dt) s = .next (s.later dt)

/-- STATUS returns the 14 bytes of R189's layout and clears LOST, and IRQ stays asserted only for events (R176, R184); its
digest bytes without a fold point are 0, the model's choice, notes/assumptions/29.md. TAKE EVENT removes and returns the
oldest entry with the number that remain, or returns EMPTY; it leaves LOST, and IRQ is released with the last entry while
LOST is clear (R183, R184, R190). READ CHANNEL returns accumulator, lifetime count, gate level and ACC_SAT; TAKE BATCH
returns the holder and clears its flags; an index above 3 is refused (R149, R151, R189). READ POOL, READ ROSTER, READ
RECORD and READ GAPS return what R177 to R180 give, in R189's layouts, and change nothing. The digest bytes of a last
report without a fold point are 0, the model's choice, notes/assumptions/29.md. -/
def Obligations.PortReads : Prop :=
  (∀ (s : State) (dt : Nat), Ready s →
     ((s.pool.foldPoint = none → s.statusDigest = 0) ∧
       (∀ h : HistEntry, s.pool.foldPoint ≠ none → s.pool.history.getLast? = some h → s.statusDigest = h.digest)) ∧
     (∃ fl : Byte, fl.getLsbD 0 = s.pool.foldPoint.isSome ∧ fl.getLsbD 1 = s.pool.clean ∧ fl.getLsbD 2 = s.port.lost ∧
       fl.getLsbD 3 = s.ctl.straps.rate ∧ fl.getLsbD 4 = s.ctl.straps.auto ∧ fl.toNat < 32 ∧
       exec (.status dt) s = .next { s.later dt with port := { s.port with
         lost := false, irq := !s.port.events.isEmpty
         reply := some
           { outcome := .done
             result := [s.ctl.life.code, s.ctl.cause.code, s.pool.agreement.code, s.clock.cur.extractLsb' 8 8,
               s.clock.cur.extractLsb' 0 8, fl, (s.pool.foldPoint.getD 0).extractLsb' 8 8,
               (s.pool.foldPoint.getD 0).extractLsb' 0 8, s.statusDigest.extractLsb' 8 8,
               s.statusDigest.extractLsb' 0 8, optStationByte s.clock.pacing, optStationByte s.roster.reference,
               BitVec.ofNat 8 s.port.events.length, stationByte s.own] } } }) ∧
     (s.port.events = [] → exec (.takeEvent dt) s = .next (s.answered dt .empty [])) ∧
     (∀ (e : Event) (rest : List Event), s.port.events = e :: rest →
       exec (.takeEvent dt) s = .next { s.later dt with port := { s.port with
         events := rest, irq := !rest.isEmpty || s.port.lost
         reply := some
           { outcome := .done
             result := [e.kind.code, e.epoch.extractLsb' 8 8, e.epoch.extractLsb' 0 8, optStationByte e.subject,
               e.value.extractLsb' 8 8, e.value.extractLsb' 0 8, BitVec.ofNat 8 rest.length] } } }) ∧
     (∀ (b : Byte) (i : Fin 4), b.toNat = i.val →
       exec (.readChannel dt b) s = .next (s.answered dt .done
         (bytes32 (s.channels.get i).acc ++ bytes32 (s.channels.get i).lifetime ++
           [(if (s.channels.get i).accSat then 2 else 0) ||| (if (s.channels.get i).gateHigh then 1 else 0)])) ∧
       exec (.takeBatch dt b) s = .next { s.answered dt .done
           (bytes32 (s.channels.get i).holder.value ++
             [(if (s.channels.get i).holder.overwritten then 2 else 0) |||
               (if (s.channels.get i).holder.new then 1 else 0)]) with
         channels := s.channels.set i { s.channels.get i with
           holder := { (s.channels.get i).holder with new := false, overwritten := false } } }) ∧
     (∀ b : Byte, 4 ≤ b.toNat → exec (.readChannel dt b) s = .next (s.answered dt .badArgument []) ∧
       exec (.takeBatch dt b) s = .next (s.answered dt .badArgument []))) ∧
  ∀ (s : State) (dt : Nat) (b : Byte), Ready s →
    (∀ p : Fin 8, b.toNat = p.val → exec (.readPool dt b) s = .next (s.answered dt .done
      (bytes32 (s.pool.table.get p).balance ++ [if (s.pool.table.get p).clipped then 1 else 0] ++
        bytes64 (s.builder.carry.get p)))) ∧
    (8 ≤ b.toNat → exec (.readPool dt b) s = .next (s.answered dt .badArgument [])) ∧
    (∀ n : Station, b.toNat = n.val →
      let e := s.entry n
      let heard := e.firstHeard.getD 0
      let join := e.lastJoin.getD 0
      let epoch := (e.lastReport.map (fun r => r.epoch)).getD 0
      let fold := e.lastReport.bind (fun r => r.fold)
      let point := (fold.map (fun m => m.point)).getD 0
      let digest := (fold.map (fun m => m.digest)).getD 0
      ∃ fl : Byte, fl.getLsbD 0 = e.firstHeard.isSome ∧ fl.getLsbD 1 = e.lastJoin.isSome ∧
        fl.getLsbD 2 = e.lastReport.isSome ∧ fl.getLsbD 3 = fold.isSome ∧
        fl.getLsbD 4 = (e.lastReport.map (fun r => r.clean)).getD false ∧ fl.toNat < 32 ∧
        exec (.readRoster dt b) s = .next (s.answered dt .done
          [e.state.code, BitVec.ofNat 8 e.miss, fl, heard.extractLsb' 8 8, heard.extractLsb' 0 8, join.extractLsb' 8 8,
            join.extractLsb' 0 8, epoch.extractLsb' 8 8, epoch.extractLsb' 0 8, point.extractLsb' 8 8,
            point.extractLsb' 0 8, digest.extractLsb' 8 8, digest.extractLsb' 0 8])) ∧
    (32 ≤ b.toNat → exec (.readRoster dt b) s = .next (s.answered dt .badArgument [])) ∧
    (∀ r : Record, b.toNat < 8 → s.window.records[b.toNat]? = some r → r.applied.length ≤ 4 →
      ∃ out : List Byte,
        (s.builder.outbox.find? (fun e => e.epoch == r.epoch) = none →
          out = List.replicate (2 + 2 * s.ctl.profile.pools) 0) ∧
        (∀ e : OutEntry, s.builder.outbox.find? (fun e => e.epoch == r.epoch) = some e →
          out = [(if e.designated then 4 else 0) ||| (if e.transmitted then 2 else 0) ||| 1, BitVec.ofNat 8 e.resends] ++
            e.deltas.flatMap (fun d => [d.extractLsb' 8 8, d.extractLsb' 0 8])) ∧
        exec (.readRecord dt b) s = .next (s.answered dt .done
          ([r.epoch.extractLsb' 8 8, r.epoch.extractLsb' 0 8, r.state.code, BitVec.ofNat 8 s.ctl.profile.pools] ++
            bytes32 r.expected ++ bytes32 r.heard ++ r.sums.flatMap bytes32 ++ r.late.flatMap bytes32 ++
            [BitVec.ofNat 8 r.applied.length] ++ r.applied.flatMap (fun a => [stationByte a.originator, a.serial]) ++
            List.replicate (8 - 2 * r.applied.length) 0 ++ out))) ∧
    (b.toNat < 8 → s.window.records[b.toNat]? = none →
      exec (.readRecord dt b) s = .next (s.answered dt .empty [])) ∧
    (8 ≤ b.toNat → exec (.readRecord dt b) s = .next (s.answered dt .badArgument [])) ∧
    exec (.readGaps dt) s = .next (s.answered dt .done (BitVec.ofNat 8 s.pool.gaps.length ::
      s.pool.gaps.flatMap (fun g => [stationByte g.station, g.epoch.extractLsb' 8 8, g.epoch.extractLsb' 0 8])))

/-- WRITE PROFILE writes one item in CONFIG, refuses an unknown item or a value out of its range, and is refused outside
CONFIG; every item with its number, range and codes, the line-rate item and numbers above 61 never written (R165, R166,
R168, R191). -/
def Obligations.ProfileIsWritten : Prop :=
  (∀ (p : Profile) (v : BitVec 32),
    (∀ n : Nat, n = 0 ∨ 61 < n → p.write n v = none) ∧
    p.write 1 v = (if 20 ≤ v.toInt ∧ v.toInt ≤ 2000 then some { p with period := v.toInt.toNat } else none) ∧
    p.write 2 v = (if 1 ≤ v.toInt ∧ v.toInt ≤ 4 then some { p with foldLag := v.toInt.toNat } else none) ∧
    p.write 3 v = (if 1 ≤ v.toInt ∧ v.toInt ≤ 8 then some { p with pools := v.toInt.toNat } else none) ∧
    p.write 4 v = (if 2 ≤ v.toInt ∧ v.toInt ≤ 16 then some { p with eviction := v.toInt.toNat } else none) ∧
    p.write 5 v = (if 2 ≤ v.toInt ∧ v.toInt ≤ 4 then some { p with lead := v.toInt.toNat } else none) ∧
    (∀ j : Fin 8, p.write (6 + j.val) v = some { p with initial := p.initial.set j v }) ∧
    (∀ c : Fin 4,
      let put := fun (x : ChannelCfg) => ({ p with channels := p.channels.set c x } : Profile)
      let x := p.channels.get c
      p.write (14 + 5 * c.val) v = (if v = 0 then some (put { x with mode := .off })
        else if v = 1 then some (put { x with mode := .pulse })
        else if v = 2 then some (put { x with mode := .pulseDir }) else none) ∧
      p.write (15 + 5 * c.val) v = (if v = 0 then some (put { x with gateUse := false })
        else if v = 1 then some (put { x with gateUse := true }) else none) ∧
      p.write (16 + 5 * c.val) v = (if 1 ≤ v.toInt ∧ v.toInt ≤ 128 then some (put { x with width := v.toInt.toNat })
        else none) ∧
      (∀ i : Fin 8, v.toInt = (i.val : Int) → p.write (17 + 5 * c.val) v = some (put { x with pool := i })) ∧
      (v.toInt < 0 ∨ 7 < v.toInt → p.write (17 + 5 * c.val) v = none) ∧
      p.write (18 + 5 * c.val) v = (if v = 1 then some (put { x with negative := false })
        else if v = -1 then some (put { x with negative := true }) else none)) ∧
    (∀ d : Fin 4,
      let put := fun (x : DriveCfg) => ({ p with drives := p.drives.set d x } : Profile)
      let x := p.drives.get d
      (v = -1 → p.write (34 + 7 * d.val) v = some (put { x with pool := none })) ∧
      (∀ i : Fin 8, v.toInt = (i.val : Int) → p.write (34 + 7 * d.val) v = some (put { x with pool := some i })) ∧
      (v.toInt < -1 ∨ 7 < v.toInt → p.write (34 + 7 * d.val) v = none) ∧
      p.write (35 + 7 * d.val) v = some (put { x with high := v }) ∧
      p.write (36 + 7 * d.val) v = some (put { x with low := v }) ∧
      p.write (37 + 7 * d.val) v = (if 0 ≤ v.toInt ∧ v.toInt ≤ 15 then some (put { x with riseDwell := v.toInt.toNat })
        else none) ∧
      p.write (38 + 7 * d.val) v = (if 0 ≤ v.toInt ∧ v.toInt ≤ 15 then some (put { x with fallDwell := v.toInt.toNat })
        else none) ∧
      p.write (39 + 7 * d.val) v = (if v = 0 then some (put { x with activeHigh := false })
        else if v = 1 then some (put { x with activeHigh := true }) else none) ∧
      p.write (40 + 7 * d.val) v = (if v = 0 then some (put { x with action := .hold })
        else if v = 1 then some (put { x with action := .assert })
        else if v = 2 then some (put { x with action := .release }) else none))) ∧
  ∀ (s : State) (dt : Nat) (item : Byte) (v : BitVec 32), Ready s →
    (∀ p : Profile, s.ctl.life = .config → s.ctl.profile.write item.toNat v = some p →
      exec (.writeProfile dt item v) s = .next { s.answered dt .done [] with ctl := { s.ctl with profile := p } }) ∧
    (s.ctl.life = .config → s.ctl.profile.write item.toNat v = none →
      exec (.writeProfile dt item v) s = .next (s.answered dt .badArgument [])) ∧
    (s.ctl.life ≠ .config → exec (.writeProfile dt item v) s = .next (s.answered dt .wrongState []))

/-- An accepted post takes the next serial and the effective epoch cur + A, is queued, and is offered as an ADJUST; a post
outside RUN and AGREED or while leaving, one with a count outside 1 to 4 or an invalid item, and one that finds the station's
own adjustment or four adjustments queued, is refused and changes nothing (R103, R104, R181). -/
def Obligations.PostsAreTaken : Prop :=
  ∀ (s : State) (dt : Nat) (count : Byte) (items : List RawItem), Ready s → items.length = postedItems count →
    let valid := ∀ i ∈ items, i.pool.toNat < s.ctl.profile.pools ∧ i.kind.toNat ≤ 1
    (s.ctl.life = .run → s.pool.agreement = .agreed → s.ctl.leave = .none → 1 ≤ count.toNat → count.toNat ≤ 4 →
      valid → (∀ a ∈ s.adjust.queue, a.originator ≠ s.own) → s.adjust.queue.length < 4 →
      ∃ t, exec (.postAdjustment dt count items) s = .next t ∧ t.now = s.now + dt ∧
        t.adjust.lastSerial = s.adjust.lastSerial + 1 ∧
        t.adjust.queue = insertAdj s.adjust.queue
          ⟨s.own, s.adjust.lastSerial + 1, s.clock.cur + BitVec.ofNat 16 s.ctl.profile.lead, items.map RawItem.item⟩ ∧
        (s.line.queue.length < 8 → ∃ q ∈ t.line.queue, q.key = .adjust (s.adjust.lastSerial + 1)) ∧
        t.port = s.port.answered .done ((s.adjust.lastSerial + 1) ::
          bytes16 (s.clock.cur + BitVec.ofNat 16 s.ctl.profile.lead)) ∧
        t.clock = s.clock ∧ t.roster = s.roster ∧ t.builder = s.builder ∧ t.window = s.window ∧ t.pool = s.pool ∧
        t.ctl = s.ctl ∧ t.channels = s.channels ∧ t.drives = s.drives) ∧
    (s.ctl.life ≠ .run ∨ s.pool.agreement ≠ .agreed ∨ s.ctl.leave ≠ .none →
      exec (.postAdjustment dt count items) s = .next (s.answered dt .wrongState [])) ∧
    (s.ctl.life = .run → s.pool.agreement = .agreed → s.ctl.leave = .none →
      (count.toNat = 0 ∨ 4 < count.toNat ∨ ¬valid) →
      exec (.postAdjustment dt count items) s = .next (s.answered dt .badArgument [])) ∧
    (s.ctl.life = .run → s.pool.agreement = .agreed → s.ctl.leave = .none → 1 ≤ count.toNat → count.toNat ≤ 4 →
      valid → ((∃ a ∈ s.adjust.queue, a.originator = s.own) ∨ 4 ≤ s.adjust.queue.length) →
      exec (.postAdjustment dt count items) s = .next (s.answered dt .noRoom []))

end
end

