-- ==== Sys2Proof/Laws/State.lean ====
section
/-! SUPPORT. What each update of the state leaves alone and what it writes, one lemma for each field. -/

namespace Sys2Proof.Machine

/-! raise -/

@[simp] theorem State.raise_now (s : State) (b : Block) (k : EventKind) (u : Option Station) (v : BitVec 16) : (s.raise b k u v).now = s.now := rfl
@[simp] theorem State.raise_free (s : State) (b : Block) (k : EventKind) (u : Option Station) (v : BitVec 16) : (s.raise b k u v).free = s.free := rfl
@[simp] theorem State.raise_clock (s : State) (b : Block) (k : EventKind) (u : Option Station) (v : BitVec 16) : (s.raise b k u v).clock = s.clock := rfl
@[simp] theorem State.raise_line (s : State) (b : Block) (k : EventKind) (u : Option Station) (v : BitVec 16) : (s.raise b k u v).line = s.line := rfl
@[simp] theorem State.raise_roster (s : State) (b : Block) (k : EventKind) (u : Option Station) (v : BitVec 16) : (s.raise b k u v).roster = s.roster := rfl
@[simp] theorem State.raise_builder (s : State) (b : Block) (k : EventKind) (u : Option Station) (v : BitVec 16) : (s.raise b k u v).builder = s.builder := rfl
@[simp] theorem State.raise_window (s : State) (b : Block) (k : EventKind) (u : Option Station) (v : BitVec 16) : (s.raise b k u v).window = s.window := rfl
@[simp] theorem State.raise_pool (s : State) (b : Block) (k : EventKind) (u : Option Station) (v : BitVec 16) : (s.raise b k u v).pool = s.pool := rfl
@[simp] theorem State.raise_adjust (s : State) (b : Block) (k : EventKind) (u : Option Station) (v : BitVec 16) : (s.raise b k u v).adjust = s.adjust := rfl
@[simp] theorem State.raise_ctl (s : State) (b : Block) (k : EventKind) (u : Option Station) (v : BitVec 16) : (s.raise b k u v).ctl = s.ctl := rfl
@[simp] theorem State.raise_channels (s : State) (b : Block) (k : EventKind) (u : Option Station) (v : BitVec 16) : (s.raise b k u v).channels = s.channels := rfl
@[simp] theorem State.raise_drives (s : State) (b : Block) (k : EventKind) (u : Option Station) (v : BitVec 16) : (s.raise b k u v).drives = s.drives := rfl
@[simp] theorem State.raise_inputs (s : State) (b : Block) (k : EventKind) (u : Option Station) (v : BitVec 16) : (s.raise b k u v).inputs = s.inputs := rfl
@[simp] theorem State.raise_wires (s : State) (b : Block) (k : EventKind) (u : Option Station) (v : BitVec 16) : (s.raise b k u v).wires = s.wires := rfl
@[simp] theorem State.raise_pending (s : State) (b : Block) (k : EventKind) (u : Option Station) (v : BitVec 16) : (s.raise b k u v).pending = s.pending := rfl

/-! draw -/

@[simp] theorem State.draw_now (s : State) : (s.draw).now = s.now := rfl
@[simp] theorem State.draw_clock (s : State) : (s.draw).clock = s.clock := rfl
@[simp] theorem State.draw_line (s : State) : (s.draw).line = s.line := rfl
@[simp] theorem State.draw_roster (s : State) : (s.draw).roster = s.roster := rfl
@[simp] theorem State.draw_builder (s : State) : (s.draw).builder = s.builder := rfl
@[simp] theorem State.draw_window (s : State) : (s.draw).window = s.window := rfl
@[simp] theorem State.draw_pool (s : State) : (s.draw).pool = s.pool := rfl
@[simp] theorem State.draw_adjust (s : State) : (s.draw).adjust = s.adjust := rfl
@[simp] theorem State.draw_ctl (s : State) : (s.draw).ctl = s.ctl := rfl
@[simp] theorem State.draw_channels (s : State) : (s.draw).channels = s.channels := rfl
@[simp] theorem State.draw_drives (s : State) : (s.draw).drives = s.drives := rfl
@[simp] theorem State.draw_port (s : State) : (s.draw).port = s.port := rfl
@[simp] theorem State.draw_inputs (s : State) : (s.draw).inputs = s.inputs := rfl
@[simp] theorem State.draw_wires (s : State) : (s.draw).wires = s.wires := rfl
@[simp] theorem State.draw_pending (s : State) : (s.draw).pending = s.pending := rfl

/-! later -/

@[simp] theorem State.later_free (s : State) (dt : Nat) : (s.later dt).free = s.free := rfl
@[simp] theorem State.later_clock (s : State) (dt : Nat) : (s.later dt).clock = s.clock := rfl
@[simp] theorem State.later_line (s : State) (dt : Nat) : (s.later dt).line = s.line := rfl
@[simp] theorem State.later_roster (s : State) (dt : Nat) : (s.later dt).roster = s.roster := rfl
@[simp] theorem State.later_builder (s : State) (dt : Nat) : (s.later dt).builder = s.builder := rfl
@[simp] theorem State.later_window (s : State) (dt : Nat) : (s.later dt).window = s.window := rfl
@[simp] theorem State.later_pool (s : State) (dt : Nat) : (s.later dt).pool = s.pool := rfl
@[simp] theorem State.later_adjust (s : State) (dt : Nat) : (s.later dt).adjust = s.adjust := rfl
@[simp] theorem State.later_ctl (s : State) (dt : Nat) : (s.later dt).ctl = s.ctl := rfl
@[simp] theorem State.later_channels (s : State) (dt : Nat) : (s.later dt).channels = s.channels := rfl
@[simp] theorem State.later_drives (s : State) (dt : Nat) : (s.later dt).drives = s.drives := rfl
@[simp] theorem State.later_port (s : State) (dt : Nat) : (s.later dt).port = s.port := rfl
@[simp] theorem State.later_inputs (s : State) (dt : Nat) : (s.later dt).inputs = s.inputs := rfl
@[simp] theorem State.later_wires (s : State) (dt : Nat) : (s.later dt).wires = s.wires := rfl
@[simp] theorem State.later_pending (s : State) (dt : Nat) : (s.later dt).pending = s.pending := rfl

/-! until -/

@[simp] theorem State.until_free (s : State) (t : Instant) : (s.until t).free = s.free := rfl
@[simp] theorem State.until_clock (s : State) (t : Instant) : (s.until t).clock = s.clock := rfl
@[simp] theorem State.until_line (s : State) (t : Instant) : (s.until t).line = s.line := rfl
@[simp] theorem State.until_roster (s : State) (t : Instant) : (s.until t).roster = s.roster := rfl
@[simp] theorem State.until_builder (s : State) (t : Instant) : (s.until t).builder = s.builder := rfl
@[simp] theorem State.until_window (s : State) (t : Instant) : (s.until t).window = s.window := rfl
@[simp] theorem State.until_pool (s : State) (t : Instant) : (s.until t).pool = s.pool := rfl
@[simp] theorem State.until_adjust (s : State) (t : Instant) : (s.until t).adjust = s.adjust := rfl
@[simp] theorem State.until_ctl (s : State) (t : Instant) : (s.until t).ctl = s.ctl := rfl
@[simp] theorem State.until_channels (s : State) (t : Instant) : (s.until t).channels = s.channels := rfl
@[simp] theorem State.until_drives (s : State) (t : Instant) : (s.until t).drives = s.drives := rfl
@[simp] theorem State.until_port (s : State) (t : Instant) : (s.until t).port = s.port := rfl
@[simp] theorem State.until_inputs (s : State) (t : Instant) : (s.until t).inputs = s.inputs := rfl
@[simp] theorem State.until_wires (s : State) (t : Instant) : (s.until t).wires = s.wires := rfl
@[simp] theorem State.until_pending (s : State) (t : Instant) : (s.until t).pending = s.pending := rfl

/-! setClean -/

@[simp] theorem State.setClean_now (s : State) (c : Bool) : (s.setClean c).now = s.now := rfl
@[simp] theorem State.setClean_free (s : State) (c : Bool) : (s.setClean c).free = s.free := rfl
@[simp] theorem State.setClean_clock (s : State) (c : Bool) : (s.setClean c).clock = s.clock := rfl
@[simp] theorem State.setClean_line (s : State) (c : Bool) : (s.setClean c).line = s.line := rfl
@[simp] theorem State.setClean_roster (s : State) (c : Bool) : (s.setClean c).roster = s.roster := rfl
@[simp] theorem State.setClean_builder (s : State) (c : Bool) : (s.setClean c).builder = s.builder := rfl
@[simp] theorem State.setClean_window (s : State) (c : Bool) : (s.setClean c).window = s.window := rfl
@[simp] theorem State.setClean_adjust (s : State) (c : Bool) : (s.setClean c).adjust = s.adjust := rfl
@[simp] theorem State.setClean_ctl (s : State) (c : Bool) : (s.setClean c).ctl = s.ctl := rfl
@[simp] theorem State.setClean_channels (s : State) (c : Bool) : (s.setClean c).channels = s.channels := rfl
@[simp] theorem State.setClean_drives (s : State) (c : Bool) : (s.setClean c).drives = s.drives := rfl
@[simp] theorem State.setClean_port (s : State) (c : Bool) : (s.setClean c).port = s.port := rfl
@[simp] theorem State.setClean_inputs (s : State) (c : Bool) : (s.setClean c).inputs = s.inputs := rfl
@[simp] theorem State.setClean_wires (s : State) (c : Bool) : (s.setClean c).wires = s.wires := rfl
@[simp] theorem State.setClean_pending (s : State) (c : Bool) : (s.setClean c).pending = s.pending := rfl

/-! setLife -/

@[simp] theorem State.setLife_now (s : State) (l : Life) (c : MuteCause) : (s.setLife l c).now = s.now := rfl
@[simp] theorem State.setLife_free (s : State) (l : Life) (c : MuteCause) : (s.setLife l c).free = s.free := rfl
@[simp] theorem State.setLife_clock (s : State) (l : Life) (c : MuteCause) : (s.setLife l c).clock = s.clock := rfl
@[simp] theorem State.setLife_line (s : State) (l : Life) (c : MuteCause) : (s.setLife l c).line = s.line := rfl
@[simp] theorem State.setLife_roster (s : State) (l : Life) (c : MuteCause) : (s.setLife l c).roster = s.roster := rfl
@[simp] theorem State.setLife_builder (s : State) (l : Life) (c : MuteCause) : (s.setLife l c).builder = s.builder := rfl
@[simp] theorem State.setLife_window (s : State) (l : Life) (c : MuteCause) : (s.setLife l c).window = s.window := rfl
@[simp] theorem State.setLife_pool (s : State) (l : Life) (c : MuteCause) : (s.setLife l c).pool = s.pool := rfl
@[simp] theorem State.setLife_adjust (s : State) (l : Life) (c : MuteCause) : (s.setLife l c).adjust = s.adjust := rfl
@[simp] theorem State.setLife_channels (s : State) (l : Life) (c : MuteCause) : (s.setLife l c).channels = s.channels := rfl
@[simp] theorem State.setLife_drives (s : State) (l : Life) (c : MuteCause) : (s.setLife l c).drives = s.drives := rfl
@[simp] theorem State.setLife_inputs (s : State) (l : Life) (c : MuteCause) : (s.setLife l c).inputs = s.inputs := rfl
@[simp] theorem State.setLife_wires (s : State) (l : Life) (c : MuteCause) : (s.setLife l c).wires = s.wires := rfl
@[simp] theorem State.setLife_pending (s : State) (l : Life) (c : MuteCause) : (s.setLife l c).pending = s.pending := rfl

/-! answer -/

@[simp] theorem State.answer_now (s : State) (o : PortOutcome) (r : List Byte) : (s.answer o r).now = s.now := rfl
@[simp] theorem State.answer_free (s : State) (o : PortOutcome) (r : List Byte) : (s.answer o r).free = s.free := rfl
@[simp] theorem State.answer_clock (s : State) (o : PortOutcome) (r : List Byte) : (s.answer o r).clock = s.clock := rfl
@[simp] theorem State.answer_line (s : State) (o : PortOutcome) (r : List Byte) : (s.answer o r).line = s.line := rfl
@[simp] theorem State.answer_roster (s : State) (o : PortOutcome) (r : List Byte) : (s.answer o r).roster = s.roster := rfl
@[simp] theorem State.answer_builder (s : State) (o : PortOutcome) (r : List Byte) : (s.answer o r).builder = s.builder := rfl
@[simp] theorem State.answer_window (s : State) (o : PortOutcome) (r : List Byte) : (s.answer o r).window = s.window := rfl
@[simp] theorem State.answer_pool (s : State) (o : PortOutcome) (r : List Byte) : (s.answer o r).pool = s.pool := rfl
@[simp] theorem State.answer_adjust (s : State) (o : PortOutcome) (r : List Byte) : (s.answer o r).adjust = s.adjust := rfl
@[simp] theorem State.answer_ctl (s : State) (o : PortOutcome) (r : List Byte) : (s.answer o r).ctl = s.ctl := rfl
@[simp] theorem State.answer_channels (s : State) (o : PortOutcome) (r : List Byte) : (s.answer o r).channels = s.channels := rfl
@[simp] theorem State.answer_drives (s : State) (o : PortOutcome) (r : List Byte) : (s.answer o r).drives = s.drives := rfl
@[simp] theorem State.answer_inputs (s : State) (o : PortOutcome) (r : List Byte) : (s.answer o r).inputs = s.inputs := rfl
@[simp] theorem State.answer_wires (s : State) (o : PortOutcome) (r : List Byte) : (s.answer o r).wires = s.wires := rfl
@[simp] theorem State.answer_pending (s : State) (o : PortOutcome) (r : List Byte) : (s.answer o r).pending = s.pending := rfl

/-! countDiscarded -/

@[simp] theorem State.countDiscarded_now (s : State) : (s.countDiscarded).now = s.now := rfl
@[simp] theorem State.countDiscarded_free (s : State) : (s.countDiscarded).free = s.free := rfl
@[simp] theorem State.countDiscarded_clock (s : State) : (s.countDiscarded).clock = s.clock := rfl
@[simp] theorem State.countDiscarded_roster (s : State) : (s.countDiscarded).roster = s.roster := rfl
@[simp] theorem State.countDiscarded_builder (s : State) : (s.countDiscarded).builder = s.builder := rfl
@[simp] theorem State.countDiscarded_window (s : State) : (s.countDiscarded).window = s.window := rfl
@[simp] theorem State.countDiscarded_pool (s : State) : (s.countDiscarded).pool = s.pool := rfl
@[simp] theorem State.countDiscarded_adjust (s : State) : (s.countDiscarded).adjust = s.adjust := rfl
@[simp] theorem State.countDiscarded_ctl (s : State) : (s.countDiscarded).ctl = s.ctl := rfl
@[simp] theorem State.countDiscarded_channels (s : State) : (s.countDiscarded).channels = s.channels := rfl
@[simp] theorem State.countDiscarded_drives (s : State) : (s.countDiscarded).drives = s.drives := rfl
@[simp] theorem State.countDiscarded_port (s : State) : (s.countDiscarded).port = s.port := rfl
@[simp] theorem State.countDiscarded_inputs (s : State) : (s.countDiscarded).inputs = s.inputs := rfl
@[simp] theorem State.countDiscarded_wires (s : State) : (s.countDiscarded).wires = s.wires := rfl
@[simp] theorem State.countDiscarded_pending (s : State) : (s.countDiscarded).pending = s.pending := rfl

/-! lineIdle -/

@[simp] theorem State.lineIdle_now (s : State) (t : Instant) : (s.lineIdle t).now = s.now := rfl
@[simp] theorem State.lineIdle_free (s : State) (t : Instant) : (s.lineIdle t).free = s.free := rfl
@[simp] theorem State.lineIdle_clock (s : State) (t : Instant) : (s.lineIdle t).clock = s.clock := rfl
@[simp] theorem State.lineIdle_roster (s : State) (t : Instant) : (s.lineIdle t).roster = s.roster := rfl
@[simp] theorem State.lineIdle_builder (s : State) (t : Instant) : (s.lineIdle t).builder = s.builder := rfl
@[simp] theorem State.lineIdle_window (s : State) (t : Instant) : (s.lineIdle t).window = s.window := rfl
@[simp] theorem State.lineIdle_pool (s : State) (t : Instant) : (s.lineIdle t).pool = s.pool := rfl
@[simp] theorem State.lineIdle_adjust (s : State) (t : Instant) : (s.lineIdle t).adjust = s.adjust := rfl
@[simp] theorem State.lineIdle_ctl (s : State) (t : Instant) : (s.lineIdle t).ctl = s.ctl := rfl
@[simp] theorem State.lineIdle_channels (s : State) (t : Instant) : (s.lineIdle t).channels = s.channels := rfl
@[simp] theorem State.lineIdle_drives (s : State) (t : Instant) : (s.lineIdle t).drives = s.drives := rfl
@[simp] theorem State.lineIdle_port (s : State) (t : Instant) : (s.lineIdle t).port = s.port := rfl
@[simp] theorem State.lineIdle_inputs (s : State) (t : Instant) : (s.lineIdle t).inputs = s.inputs := rfl
@[simp] theorem State.lineIdle_wires (s : State) (t : Instant) : (s.lineIdle t).wires = s.wires := rfl
@[simp] theorem State.lineIdle_pending (s : State) (t : Instant) : (s.lineIdle t).pending = s.pending := rfl

/-! endTx -/

@[simp] theorem State.endTx_now (s : State) : (s.endTx).now = s.now := rfl
@[simp] theorem State.endTx_free (s : State) : (s.endTx).free = s.free := rfl
@[simp] theorem State.endTx_clock (s : State) : (s.endTx).clock = s.clock := rfl
@[simp] theorem State.endTx_roster (s : State) : (s.endTx).roster = s.roster := rfl
@[simp] theorem State.endTx_builder (s : State) : (s.endTx).builder = s.builder := rfl
@[simp] theorem State.endTx_window (s : State) : (s.endTx).window = s.window := rfl
@[simp] theorem State.endTx_pool (s : State) : (s.endTx).pool = s.pool := rfl
@[simp] theorem State.endTx_adjust (s : State) : (s.endTx).adjust = s.adjust := rfl
@[simp] theorem State.endTx_ctl (s : State) : (s.endTx).ctl = s.ctl := rfl
@[simp] theorem State.endTx_channels (s : State) : (s.endTx).channels = s.channels := rfl
@[simp] theorem State.endTx_drives (s : State) : (s.endTx).drives = s.drives := rfl
@[simp] theorem State.endTx_port (s : State) : (s.endTx).port = s.port := rfl
@[simp] theorem State.endTx_inputs (s : State) : (s.endTx).inputs = s.inputs := rfl
@[simp] theorem State.endTx_wires (s : State) : (s.endTx).wires = s.wires := rfl
@[simp] theorem State.endTx_pending (s : State) : (s.endTx).pending = s.pending := rfl

/-! dropEntry -/

@[simp] theorem State.dropEntry_now (s : State) (k : QKey) : (s.dropEntry k).now = s.now := rfl
@[simp] theorem State.dropEntry_free (s : State) (k : QKey) : (s.dropEntry k).free = s.free := rfl
@[simp] theorem State.dropEntry_clock (s : State) (k : QKey) : (s.dropEntry k).clock = s.clock := rfl
@[simp] theorem State.dropEntry_roster (s : State) (k : QKey) : (s.dropEntry k).roster = s.roster := rfl
@[simp] theorem State.dropEntry_builder (s : State) (k : QKey) : (s.dropEntry k).builder = s.builder := rfl
@[simp] theorem State.dropEntry_window (s : State) (k : QKey) : (s.dropEntry k).window = s.window := rfl
@[simp] theorem State.dropEntry_pool (s : State) (k : QKey) : (s.dropEntry k).pool = s.pool := rfl
@[simp] theorem State.dropEntry_adjust (s : State) (k : QKey) : (s.dropEntry k).adjust = s.adjust := rfl
@[simp] theorem State.dropEntry_ctl (s : State) (k : QKey) : (s.dropEntry k).ctl = s.ctl := rfl
@[simp] theorem State.dropEntry_channels (s : State) (k : QKey) : (s.dropEntry k).channels = s.channels := rfl
@[simp] theorem State.dropEntry_drives (s : State) (k : QKey) : (s.dropEntry k).drives = s.drives := rfl
@[simp] theorem State.dropEntry_port (s : State) (k : QKey) : (s.dropEntry k).port = s.port := rfl
@[simp] theorem State.dropEntry_inputs (s : State) (k : QKey) : (s.dropEntry k).inputs = s.inputs := rfl
@[simp] theorem State.dropEntry_wires (s : State) (k : QKey) : (s.dropEntry k).wires = s.wires := rfl
@[simp] theorem State.dropEntry_pending (s : State) (k : QKey) : (s.dropEntry k).pending = s.pending := rfl

/-! cutOff -/

@[simp] theorem State.cutOff_now (s : State) : (s.cutOff).now = s.now := rfl
@[simp] theorem State.cutOff_free (s : State) : (s.cutOff).free = s.free := rfl
@[simp] theorem State.cutOff_clock (s : State) : (s.cutOff).clock = s.clock := rfl
@[simp] theorem State.cutOff_roster (s : State) : (s.cutOff).roster = s.roster := rfl
@[simp] theorem State.cutOff_builder (s : State) : (s.cutOff).builder = s.builder := rfl
@[simp] theorem State.cutOff_window (s : State) : (s.cutOff).window = s.window := rfl
@[simp] theorem State.cutOff_pool (s : State) : (s.cutOff).pool = s.pool := rfl
@[simp] theorem State.cutOff_adjust (s : State) : (s.cutOff).adjust = s.adjust := rfl
@[simp] theorem State.cutOff_ctl (s : State) : (s.cutOff).ctl = s.ctl := rfl
@[simp] theorem State.cutOff_channels (s : State) : (s.cutOff).channels = s.channels := rfl
@[simp] theorem State.cutOff_drives (s : State) : (s.cutOff).drives = s.drives := rfl
@[simp] theorem State.cutOff_port (s : State) : (s.cutOff).port = s.port := rfl
@[simp] theorem State.cutOff_inputs (s : State) : (s.cutOff).inputs = s.inputs := rfl
@[simp] theorem State.cutOff_wires (s : State) : (s.cutOff).wires = s.wires := rfl
@[simp] theorem State.cutOff_pending (s : State) : (s.cutOff).pending = s.pending := rfl

/-! linePhaseEnd -/

@[simp] theorem State.linePhaseEnd_now (s : State) : (s.linePhaseEnd).now = s.now := rfl
@[simp] theorem State.linePhaseEnd_free (s : State) : (s.linePhaseEnd).free = s.free := rfl
@[simp] theorem State.linePhaseEnd_clock (s : State) : (s.linePhaseEnd).clock = s.clock := rfl
@[simp] theorem State.linePhaseEnd_roster (s : State) : (s.linePhaseEnd).roster = s.roster := rfl
@[simp] theorem State.linePhaseEnd_builder (s : State) : (s.linePhaseEnd).builder = s.builder := rfl
@[simp] theorem State.linePhaseEnd_window (s : State) : (s.linePhaseEnd).window = s.window := rfl
@[simp] theorem State.linePhaseEnd_pool (s : State) : (s.linePhaseEnd).pool = s.pool := rfl
@[simp] theorem State.linePhaseEnd_adjust (s : State) : (s.linePhaseEnd).adjust = s.adjust := rfl
@[simp] theorem State.linePhaseEnd_ctl (s : State) : (s.linePhaseEnd).ctl = s.ctl := rfl
@[simp] theorem State.linePhaseEnd_channels (s : State) : (s.linePhaseEnd).channels = s.channels := rfl
@[simp] theorem State.linePhaseEnd_drives (s : State) : (s.linePhaseEnd).drives = s.drives := rfl
@[simp] theorem State.linePhaseEnd_port (s : State) : (s.linePhaseEnd).port = s.port := rfl
@[simp] theorem State.linePhaseEnd_inputs (s : State) : (s.linePhaseEnd).inputs = s.inputs := rfl
@[simp] theorem State.linePhaseEnd_wires (s : State) : (s.linePhaseEnd).wires = s.wires := rfl
@[simp] theorem State.linePhaseEnd_pending (s : State) : (s.linePhaseEnd).pending = s.pending := rfl

/-! beginFrame -/

@[simp] theorem State.beginFrame_now (s : State) (f : Frame) (o : TxOwner) : (s.beginFrame f o).now = s.now := rfl
@[simp] theorem State.beginFrame_free (s : State) (f : Frame) (o : TxOwner) : (s.beginFrame f o).free = s.free := rfl
@[simp] theorem State.beginFrame_clock (s : State) (f : Frame) (o : TxOwner) : (s.beginFrame f o).clock = s.clock := rfl
@[simp] theorem State.beginFrame_roster (s : State) (f : Frame) (o : TxOwner) : (s.beginFrame f o).roster = s.roster := rfl
@[simp] theorem State.beginFrame_builder (s : State) (f : Frame) (o : TxOwner) : (s.beginFrame f o).builder = s.builder := rfl
@[simp] theorem State.beginFrame_window (s : State) (f : Frame) (o : TxOwner) : (s.beginFrame f o).window = s.window := rfl
@[simp] theorem State.beginFrame_pool (s : State) (f : Frame) (o : TxOwner) : (s.beginFrame f o).pool = s.pool := rfl
@[simp] theorem State.beginFrame_adjust (s : State) (f : Frame) (o : TxOwner) : (s.beginFrame f o).adjust = s.adjust := rfl
@[simp] theorem State.beginFrame_ctl (s : State) (f : Frame) (o : TxOwner) : (s.beginFrame f o).ctl = s.ctl := rfl
@[simp] theorem State.beginFrame_channels (s : State) (f : Frame) (o : TxOwner) : (s.beginFrame f o).channels = s.channels := rfl
@[simp] theorem State.beginFrame_drives (s : State) (f : Frame) (o : TxOwner) : (s.beginFrame f o).drives = s.drives := rfl
@[simp] theorem State.beginFrame_port (s : State) (f : Frame) (o : TxOwner) : (s.beginFrame f o).port = s.port := rfl
@[simp] theorem State.beginFrame_inputs (s : State) (f : Frame) (o : TxOwner) : (s.beginFrame f o).inputs = s.inputs := rfl
@[simp] theorem State.beginFrame_wires (s : State) (f : Frame) (o : TxOwner) : (s.beginFrame f o).wires = s.wires := rfl
@[simp] theorem State.beginFrame_pending (s : State) (f : Frame) (o : TxOwner) : (s.beginFrame f o).pending = s.pending := rfl

/-! withdrawAll -/

@[simp] theorem State.withdrawAll_now (s : State) : (s.withdrawAll).now = s.now := rfl
@[simp] theorem State.withdrawAll_free (s : State) : (s.withdrawAll).free = s.free := rfl
@[simp] theorem State.withdrawAll_clock (s : State) : (s.withdrawAll).clock = s.clock := rfl
@[simp] theorem State.withdrawAll_line (s : State) : (s.withdrawAll).line = s.line := rfl
@[simp] theorem State.withdrawAll_roster (s : State) : (s.withdrawAll).roster = s.roster := rfl
@[simp] theorem State.withdrawAll_window (s : State) : (s.withdrawAll).window = s.window := rfl
@[simp] theorem State.withdrawAll_pool (s : State) : (s.withdrawAll).pool = s.pool := rfl
@[simp] theorem State.withdrawAll_adjust (s : State) : (s.withdrawAll).adjust = s.adjust := rfl
@[simp] theorem State.withdrawAll_ctl (s : State) : (s.withdrawAll).ctl = s.ctl := rfl
@[simp] theorem State.withdrawAll_channels (s : State) : (s.withdrawAll).channels = s.channels := rfl
@[simp] theorem State.withdrawAll_drives (s : State) : (s.withdrawAll).drives = s.drives := rfl
@[simp] theorem State.withdrawAll_port (s : State) : (s.withdrawAll).port = s.port := rfl
@[simp] theorem State.withdrawAll_inputs (s : State) : (s.withdrawAll).inputs = s.inputs := rfl
@[simp] theorem State.withdrawAll_wires (s : State) : (s.withdrawAll).wires = s.wires := rfl
@[simp] theorem State.withdrawAll_pending (s : State) : (s.withdrawAll).pending = s.pending := rfl

/-! clearDesignation -/

@[simp] theorem State.clearDesignation_now (s : State) : (s.clearDesignation).now = s.now := rfl
@[simp] theorem State.clearDesignation_free (s : State) : (s.clearDesignation).free = s.free := rfl
@[simp] theorem State.clearDesignation_clock (s : State) : (s.clearDesignation).clock = s.clock := rfl
@[simp] theorem State.clearDesignation_line (s : State) : (s.clearDesignation).line = s.line := rfl
@[simp] theorem State.clearDesignation_roster (s : State) : (s.clearDesignation).roster = s.roster := rfl
@[simp] theorem State.clearDesignation_window (s : State) : (s.clearDesignation).window = s.window := rfl
@[simp] theorem State.clearDesignation_pool (s : State) : (s.clearDesignation).pool = s.pool := rfl
@[simp] theorem State.clearDesignation_adjust (s : State) : (s.clearDesignation).adjust = s.adjust := rfl
@[simp] theorem State.clearDesignation_ctl (s : State) : (s.clearDesignation).ctl = s.ctl := rfl
@[simp] theorem State.clearDesignation_channels (s : State) : (s.clearDesignation).channels = s.channels := rfl
@[simp] theorem State.clearDesignation_drives (s : State) : (s.clearDesignation).drives = s.drives := rfl
@[simp] theorem State.clearDesignation_port (s : State) : (s.clearDesignation).port = s.port := rfl
@[simp] theorem State.clearDesignation_inputs (s : State) : (s.clearDesignation).inputs = s.inputs := rfl
@[simp] theorem State.clearDesignation_wires (s : State) : (s.clearDesignation).wires = s.wires := rfl
@[simp] theorem State.clearDesignation_pending (s : State) : (s.clearDesignation).pending = s.pending := rfl

/-! markTransmitted -/

@[simp] theorem State.markTransmitted_now (s : State) (e : Epoch) : (s.markTransmitted e).now = s.now := rfl
@[simp] theorem State.markTransmitted_free (s : State) (e : Epoch) : (s.markTransmitted e).free = s.free := rfl
@[simp] theorem State.markTransmitted_clock (s : State) (e : Epoch) : (s.markTransmitted e).clock = s.clock := rfl
@[simp] theorem State.markTransmitted_line (s : State) (e : Epoch) : (s.markTransmitted e).line = s.line := rfl
@[simp] theorem State.markTransmitted_roster (s : State) (e : Epoch) : (s.markTransmitted e).roster = s.roster := rfl
@[simp] theorem State.markTransmitted_window (s : State) (e : Epoch) : (s.markTransmitted e).window = s.window := rfl
@[simp] theorem State.markTransmitted_pool (s : State) (e : Epoch) : (s.markTransmitted e).pool = s.pool := rfl
@[simp] theorem State.markTransmitted_adjust (s : State) (e : Epoch) : (s.markTransmitted e).adjust = s.adjust := rfl
@[simp] theorem State.markTransmitted_ctl (s : State) (e : Epoch) : (s.markTransmitted e).ctl = s.ctl := rfl
@[simp] theorem State.markTransmitted_channels (s : State) (e : Epoch) : (s.markTransmitted e).channels = s.channels := rfl
@[simp] theorem State.markTransmitted_drives (s : State) (e : Epoch) : (s.markTransmitted e).drives = s.drives := rfl
@[simp] theorem State.markTransmitted_port (s : State) (e : Epoch) : (s.markTransmitted e).port = s.port := rfl
@[simp] theorem State.markTransmitted_inputs (s : State) (e : Epoch) : (s.markTransmitted e).inputs = s.inputs := rfl
@[simp] theorem State.markTransmitted_wires (s : State) (e : Epoch) : (s.markTransmitted e).wires = s.wires := rfl
@[simp] theorem State.markTransmitted_pending (s : State) (e : Epoch) : (s.markTransmitted e).pending = s.pending := rfl

/-! countResend -/

@[simp] theorem State.countResend_now (s : State) (e : Epoch) : (s.countResend e).now = s.now := rfl
@[simp] theorem State.countResend_free (s : State) (e : Epoch) : (s.countResend e).free = s.free := rfl
@[simp] theorem State.countResend_clock (s : State) (e : Epoch) : (s.countResend e).clock = s.clock := rfl
@[simp] theorem State.countResend_line (s : State) (e : Epoch) : (s.countResend e).line = s.line := rfl
@[simp] theorem State.countResend_roster (s : State) (e : Epoch) : (s.countResend e).roster = s.roster := rfl
@[simp] theorem State.countResend_window (s : State) (e : Epoch) : (s.countResend e).window = s.window := rfl
@[simp] theorem State.countResend_pool (s : State) (e : Epoch) : (s.countResend e).pool = s.pool := rfl
@[simp] theorem State.countResend_adjust (s : State) (e : Epoch) : (s.countResend e).adjust = s.adjust := rfl
@[simp] theorem State.countResend_ctl (s : State) (e : Epoch) : (s.countResend e).ctl = s.ctl := rfl
@[simp] theorem State.countResend_channels (s : State) (e : Epoch) : (s.countResend e).channels = s.channels := rfl
@[simp] theorem State.countResend_drives (s : State) (e : Epoch) : (s.countResend e).drives = s.drives := rfl
@[simp] theorem State.countResend_port (s : State) (e : Epoch) : (s.countResend e).port = s.port := rfl
@[simp] theorem State.countResend_inputs (s : State) (e : Epoch) : (s.countResend e).inputs = s.inputs := rfl
@[simp] theorem State.countResend_wires (s : State) (e : Epoch) : (s.countResend e).wires = s.wires := rfl
@[simp] theorem State.countResend_pending (s : State) (e : Epoch) : (s.countResend e).pending = s.pending := rfl

/-! beginEpoch -/

@[simp] theorem State.beginEpoch_now (s : State) (x : Epoch) (p : Option Station) (o : Instant) (n : Nat) : (s.beginEpoch x p o n).now = s.now := rfl
@[simp] theorem State.beginEpoch_free (s : State) (x : Epoch) (p : Option Station) (o : Instant) (n : Nat) : (s.beginEpoch x p o n).free = s.free := rfl
@[simp] theorem State.beginEpoch_roster (s : State) (x : Epoch) (p : Option Station) (o : Instant) (n : Nat) : (s.beginEpoch x p o n).roster = s.roster := rfl
@[simp] theorem State.beginEpoch_builder (s : State) (x : Epoch) (p : Option Station) (o : Instant) (n : Nat) : (s.beginEpoch x p o n).builder = s.builder := rfl
@[simp] theorem State.beginEpoch_window (s : State) (x : Epoch) (p : Option Station) (o : Instant) (n : Nat) : (s.beginEpoch x p o n).window = s.window := rfl
@[simp] theorem State.beginEpoch_pool (s : State) (x : Epoch) (p : Option Station) (o : Instant) (n : Nat) : (s.beginEpoch x p o n).pool = s.pool := rfl
@[simp] theorem State.beginEpoch_adjust (s : State) (x : Epoch) (p : Option Station) (o : Instant) (n : Nat) : (s.beginEpoch x p o n).adjust = s.adjust := rfl
@[simp] theorem State.beginEpoch_ctl (s : State) (x : Epoch) (p : Option Station) (o : Instant) (n : Nat) : (s.beginEpoch x p o n).ctl = s.ctl := rfl
@[simp] theorem State.beginEpoch_channels (s : State) (x : Epoch) (p : Option Station) (o : Instant) (n : Nat) : (s.beginEpoch x p o n).channels = s.channels := rfl
@[simp] theorem State.beginEpoch_drives (s : State) (x : Epoch) (p : Option Station) (o : Instant) (n : Nat) : (s.beginEpoch x p o n).drives = s.drives := rfl
@[simp] theorem State.beginEpoch_port (s : State) (x : Epoch) (p : Option Station) (o : Instant) (n : Nat) : (s.beginEpoch x p o n).port = s.port := rfl
@[simp] theorem State.beginEpoch_inputs (s : State) (x : Epoch) (p : Option Station) (o : Instant) (n : Nat) : (s.beginEpoch x p o n).inputs = s.inputs := rfl
@[simp] theorem State.beginEpoch_wires (s : State) (x : Epoch) (p : Option Station) (o : Instant) (n : Nat) : (s.beginEpoch x p o n).wires = s.wires := rfl
@[simp] theorem State.beginEpoch_pending (s : State) (x : Epoch) (p : Option Station) (o : Instant) (n : Nat) : (s.beginEpoch x p o n).pending = s.pending := rfl

/-! reloadMarkTimer -/

@[simp] theorem State.reloadMarkTimer_now (s : State) (t : Instant) : (s.reloadMarkTimer t).now = s.now := rfl
@[simp] theorem State.reloadMarkTimer_free (s : State) (t : Instant) : (s.reloadMarkTimer t).free = s.free := rfl
@[simp] theorem State.reloadMarkTimer_line (s : State) (t : Instant) : (s.reloadMarkTimer t).line = s.line := rfl
@[simp] theorem State.reloadMarkTimer_roster (s : State) (t : Instant) : (s.reloadMarkTimer t).roster = s.roster := rfl
@[simp] theorem State.reloadMarkTimer_builder (s : State) (t : Instant) : (s.reloadMarkTimer t).builder = s.builder := rfl
@[simp] theorem State.reloadMarkTimer_window (s : State) (t : Instant) : (s.reloadMarkTimer t).window = s.window := rfl
@[simp] theorem State.reloadMarkTimer_pool (s : State) (t : Instant) : (s.reloadMarkTimer t).pool = s.pool := rfl
@[simp] theorem State.reloadMarkTimer_adjust (s : State) (t : Instant) : (s.reloadMarkTimer t).adjust = s.adjust := rfl
@[simp] theorem State.reloadMarkTimer_ctl (s : State) (t : Instant) : (s.reloadMarkTimer t).ctl = s.ctl := rfl
@[simp] theorem State.reloadMarkTimer_channels (s : State) (t : Instant) : (s.reloadMarkTimer t).channels = s.channels := rfl
@[simp] theorem State.reloadMarkTimer_drives (s : State) (t : Instant) : (s.reloadMarkTimer t).drives = s.drives := rfl
@[simp] theorem State.reloadMarkTimer_port (s : State) (t : Instant) : (s.reloadMarkTimer t).port = s.port := rfl
@[simp] theorem State.reloadMarkTimer_inputs (s : State) (t : Instant) : (s.reloadMarkTimer t).inputs = s.inputs := rfl
@[simp] theorem State.reloadMarkTimer_wires (s : State) (t : Instant) : (s.reloadMarkTimer t).wires = s.wires := rfl
@[simp] theorem State.reloadMarkTimer_pending (s : State) (t : Instant) : (s.reloadMarkTimer t).pending = s.pending := rfl

/-! foundClock -/

@[simp] theorem State.foundClock_now (s : State) : (s.foundClock).now = s.now := rfl
@[simp] theorem State.foundClock_free (s : State) : (s.foundClock).free = s.free := rfl
@[simp] theorem State.foundClock_line (s : State) : (s.foundClock).line = s.line := rfl
@[simp] theorem State.foundClock_roster (s : State) : (s.foundClock).roster = s.roster := rfl
@[simp] theorem State.foundClock_builder (s : State) : (s.foundClock).builder = s.builder := rfl
@[simp] theorem State.foundClock_window (s : State) : (s.foundClock).window = s.window := rfl
@[simp] theorem State.foundClock_pool (s : State) : (s.foundClock).pool = s.pool := rfl
@[simp] theorem State.foundClock_adjust (s : State) : (s.foundClock).adjust = s.adjust := rfl
@[simp] theorem State.foundClock_ctl (s : State) : (s.foundClock).ctl = s.ctl := rfl
@[simp] theorem State.foundClock_channels (s : State) : (s.foundClock).channels = s.channels := rfl
@[simp] theorem State.foundClock_drives (s : State) : (s.foundClock).drives = s.drives := rfl
@[simp] theorem State.foundClock_port (s : State) : (s.foundClock).port = s.port := rfl
@[simp] theorem State.foundClock_inputs (s : State) : (s.foundClock).inputs = s.inputs := rfl
@[simp] theorem State.foundClock_wires (s : State) : (s.foundClock).wires = s.wires := rfl
@[simp] theorem State.foundClock_pending (s : State) : (s.foundClock).pending = s.pending := rfl

/-! reloadSilence -/

@[simp] theorem State.reloadSilence_now (s : State) : (s.reloadSilence).now = s.now := rfl
@[simp] theorem State.reloadSilence_free (s : State) : (s.reloadSilence).free = s.free := rfl
@[simp] theorem State.reloadSilence_clock (s : State) : (s.reloadSilence).clock = s.clock := rfl
@[simp] theorem State.reloadSilence_line (s : State) : (s.reloadSilence).line = s.line := rfl
@[simp] theorem State.reloadSilence_roster (s : State) : (s.reloadSilence).roster = s.roster := rfl
@[simp] theorem State.reloadSilence_builder (s : State) : (s.reloadSilence).builder = s.builder := rfl
@[simp] theorem State.reloadSilence_window (s : State) : (s.reloadSilence).window = s.window := rfl
@[simp] theorem State.reloadSilence_pool (s : State) : (s.reloadSilence).pool = s.pool := rfl
@[simp] theorem State.reloadSilence_adjust (s : State) : (s.reloadSilence).adjust = s.adjust := rfl
@[simp] theorem State.reloadSilence_channels (s : State) : (s.reloadSilence).channels = s.channels := rfl
@[simp] theorem State.reloadSilence_drives (s : State) : (s.reloadSilence).drives = s.drives := rfl
@[simp] theorem State.reloadSilence_port (s : State) : (s.reloadSilence).port = s.port := rfl
@[simp] theorem State.reloadSilence_inputs (s : State) : (s.reloadSilence).inputs = s.inputs := rfl
@[simp] theorem State.reloadSilence_wires (s : State) : (s.reloadSilence).wires = s.wires := rfl
@[simp] theorem State.reloadSilence_pending (s : State) : (s.reloadSilence).pending = s.pending := rfl

/-! countMismatched -/

@[simp] theorem State.countMismatched_now (s : State) : (s.countMismatched).now = s.now := rfl
@[simp] theorem State.countMismatched_free (s : State) : (s.countMismatched).free = s.free := rfl
@[simp] theorem State.countMismatched_clock (s : State) : (s.countMismatched).clock = s.clock := rfl
@[simp] theorem State.countMismatched_line (s : State) : (s.countMismatched).line = s.line := rfl
@[simp] theorem State.countMismatched_roster (s : State) : (s.countMismatched).roster = s.roster := rfl
@[simp] theorem State.countMismatched_builder (s : State) : (s.countMismatched).builder = s.builder := rfl
@[simp] theorem State.countMismatched_window (s : State) : (s.countMismatched).window = s.window := rfl
@[simp] theorem State.countMismatched_pool (s : State) : (s.countMismatched).pool = s.pool := rfl
@[simp] theorem State.countMismatched_adjust (s : State) : (s.countMismatched).adjust = s.adjust := rfl
@[simp] theorem State.countMismatched_channels (s : State) : (s.countMismatched).channels = s.channels := rfl
@[simp] theorem State.countMismatched_drives (s : State) : (s.countMismatched).drives = s.drives := rfl
@[simp] theorem State.countMismatched_port (s : State) : (s.countMismatched).port = s.port := rfl
@[simp] theorem State.countMismatched_inputs (s : State) : (s.countMismatched).inputs = s.inputs := rfl
@[simp] theorem State.countMismatched_wires (s : State) : (s.countMismatched).wires = s.wires := rfl
@[simp] theorem State.countMismatched_pending (s : State) : (s.countMismatched).pending = s.pending := rfl

/-! joinOut -/

@[simp] theorem State.joinOut_now (s : State) : (s.joinOut).now = s.now := rfl
@[simp] theorem State.joinOut_free (s : State) : (s.joinOut).free = s.free := rfl
@[simp] theorem State.joinOut_clock (s : State) : (s.joinOut).clock = s.clock := rfl
@[simp] theorem State.joinOut_line (s : State) : (s.joinOut).line = s.line := rfl
@[simp] theorem State.joinOut_roster (s : State) : (s.joinOut).roster = s.roster := rfl
@[simp] theorem State.joinOut_builder (s : State) : (s.joinOut).builder = s.builder := rfl
@[simp] theorem State.joinOut_window (s : State) : (s.joinOut).window = s.window := rfl
@[simp] theorem State.joinOut_pool (s : State) : (s.joinOut).pool = s.pool := rfl
@[simp] theorem State.joinOut_adjust (s : State) : (s.joinOut).adjust = s.adjust := rfl
@[simp] theorem State.joinOut_channels (s : State) : (s.joinOut).channels = s.channels := rfl
@[simp] theorem State.joinOut_drives (s : State) : (s.joinOut).drives = s.drives := rfl
@[simp] theorem State.joinOut_port (s : State) : (s.joinOut).port = s.port := rfl
@[simp] theorem State.joinOut_inputs (s : State) : (s.joinOut).inputs = s.inputs := rfl
@[simp] theorem State.joinOut_wires (s : State) : (s.joinOut).wires = s.wires := rfl
@[simp] theorem State.joinOut_pending (s : State) : (s.joinOut).pending = s.pending := rfl

/-! setPin -/

@[simp] theorem State.setPin_now (s : State) (i : Fin 4) (x : InputPin) (p : Pin) : (s.setPin i x p).now = s.now := rfl
@[simp] theorem State.setPin_free (s : State) (i : Fin 4) (x : InputPin) (p : Pin) : (s.setPin i x p).free = s.free := rfl
@[simp] theorem State.setPin_clock (s : State) (i : Fin 4) (x : InputPin) (p : Pin) : (s.setPin i x p).clock = s.clock := rfl
@[simp] theorem State.setPin_line (s : State) (i : Fin 4) (x : InputPin) (p : Pin) : (s.setPin i x p).line = s.line := rfl
@[simp] theorem State.setPin_roster (s : State) (i : Fin 4) (x : InputPin) (p : Pin) : (s.setPin i x p).roster = s.roster := rfl
@[simp] theorem State.setPin_builder (s : State) (i : Fin 4) (x : InputPin) (p : Pin) : (s.setPin i x p).builder = s.builder := rfl
@[simp] theorem State.setPin_window (s : State) (i : Fin 4) (x : InputPin) (p : Pin) : (s.setPin i x p).window = s.window := rfl
@[simp] theorem State.setPin_pool (s : State) (i : Fin 4) (x : InputPin) (p : Pin) : (s.setPin i x p).pool = s.pool := rfl
@[simp] theorem State.setPin_adjust (s : State) (i : Fin 4) (x : InputPin) (p : Pin) : (s.setPin i x p).adjust = s.adjust := rfl
@[simp] theorem State.setPin_ctl (s : State) (i : Fin 4) (x : InputPin) (p : Pin) : (s.setPin i x p).ctl = s.ctl := rfl
@[simp] theorem State.setPin_channels (s : State) (i : Fin 4) (x : InputPin) (p : Pin) : (s.setPin i x p).channels = s.channels := rfl
@[simp] theorem State.setPin_drives (s : State) (i : Fin 4) (x : InputPin) (p : Pin) : (s.setPin i x p).drives = s.drives := rfl
@[simp] theorem State.setPin_port (s : State) (i : Fin 4) (x : InputPin) (p : Pin) : (s.setPin i x p).port = s.port := rfl
@[simp] theorem State.setPin_wires (s : State) (i : Fin 4) (x : InputPin) (p : Pin) : (s.setPin i x p).wires = s.wires := rfl
@[simp] theorem State.setPin_pending (s : State) (i : Fin 4) (x : InputPin) (p : Pin) : (s.setPin i x p).pending = s.pending := rfl

/-! cntFall -/

@[simp] theorem State.cntFall_now (s : State) (i : Fin 4) : (s.cntFall i).now = s.now := rfl
@[simp] theorem State.cntFall_free (s : State) (i : Fin 4) : (s.cntFall i).free = s.free := rfl
@[simp] theorem State.cntFall_clock (s : State) (i : Fin 4) : (s.cntFall i).clock = s.clock := rfl
@[simp] theorem State.cntFall_line (s : State) (i : Fin 4) : (s.cntFall i).line = s.line := rfl
@[simp] theorem State.cntFall_roster (s : State) (i : Fin 4) : (s.cntFall i).roster = s.roster := rfl
@[simp] theorem State.cntFall_builder (s : State) (i : Fin 4) : (s.cntFall i).builder = s.builder := rfl
@[simp] theorem State.cntFall_window (s : State) (i : Fin 4) : (s.cntFall i).window = s.window := rfl
@[simp] theorem State.cntFall_pool (s : State) (i : Fin 4) : (s.cntFall i).pool = s.pool := rfl
@[simp] theorem State.cntFall_adjust (s : State) (i : Fin 4) : (s.cntFall i).adjust = s.adjust := rfl
@[simp] theorem State.cntFall_ctl (s : State) (i : Fin 4) : (s.cntFall i).ctl = s.ctl := rfl
@[simp] theorem State.cntFall_drives (s : State) (i : Fin 4) : (s.cntFall i).drives = s.drives := rfl
@[simp] theorem State.cntFall_port (s : State) (i : Fin 4) : (s.cntFall i).port = s.port := rfl
@[simp] theorem State.cntFall_inputs (s : State) (i : Fin 4) : (s.cntFall i).inputs = s.inputs := rfl
@[simp] theorem State.cntFall_wires (s : State) (i : Fin 4) : (s.cntFall i).wires = s.wires := rfl
@[simp] theorem State.cntFall_pending (s : State) (i : Fin 4) : (s.cntFall i).pending = s.pending := rfl

/-! dirEdge -/

@[simp] theorem State.dirEdge_now (s : State) (i : Fin 4) : (s.dirEdge i).now = s.now := rfl
@[simp] theorem State.dirEdge_free (s : State) (i : Fin 4) : (s.dirEdge i).free = s.free := rfl
@[simp] theorem State.dirEdge_clock (s : State) (i : Fin 4) : (s.dirEdge i).clock = s.clock := rfl
@[simp] theorem State.dirEdge_line (s : State) (i : Fin 4) : (s.dirEdge i).line = s.line := rfl
@[simp] theorem State.dirEdge_roster (s : State) (i : Fin 4) : (s.dirEdge i).roster = s.roster := rfl
@[simp] theorem State.dirEdge_builder (s : State) (i : Fin 4) : (s.dirEdge i).builder = s.builder := rfl
@[simp] theorem State.dirEdge_window (s : State) (i : Fin 4) : (s.dirEdge i).window = s.window := rfl
@[simp] theorem State.dirEdge_pool (s : State) (i : Fin 4) : (s.dirEdge i).pool = s.pool := rfl
@[simp] theorem State.dirEdge_adjust (s : State) (i : Fin 4) : (s.dirEdge i).adjust = s.adjust := rfl
@[simp] theorem State.dirEdge_ctl (s : State) (i : Fin 4) : (s.dirEdge i).ctl = s.ctl := rfl
@[simp] theorem State.dirEdge_drives (s : State) (i : Fin 4) : (s.dirEdge i).drives = s.drives := rfl
@[simp] theorem State.dirEdge_port (s : State) (i : Fin 4) : (s.dirEdge i).port = s.port := rfl
@[simp] theorem State.dirEdge_inputs (s : State) (i : Fin 4) : (s.dirEdge i).inputs = s.inputs := rfl
@[simp] theorem State.dirEdge_wires (s : State) (i : Fin 4) : (s.dirEdge i).wires = s.wires := rfl
@[simp] theorem State.dirEdge_pending (s : State) (i : Fin 4) : (s.dirEdge i).pending = s.pending := rfl

/-! setTxn -/

@[simp] theorem State.setTxn_now (s : State) (x : Option Txn) : (s.setTxn x).now = s.now := rfl
@[simp] theorem State.setTxn_free (s : State) (x : Option Txn) : (s.setTxn x).free = s.free := rfl
@[simp] theorem State.setTxn_clock (s : State) (x : Option Txn) : (s.setTxn x).clock = s.clock := rfl
@[simp] theorem State.setTxn_line (s : State) (x : Option Txn) : (s.setTxn x).line = s.line := rfl
@[simp] theorem State.setTxn_roster (s : State) (x : Option Txn) : (s.setTxn x).roster = s.roster := rfl
@[simp] theorem State.setTxn_builder (s : State) (x : Option Txn) : (s.setTxn x).builder = s.builder := rfl
@[simp] theorem State.setTxn_window (s : State) (x : Option Txn) : (s.setTxn x).window = s.window := rfl
@[simp] theorem State.setTxn_pool (s : State) (x : Option Txn) : (s.setTxn x).pool = s.pool := rfl
@[simp] theorem State.setTxn_adjust (s : State) (x : Option Txn) : (s.setTxn x).adjust = s.adjust := rfl
@[simp] theorem State.setTxn_ctl (s : State) (x : Option Txn) : (s.setTxn x).ctl = s.ctl := rfl
@[simp] theorem State.setTxn_channels (s : State) (x : Option Txn) : (s.setTxn x).channels = s.channels := rfl
@[simp] theorem State.setTxn_drives (s : State) (x : Option Txn) : (s.setTxn x).drives = s.drives := rfl
@[simp] theorem State.setTxn_inputs (s : State) (x : Option Txn) : (s.setTxn x).inputs = s.inputs := rfl
@[simp] theorem State.setTxn_wires (s : State) (x : Option Txn) : (s.setTxn x).wires = s.wires := rfl
@[simp] theorem State.setTxn_pending (s : State) (x : Option Txn) : (s.setTxn x).pending = s.pending := rfl

/-! setRx -/

@[simp] theorem State.setRx_now (s : State) (x : Rx) : (s.setRx x).now = s.now := rfl
@[simp] theorem State.setRx_free (s : State) (x : Rx) : (s.setRx x).free = s.free := rfl
@[simp] theorem State.setRx_clock (s : State) (x : Rx) : (s.setRx x).clock = s.clock := rfl
@[simp] theorem State.setRx_roster (s : State) (x : Rx) : (s.setRx x).roster = s.roster := rfl
@[simp] theorem State.setRx_builder (s : State) (x : Rx) : (s.setRx x).builder = s.builder := rfl
@[simp] theorem State.setRx_window (s : State) (x : Rx) : (s.setRx x).window = s.window := rfl
@[simp] theorem State.setRx_pool (s : State) (x : Rx) : (s.setRx x).pool = s.pool := rfl
@[simp] theorem State.setRx_adjust (s : State) (x : Rx) : (s.setRx x).adjust = s.adjust := rfl
@[simp] theorem State.setRx_ctl (s : State) (x : Rx) : (s.setRx x).ctl = s.ctl := rfl
@[simp] theorem State.setRx_channels (s : State) (x : Rx) : (s.setRx x).channels = s.channels := rfl
@[simp] theorem State.setRx_drives (s : State) (x : Rx) : (s.setRx x).drives = s.drives := rfl
@[simp] theorem State.setRx_port (s : State) (x : Rx) : (s.setRx x).port = s.port := rfl
@[simp] theorem State.setRx_inputs (s : State) (x : Rx) : (s.setRx x).inputs = s.inputs := rfl
@[simp] theorem State.setRx_wires (s : State) (x : Rx) : (s.setRx x).wires = s.wires := rfl
@[simp] theorem State.setRx_pending (s : State) (x : Rx) : (s.setRx x).pending = s.pending := rfl

/-! atSample -/

@[simp] theorem State.atSample_free (s : State) (t : Instant) : (s.atSample t).free = s.free := rfl
@[simp] theorem State.atSample_clock (s : State) (t : Instant) : (s.atSample t).clock = s.clock := rfl
@[simp] theorem State.atSample_line (s : State) (t : Instant) : (s.atSample t).line = s.line := rfl
@[simp] theorem State.atSample_roster (s : State) (t : Instant) : (s.atSample t).roster = s.roster := rfl
@[simp] theorem State.atSample_builder (s : State) (t : Instant) : (s.atSample t).builder = s.builder := rfl
@[simp] theorem State.atSample_window (s : State) (t : Instant) : (s.atSample t).window = s.window := rfl
@[simp] theorem State.atSample_pool (s : State) (t : Instant) : (s.atSample t).pool = s.pool := rfl
@[simp] theorem State.atSample_adjust (s : State) (t : Instant) : (s.atSample t).adjust = s.adjust := rfl
@[simp] theorem State.atSample_ctl (s : State) (t : Instant) : (s.atSample t).ctl = s.ctl := rfl
@[simp] theorem State.atSample_channels (s : State) (t : Instant) : (s.atSample t).channels = s.channels := rfl
@[simp] theorem State.atSample_drives (s : State) (t : Instant) : (s.atSample t).drives = s.drives := rfl
@[simp] theorem State.atSample_port (s : State) (t : Instant) : (s.atSample t).port = s.port := rfl
@[simp] theorem State.atSample_inputs (s : State) (t : Instant) : (s.atSample t).inputs = s.inputs := rfl
@[simp] theorem State.atSample_pending (s : State) (t : Instant) : (s.atSample t).pending = s.pending := rfl

/-! setChannel -/

@[simp] theorem State.setChannel_now (s : State) (i : Fin 4) (c : Channel) : (s.setChannel i c).now = s.now := rfl
@[simp] theorem State.setChannel_free (s : State) (i : Fin 4) (c : Channel) : (s.setChannel i c).free = s.free := rfl
@[simp] theorem State.setChannel_clock (s : State) (i : Fin 4) (c : Channel) : (s.setChannel i c).clock = s.clock := rfl
@[simp] theorem State.setChannel_line (s : State) (i : Fin 4) (c : Channel) : (s.setChannel i c).line = s.line := rfl
@[simp] theorem State.setChannel_roster (s : State) (i : Fin 4) (c : Channel) : (s.setChannel i c).roster = s.roster := rfl
@[simp] theorem State.setChannel_builder (s : State) (i : Fin 4) (c : Channel) : (s.setChannel i c).builder = s.builder := rfl
@[simp] theorem State.setChannel_window (s : State) (i : Fin 4) (c : Channel) : (s.setChannel i c).window = s.window := rfl
@[simp] theorem State.setChannel_pool (s : State) (i : Fin 4) (c : Channel) : (s.setChannel i c).pool = s.pool := rfl
@[simp] theorem State.setChannel_adjust (s : State) (i : Fin 4) (c : Channel) : (s.setChannel i c).adjust = s.adjust := rfl
@[simp] theorem State.setChannel_ctl (s : State) (i : Fin 4) (c : Channel) : (s.setChannel i c).ctl = s.ctl := rfl
@[simp] theorem State.setChannel_drives (s : State) (i : Fin 4) (c : Channel) : (s.setChannel i c).drives = s.drives := rfl
@[simp] theorem State.setChannel_port (s : State) (i : Fin 4) (c : Channel) : (s.setChannel i c).port = s.port := rfl
@[simp] theorem State.setChannel_inputs (s : State) (i : Fin 4) (c : Channel) : (s.setChannel i c).inputs = s.inputs := rfl
@[simp] theorem State.setChannel_wires (s : State) (i : Fin 4) (c : Channel) : (s.setChannel i c).wires = s.wires := rfl
@[simp] theorem State.setChannel_pending (s : State) (i : Fin 4) (c : Channel) : (s.setChannel i c).pending = s.pending := rfl

/-! closeGap -/

@[simp] theorem State.closeGap_now (s : State) (n : Station) (e : Epoch) : (s.closeGap n e).now = s.now := rfl
@[simp] theorem State.closeGap_free (s : State) (n : Station) (e : Epoch) : (s.closeGap n e).free = s.free := rfl
@[simp] theorem State.closeGap_clock (s : State) (n : Station) (e : Epoch) : (s.closeGap n e).clock = s.clock := rfl
@[simp] theorem State.closeGap_line (s : State) (n : Station) (e : Epoch) : (s.closeGap n e).line = s.line := rfl
@[simp] theorem State.closeGap_roster (s : State) (n : Station) (e : Epoch) : (s.closeGap n e).roster = s.roster := rfl
@[simp] theorem State.closeGap_builder (s : State) (n : Station) (e : Epoch) : (s.closeGap n e).builder = s.builder := rfl
@[simp] theorem State.closeGap_window (s : State) (n : Station) (e : Epoch) : (s.closeGap n e).window = s.window := rfl
@[simp] theorem State.closeGap_adjust (s : State) (n : Station) (e : Epoch) : (s.closeGap n e).adjust = s.adjust := rfl
@[simp] theorem State.closeGap_ctl (s : State) (n : Station) (e : Epoch) : (s.closeGap n e).ctl = s.ctl := rfl
@[simp] theorem State.closeGap_channels (s : State) (n : Station) (e : Epoch) : (s.closeGap n e).channels = s.channels := rfl
@[simp] theorem State.closeGap_drives (s : State) (n : Station) (e : Epoch) : (s.closeGap n e).drives = s.drives := rfl
@[simp] theorem State.closeGap_port (s : State) (n : Station) (e : Epoch) : (s.closeGap n e).port = s.port := rfl
@[simp] theorem State.closeGap_inputs (s : State) (n : Station) (e : Epoch) : (s.closeGap n e).inputs = s.inputs := rfl
@[simp] theorem State.closeGap_wires (s : State) (n : Station) (e : Epoch) : (s.closeGap n e).wires = s.wires := rfl
@[simp] theorem State.closeGap_pending (s : State) (n : Station) (e : Epoch) : (s.closeGap n e).pending = s.pending := rfl

/-! dropHeld -/

@[simp] theorem State.dropHeld_now (s : State) : (s.dropHeld).now = s.now := rfl
@[simp] theorem State.dropHeld_free (s : State) : (s.dropHeld).free = s.free := rfl
@[simp] theorem State.dropHeld_clock (s : State) : (s.dropHeld).clock = s.clock := rfl
@[simp] theorem State.dropHeld_line (s : State) : (s.dropHeld).line = s.line := rfl
@[simp] theorem State.dropHeld_roster (s : State) : (s.dropHeld).roster = s.roster := rfl
@[simp] theorem State.dropHeld_builder (s : State) : (s.dropHeld).builder = s.builder := rfl
@[simp] theorem State.dropHeld_window (s : State) : (s.dropHeld).window = s.window := rfl
@[simp] theorem State.dropHeld_adjust (s : State) : (s.dropHeld).adjust = s.adjust := rfl
@[simp] theorem State.dropHeld_ctl (s : State) : (s.dropHeld).ctl = s.ctl := rfl
@[simp] theorem State.dropHeld_channels (s : State) : (s.dropHeld).channels = s.channels := rfl
@[simp] theorem State.dropHeld_drives (s : State) : (s.dropHeld).drives = s.drives := rfl
@[simp] theorem State.dropHeld_port (s : State) : (s.dropHeld).port = s.port := rfl
@[simp] theorem State.dropHeld_inputs (s : State) : (s.dropHeld).inputs = s.inputs := rfl
@[simp] theorem State.dropHeld_wires (s : State) : (s.dropHeld).wires = s.wires := rfl
@[simp] theorem State.dropHeld_pending (s : State) : (s.dropHeld).pending = s.pending := rfl

/-! recordDigest -/

@[simp] theorem State.recordDigest_now (s : State) (e : Epoch) : (s.recordDigest e).now = s.now := rfl
@[simp] theorem State.recordDigest_free (s : State) (e : Epoch) : (s.recordDigest e).free = s.free := rfl
@[simp] theorem State.recordDigest_clock (s : State) (e : Epoch) : (s.recordDigest e).clock = s.clock := rfl
@[simp] theorem State.recordDigest_line (s : State) (e : Epoch) : (s.recordDigest e).line = s.line := rfl
@[simp] theorem State.recordDigest_roster (s : State) (e : Epoch) : (s.recordDigest e).roster = s.roster := rfl
@[simp] theorem State.recordDigest_builder (s : State) (e : Epoch) : (s.recordDigest e).builder = s.builder := rfl
@[simp] theorem State.recordDigest_window (s : State) (e : Epoch) : (s.recordDigest e).window = s.window := rfl
@[simp] theorem State.recordDigest_adjust (s : State) (e : Epoch) : (s.recordDigest e).adjust = s.adjust := rfl
@[simp] theorem State.recordDigest_ctl (s : State) (e : Epoch) : (s.recordDigest e).ctl = s.ctl := rfl
@[simp] theorem State.recordDigest_channels (s : State) (e : Epoch) : (s.recordDigest e).channels = s.channels := rfl
@[simp] theorem State.recordDigest_drives (s : State) (e : Epoch) : (s.recordDigest e).drives = s.drives := rfl
@[simp] theorem State.recordDigest_port (s : State) (e : Epoch) : (s.recordDigest e).port = s.port := rfl
@[simp] theorem State.recordDigest_inputs (s : State) (e : Epoch) : (s.recordDigest e).inputs = s.inputs := rfl
@[simp] theorem State.recordDigest_wires (s : State) (e : Epoch) : (s.recordDigest e).wires = s.wires := rfl
@[simp] theorem State.recordDigest_pending (s : State) (e : Epoch) : (s.recordDigest e).pending = s.pending := rfl

/-! changeRecord -/

@[simp] theorem State.changeRecord_now (s : State) (e : Epoch) (f : Record → Record) : (s.changeRecord e f).now = s.now := rfl
@[simp] theorem State.changeRecord_free (s : State) (e : Epoch) (f : Record → Record) : (s.changeRecord e f).free = s.free := rfl
@[simp] theorem State.changeRecord_clock (s : State) (e : Epoch) (f : Record → Record) : (s.changeRecord e f).clock = s.clock := rfl
@[simp] theorem State.changeRecord_line (s : State) (e : Epoch) (f : Record → Record) : (s.changeRecord e f).line = s.line := rfl
@[simp] theorem State.changeRecord_roster (s : State) (e : Epoch) (f : Record → Record) : (s.changeRecord e f).roster = s.roster := rfl
@[simp] theorem State.changeRecord_builder (s : State) (e : Epoch) (f : Record → Record) : (s.changeRecord e f).builder = s.builder := rfl
@[simp] theorem State.changeRecord_pool (s : State) (e : Epoch) (f : Record → Record) : (s.changeRecord e f).pool = s.pool := rfl
@[simp] theorem State.changeRecord_adjust (s : State) (e : Epoch) (f : Record → Record) : (s.changeRecord e f).adjust = s.adjust := rfl
@[simp] theorem State.changeRecord_ctl (s : State) (e : Epoch) (f : Record → Record) : (s.changeRecord e f).ctl = s.ctl := rfl
@[simp] theorem State.changeRecord_channels (s : State) (e : Epoch) (f : Record → Record) : (s.changeRecord e f).channels = s.channels := rfl
@[simp] theorem State.changeRecord_drives (s : State) (e : Epoch) (f : Record → Record) : (s.changeRecord e f).drives = s.drives := rfl
@[simp] theorem State.changeRecord_port (s : State) (e : Epoch) (f : Record → Record) : (s.changeRecord e f).port = s.port := rfl
@[simp] theorem State.changeRecord_inputs (s : State) (e : Epoch) (f : Record → Record) : (s.changeRecord e f).inputs = s.inputs := rfl
@[simp] theorem State.changeRecord_wires (s : State) (e : Epoch) (f : Record → Record) : (s.changeRecord e f).wires = s.wires := rfl
@[simp] theorem State.changeRecord_pending (s : State) (e : Epoch) (f : Record → Record) : (s.changeRecord e f).pending = s.pending := rfl

/-! createRecord -/

@[simp] theorem State.createRecord_now (s : State) (b : Bool) : (s.createRecord b).now = s.now := rfl
@[simp] theorem State.createRecord_free (s : State) (b : Bool) : (s.createRecord b).free = s.free := rfl
@[simp] theorem State.createRecord_clock (s : State) (b : Bool) : (s.createRecord b).clock = s.clock := rfl
@[simp] theorem State.createRecord_line (s : State) (b : Bool) : (s.createRecord b).line = s.line := rfl
@[simp] theorem State.createRecord_roster (s : State) (b : Bool) : (s.createRecord b).roster = s.roster := rfl
@[simp] theorem State.createRecord_builder (s : State) (b : Bool) : (s.createRecord b).builder = s.builder := rfl
@[simp] theorem State.createRecord_pool (s : State) (b : Bool) : (s.createRecord b).pool = s.pool := rfl
@[simp] theorem State.createRecord_adjust (s : State) (b : Bool) : (s.createRecord b).adjust = s.adjust := rfl
@[simp] theorem State.createRecord_ctl (s : State) (b : Bool) : (s.createRecord b).ctl = s.ctl := rfl
@[simp] theorem State.createRecord_channels (s : State) (b : Bool) : (s.createRecord b).channels = s.channels := rfl
@[simp] theorem State.createRecord_drives (s : State) (b : Bool) : (s.createRecord b).drives = s.drives := rfl
@[simp] theorem State.createRecord_port (s : State) (b : Bool) : (s.createRecord b).port = s.port := rfl
@[simp] theorem State.createRecord_inputs (s : State) (b : Bool) : (s.createRecord b).inputs = s.inputs := rfl
@[simp] theorem State.createRecord_wires (s : State) (b : Bool) : (s.createRecord b).wires = s.wires := rfl
@[simp] theorem State.createRecord_pending (s : State) (b : Bool) : (s.createRecord b).pending = s.pending := rfl

/-! queueAdjust -/

@[simp] theorem State.queueAdjust_now (s : State) (f : AdjustFrame) : (s.queueAdjust f).now = s.now := rfl
@[simp] theorem State.queueAdjust_free (s : State) (f : AdjustFrame) : (s.queueAdjust f).free = s.free := rfl
@[simp] theorem State.queueAdjust_clock (s : State) (f : AdjustFrame) : (s.queueAdjust f).clock = s.clock := rfl
@[simp] theorem State.queueAdjust_line (s : State) (f : AdjustFrame) : (s.queueAdjust f).line = s.line := rfl
@[simp] theorem State.queueAdjust_roster (s : State) (f : AdjustFrame) : (s.queueAdjust f).roster = s.roster := rfl
@[simp] theorem State.queueAdjust_builder (s : State) (f : AdjustFrame) : (s.queueAdjust f).builder = s.builder := rfl
@[simp] theorem State.queueAdjust_window (s : State) (f : AdjustFrame) : (s.queueAdjust f).window = s.window := rfl
@[simp] theorem State.queueAdjust_pool (s : State) (f : AdjustFrame) : (s.queueAdjust f).pool = s.pool := rfl
@[simp] theorem State.queueAdjust_ctl (s : State) (f : AdjustFrame) : (s.queueAdjust f).ctl = s.ctl := rfl
@[simp] theorem State.queueAdjust_channels (s : State) (f : AdjustFrame) : (s.queueAdjust f).channels = s.channels := rfl
@[simp] theorem State.queueAdjust_drives (s : State) (f : AdjustFrame) : (s.queueAdjust f).drives = s.drives := rfl
@[simp] theorem State.queueAdjust_port (s : State) (f : AdjustFrame) : (s.queueAdjust f).port = s.port := rfl
@[simp] theorem State.queueAdjust_inputs (s : State) (f : AdjustFrame) : (s.queueAdjust f).inputs = s.inputs := rfl
@[simp] theorem State.queueAdjust_wires (s : State) (f : AdjustFrame) : (s.queueAdjust f).wires = s.wires := rfl
@[simp] theorem State.queueAdjust_pending (s : State) (f : AdjustFrame) : (s.queueAdjust f).pending = s.pending := rfl

/-! The written fields. -/

@[simp] theorem State.raise_port (s : State) (b : Block) (k : EventKind) (u : Option Station) (v : BitVec 16) :
    (s.raise b k u v).port = { s.port with
      arising := s.port.arising ++ [(b, { kind := k, epoch := s.clock.cur, subject := u, value := v })] } := rfl

@[simp] theorem State.setRx_line (s : State) (x : Rx) : (s.setRx x).line = { s.line with rx := x } := rfl

@[simp] theorem State.atSample_now (s : State) (t : Instant) : (s.atSample t).now = s.due t := rfl

@[simp] theorem State.draw_free (s : State) : s.draw.free = s.free + 1 := rfl

@[simp] theorem State.later_now (s : State) (dt : Nat) : (s.later dt).now = s.now + dt := rfl

theorem State.until_now (s : State) (t : Instant) : (s.until t).now = s.due t := by
  rcases lt_or_ge s.now t with h | h
  · rw [State.until, State.due, if_pos h, max_eq_right (le_of_lt h)]
  · rw [State.until, State.due, if_neg (not_lt.mpr h), max_eq_left h]

@[simp] theorem State.until_eq (s : State) (t : Instant) : s.until t = { s with now := s.due t } := by
  rw [← s.until_now t]; rfl

@[simp] theorem State.setClean_pool (s : State) (c : Bool) : (s.setClean c).pool = { s.pool with clean := c } := rfl

@[simp] theorem State.setLife_ctl (s : State) (l : Life) (c : MuteCause) :
    (s.setLife l c).ctl = { s.ctl with life := l, cause := c } := rfl

@[simp] theorem State.setLife_port (s : State) (l : Life) (c : MuteCause) :
    (s.setLife l c).port = { s.port with
      arising := s.port.arising ++
        [(.controller, { kind := .state, epoch := s.clock.cur, subject := none, value := l.code ++ c.code })] } := rfl

@[simp] theorem State.answer_port (s : State) (o : PortOutcome) (r : List Byte) :
    (s.answer o r).port = s.port.answered o r := rfl

@[simp] theorem State.lineIdle_line (s : State) (t : Instant) :
    (s.lineIdle t).line = { s.line with state := .idle t, overlap := false, taken := false } := rfl

@[simp] theorem State.endTx_line (s : State) : s.endTx.line = { s.line with tx := none } := rfl

@[simp] theorem State.countDiscarded_line (s : State) : s.countDiscarded.line = { s.line with
    discarded := if s.line.discarded < 65535 then s.line.discarded + 1 else 65535 } := rfl

@[simp] theorem State.dropEntry_line (s : State) (k : QKey) :
    (s.dropEntry k).line = { s.line with queue := s.line.queue.filter (fun e => e.key != k) } := rfl

@[simp] theorem State.cutOff_line (s : State) : s.cutOff.line =
    { s.line with tx := none, overlap := false, queue := [], slotWaiting := none, taken := false } := rfl

@[simp] theorem State.beginFrame_line (s : State) (f : Frame) (o : TxOwner) : (s.beginFrame f o).line =
    { s.line with tx := some { frame := f, began := s.now, owner := o, changed := false }, state := .busy } := rfl

@[simp] theorem State.beginEpoch_clock (s : State) (x : Epoch) (p : Option Station) (o : Instant) (n : Nat) :
    (s.beginEpoch x p o n).clock = { s.clock with
      cur := x, pacing := p, origin := some o, slotTimer := .slots, slotCount := n, pending := false } := rfl

@[simp] theorem State.beginEpoch_line (s : State) (x : Epoch) (p : Option Station) (o : Instant) (n : Nat) :
    (s.beginEpoch x p o n).line = { s.line with slotWaiting := none } := rfl

@[simp] theorem State.reloadMarkTimer_clock (s : State) (t : Instant) :
    (s.reloadMarkTimer t).clock = { s.clock with timer := .running (t + s.markInterval) } := rfl

@[simp] theorem State.reloadSilence_ctl (s : State) :
    s.reloadSilence.ctl = { s.ctl with silence := some (s.now + s.listenSpan) } := rfl

@[simp] theorem State.setChannel_channels (s : State) (i : Fin 4) (c : Channel) :
    (s.setChannel i c).channels = s.channels.set i c := rfl

@[simp] theorem State.setPin_inputs (s : State) (i : Fin 4) (x : InputPin) (p : Pin) :
    (s.setPin i x p).inputs = { s.inputs with
      channels := s.inputs.channels.set i ((s.inputs.channels.get i).set x p) } := rfl

@[simp] theorem State.setTxn_port (s : State) (x : Option Txn) : (s.setTxn x).port = { s.port with txn := x } := rfl

@[simp] theorem State.cntFall_channels (s : State) (i : Fin 4) :
    (s.cntFall i).channels = s.channels.set i { s.channels.get i with cntHigh := false } := rfl

@[simp] theorem State.dirEdge_channels (s : State) (i : Fin 4) : (s.dirEdge i).channels =
    s.channels.set i { s.channels.get i with dirHigh := !(s.channels.get i).dirHigh } := rfl

@[simp] theorem State.closeGap_pool (s : State) (n : Station) (e : Epoch) : (s.closeGap n e).pool =
    { s.pool with gaps := s.pool.gaps.filter (fun g => g != { station := n, epoch := e }) } := rfl

@[simp] theorem State.dropHeld_pool (s : State) : s.dropHeld.pool = { s.pool with held := none } := rfl

@[simp] theorem State.changeRecord_records (s : State) (e : Epoch) (f : Record → Record) :
    (s.changeRecord e f).window.records = s.window.records.map (fun r => if r.epoch = e then f r else r) := rfl

@[simp] theorem State.changeRecord_asked (s : State) (e : Epoch) (f : Record → Record) :
    (s.changeRecord e f).window.asked = s.window.asked := rfl

end Sys2Proof.Machine
end

