-- ==== Sys2Proof/Laws/Tables.lean ====
section
/-! SUPPORT. Reading a table after it was filled, set or mapped, and when two tables are equal. -/

namespace Sys2Proof

theorem Tbl.get_eq_getElem {α : Type} {n : Nat} (t : Tbl α n) (i : Fin n) :
    t.get i = t.rows[i.val]'(t.size.symm ▸ i.isLt) := rfl

@[simp] theorem Tbl.get_fill {α : Type} {n : Nat} (a : α) (i : Fin n) : (Tbl.fill n a).get i = a := by
  simp [Tbl.get, Tbl.fill]

@[simp] theorem Tbl.get_set_same {α : Type} {n : Nat} (t : Tbl α n) (i : Fin n) (a : α) : (t.set i a).get i = a := by
  simp [Tbl.get, Tbl.set]

theorem Tbl.get_set_ne {α : Type} {n : Nat} (t : Tbl α n) {i j : Fin n} (a : α) (h : j ≠ i) :
    (t.set i a).get j = t.get j := by
  have h' : i.val ≠ j.val := fun e => h (Fin.ext e.symm)
  simp [Tbl.get, Tbl.set, List.getElem_set_ne h']

theorem Tbl.get_set {α : Type} {n : Nat} (t : Tbl α n) (i j : Fin n) (a : α) :
    (t.set i a).get j = if j = i then a else t.get j := by
  by_cases h : j = i
  · subst h; simp
  · rw [Tbl.get_set_ne t a h, if_neg h]

@[simp] theorem Tbl.get_map {α : Type} {n : Nat} (f : α → α) (t : Tbl α n) (i : Fin n) : (t.map f).get i = f (t.get i) := by
  simp [Tbl.get, Tbl.map]

/-- Two tables with the same rows are equal. -/
theorem Tbl.ext_get {α : Type} {n : Nat} {t u : Tbl α n} (h : ∀ i, t.get i = u.get i) : t = u := by
  obtain ⟨r, hr⟩ := t
  obtain ⟨q, hq⟩ := u
  have : r = q := by
    apply List.ext_getElem (hr.trans hq.symm)
    intro i h1 h2
    have := h ⟨i, hr ▸ h1⟩
    simpa [Tbl.get] using this
  subst this
  rfl

@[simp] theorem Tbl.set_get_self {α : Type} {n : Nat} (t : Tbl α n) (i : Fin n) : t.set i (t.get i) = t :=
  Tbl.ext_get (fun j => by rw [Tbl.get_set]; split <;> simp_all)

end Sys2Proof
end

