-- ==== Sys2Proof/Laws/Untouched.lean ====
section
/-! SUPPORT. What the shared operations with cases leave alone: for each one the parts of the state it never writes. A
later proof cites these instead of unfolding the operation. -/

namespace Sys2Proof.Machine

/-- A part of the state that every step of a fold leaves alone is left alone by the fold. -/
theorem foldl_keeps {α β γ : Type} (part : β → γ) (f : β → α → β) (h : ∀ b a, part (f b a) = part b) (l : List α) (b : β) :
    part (l.foldl f b) = part b := by
  induction l generalizing b with
  | nil => rfl
  | cons a t ih => rw [List.foldl_cons, ih, h]

@[simp] theorem State.setAgreementFor_frame (s : State) (u : Option Station) (a : Agreement) :
    (s.setAgreementFor u a).now = s.now ∧
    (s.setAgreementFor u a).free = s.free ∧
    (s.setAgreementFor u a).clock = s.clock ∧
    (s.setAgreementFor u a).line = s.line ∧
    (s.setAgreementFor u a).roster = s.roster ∧
    (s.setAgreementFor u a).builder = s.builder ∧
    (s.setAgreementFor u a).window = s.window ∧
    (s.setAgreementFor u a).adjust = s.adjust ∧
    (s.setAgreementFor u a).ctl = s.ctl ∧
    (s.setAgreementFor u a).channels = s.channels ∧
    (s.setAgreementFor u a).drives = s.drives ∧
    (s.setAgreementFor u a).inputs = s.inputs ∧
    (s.setAgreementFor u a).wires = s.wires ∧
    (s.setAgreementFor u a).pending = s.pending := by
  unfold State.setAgreementFor; split <;> simp

@[simp] theorem State.setAgreement_frame (s : State) (a : Agreement) :
    (s.setAgreement a).now = s.now ∧
    (s.setAgreement a).free = s.free ∧
    (s.setAgreement a).clock = s.clock ∧
    (s.setAgreement a).line = s.line ∧
    (s.setAgreement a).roster = s.roster ∧
    (s.setAgreement a).builder = s.builder ∧
    (s.setAgreement a).window = s.window ∧
    (s.setAgreement a).adjust = s.adjust ∧
    (s.setAgreement a).ctl = s.ctl ∧
    (s.setAgreement a).channels = s.channels ∧
    (s.setAgreement a).drives = s.drives ∧
    (s.setAgreement a).inputs = s.inputs ∧
    (s.setAgreement a).wires = s.wires ∧
    (s.setAgreement a).pending = s.pending := by
  simp [State.setAgreement]

@[simp] theorem State.loseClean_frame (s : State) :
    (s.loseClean).now = s.now ∧
    (s.loseClean).free = s.free ∧
    (s.loseClean).clock = s.clock ∧
    (s.loseClean).line = s.line ∧
    (s.loseClean).roster = s.roster ∧
    (s.loseClean).builder = s.builder ∧
    (s.loseClean).window = s.window ∧
    (s.loseClean).adjust = s.adjust ∧
    (s.loseClean).ctl = s.ctl ∧
    (s.loseClean).channels = s.channels ∧
    (s.loseClean).drives = s.drives ∧
    (s.loseClean).inputs = s.inputs ∧
    (s.loseClean).wires = s.wires ∧
    (s.loseClean).pending = s.pending := by
  unfold State.loseClean; split <;> simp

@[simp] theorem State.refreshDrive_frame (s : State) (ag : Agreement) (i : Fin 4) :
    (s.refreshDrive ag i).now = s.now ∧
    (s.refreshDrive ag i).free = s.free ∧
    (s.refreshDrive ag i).clock = s.clock ∧
    (s.refreshDrive ag i).line = s.line ∧
    (s.refreshDrive ag i).roster = s.roster ∧
    (s.refreshDrive ag i).builder = s.builder ∧
    (s.refreshDrive ag i).window = s.window ∧
    (s.refreshDrive ag i).pool = s.pool ∧
    (s.refreshDrive ag i).adjust = s.adjust ∧
    (s.refreshDrive ag i).ctl = s.ctl ∧
    (s.refreshDrive ag i).channels = s.channels ∧
    (s.refreshDrive ag i).inputs = s.inputs ∧
    (s.refreshDrive ag i).wires = s.wires ∧
    (s.refreshDrive ag i).pending = s.pending := by
  simp only [State.refreshDrive]; split <;> simp

@[simp] theorem State.refreshDrivesFor_frame (s : State) (ag : Agreement) :
    (s.refreshDrivesFor ag).now = s.now ∧
    (s.refreshDrivesFor ag).free = s.free ∧
    (s.refreshDrivesFor ag).clock = s.clock ∧
    (s.refreshDrivesFor ag).line = s.line ∧
    (s.refreshDrivesFor ag).roster = s.roster ∧
    (s.refreshDrivesFor ag).builder = s.builder ∧
    (s.refreshDrivesFor ag).window = s.window ∧
    (s.refreshDrivesFor ag).pool = s.pool ∧
    (s.refreshDrivesFor ag).adjust = s.adjust ∧
    (s.refreshDrivesFor ag).ctl = s.ctl ∧
    (s.refreshDrivesFor ag).channels = s.channels ∧
    (s.refreshDrivesFor ag).inputs = s.inputs ∧
    (s.refreshDrivesFor ag).wires = s.wires ∧
    (s.refreshDrivesFor ag).pending = s.pending := by
  simp [State.refreshDrivesFor, indexes4]

@[simp] theorem State.refreshDrives_frame (s : State) :
    (s.refreshDrives).now = s.now ∧
    (s.refreshDrives).free = s.free ∧
    (s.refreshDrives).clock = s.clock ∧
    (s.refreshDrives).line = s.line ∧
    (s.refreshDrives).roster = s.roster ∧
    (s.refreshDrives).builder = s.builder ∧
    (s.refreshDrives).window = s.window ∧
    (s.refreshDrives).pool = s.pool ∧
    (s.refreshDrives).adjust = s.adjust ∧
    (s.refreshDrives).ctl = s.ctl ∧
    (s.refreshDrives).channels = s.channels ∧
    (s.refreshDrives).inputs = s.inputs ∧
    (s.refreshDrives).wires = s.wires ∧
    (s.refreshDrives).pending = s.pending := by
  simp [State.refreshDrives]

@[simp] theorem State.agree_frame (s : State) (a : Agreement) :
    (s.agree a).now = s.now ∧
    (s.agree a).free = s.free ∧
    (s.agree a).clock = s.clock ∧
    (s.agree a).line = s.line ∧
    (s.agree a).roster = s.roster ∧
    (s.agree a).builder = s.builder ∧
    (s.agree a).window = s.window ∧
    (s.agree a).adjust = s.adjust ∧
    (s.agree a).ctl = s.ctl ∧
    (s.agree a).channels = s.channels ∧
    (s.agree a).inputs = s.inputs ∧
    (s.agree a).wires = s.wires ∧
    (s.agree a).pending = s.pending := by
  simp [State.agree]

@[simp] theorem State.evaluateDrive_frame (s : State) (i : Fin 4) :
    (s.evaluateDrive i).now = s.now ∧
    (s.evaluateDrive i).free = s.free ∧
    (s.evaluateDrive i).clock = s.clock ∧
    (s.evaluateDrive i).line = s.line ∧
    (s.evaluateDrive i).roster = s.roster ∧
    (s.evaluateDrive i).builder = s.builder ∧
    (s.evaluateDrive i).window = s.window ∧
    (s.evaluateDrive i).pool = s.pool ∧
    (s.evaluateDrive i).adjust = s.adjust ∧
    (s.evaluateDrive i).ctl = s.ctl ∧
    (s.evaluateDrive i).channels = s.channels ∧
    (s.evaluateDrive i).port = s.port ∧
    (s.evaluateDrive i).inputs = s.inputs ∧
    (s.evaluateDrive i).wires = s.wires ∧
    (s.evaluateDrive i).pending = s.pending := by
  simp only [State.evaluateDrive]; split <;> simp

@[simp] theorem State.evaluateDrives_frame (s : State) :
    (s.evaluateDrives).now = s.now ∧
    (s.evaluateDrives).free = s.free ∧
    (s.evaluateDrives).clock = s.clock ∧
    (s.evaluateDrives).line = s.line ∧
    (s.evaluateDrives).roster = s.roster ∧
    (s.evaluateDrives).builder = s.builder ∧
    (s.evaluateDrives).window = s.window ∧
    (s.evaluateDrives).pool = s.pool ∧
    (s.evaluateDrives).adjust = s.adjust ∧
    (s.evaluateDrives).ctl = s.ctl ∧
    (s.evaluateDrives).channels = s.channels ∧
    (s.evaluateDrives).port = s.port ∧
    (s.evaluateDrives).inputs = s.inputs ∧
    (s.evaluateDrives).wires = s.wires ∧
    (s.evaluateDrives).pending = s.pending := by
  simp [State.evaluateDrives, indexes4]

@[simp] theorem State.reportDiscarded_frame (s : State) :
    (s.reportDiscarded).now = s.now ∧
    (s.reportDiscarded).free = s.free ∧
    (s.reportDiscarded).clock = s.clock ∧
    (s.reportDiscarded).roster = s.roster ∧
    (s.reportDiscarded).builder = s.builder ∧
    (s.reportDiscarded).window = s.window ∧
    (s.reportDiscarded).pool = s.pool ∧
    (s.reportDiscarded).adjust = s.adjust ∧
    (s.reportDiscarded).ctl = s.ctl ∧
    (s.reportDiscarded).channels = s.channels ∧
    (s.reportDiscarded).drives = s.drives ∧
    (s.reportDiscarded).inputs = s.inputs ∧
    (s.reportDiscarded).wires = s.wires ∧
    (s.reportDiscarded).pending = s.pending := by
  unfold State.reportDiscarded; split <;> simp

@[simp] theorem State.offer_frame (s : State) (k : QKey) (t : Option Station) (p : Option (List Pair)) :
    (s.offer k t p).1.now = s.now ∧
    (s.offer k t p).1.free = s.free ∧
    (s.offer k t p).1.clock = s.clock ∧
    (s.offer k t p).1.roster = s.roster ∧
    (s.offer k t p).1.builder = s.builder ∧
    (s.offer k t p).1.window = s.window ∧
    (s.offer k t p).1.pool = s.pool ∧
    (s.offer k t p).1.adjust = s.adjust ∧
    (s.offer k t p).1.ctl = s.ctl ∧
    (s.offer k t p).1.channels = s.channels ∧
    (s.offer k t p).1.drives = s.drives ∧
    (s.offer k t p).1.port = s.port ∧
    (s.offer k t p).1.inputs = s.inputs ∧
    (s.offer k t p).1.wires = s.wires ∧
    (s.offer k t p).1.pending = s.pending := by
  unfold State.offer; split
  · simp
  · split
    · simp
    · split <;> simp

@[simp] theorem State.offerKey_frame (s : State) (k : QKey) :
    (s.offerKey k).now = s.now ∧
    (s.offerKey k).free = s.free ∧
    (s.offerKey k).clock = s.clock ∧
    (s.offerKey k).roster = s.roster ∧
    (s.offerKey k).builder = s.builder ∧
    (s.offerKey k).window = s.window ∧
    (s.offerKey k).pool = s.pool ∧
    (s.offerKey k).adjust = s.adjust ∧
    (s.offerKey k).ctl = s.ctl ∧
    (s.offerKey k).channels = s.channels ∧
    (s.offerKey k).drives = s.drives ∧
    (s.offerKey k).port = s.port ∧
    (s.offerKey k).inputs = s.inputs ∧
    (s.offerKey k).wires = s.wires ∧
    (s.offerKey k).pending = s.pending := by
  simp [State.offerKey]

@[simp] theorem State.setEntry_frame (s : State) (n : Station) (e : RosterEntry) :
    (s.setEntry n e).now = s.now ∧
    (s.setEntry n e).free = s.free ∧
    (s.setEntry n e).clock = s.clock ∧
    (s.setEntry n e).line = s.line ∧
    (s.setEntry n e).builder = s.builder ∧
    (s.setEntry n e).window = s.window ∧
    (s.setEntry n e).pool = s.pool ∧
    (s.setEntry n e).adjust = s.adjust ∧
    (s.setEntry n e).ctl = s.ctl ∧
    (s.setEntry n e).channels = s.channels ∧
    (s.setEntry n e).drives = s.drives ∧
    (s.setEntry n e).inputs = s.inputs ∧
    (s.setEntry n e).wires = s.wires ∧
    (s.setEntry n e).pending = s.pending := by
  simp only [State.setEntry]; split <;> simp

@[simp] theorem State.conflictFreeMark_frame (s : State) :
    (s.conflictFreeMark).now = s.now ∧
    (s.conflictFreeMark).free = s.free ∧
    (s.conflictFreeMark).clock = s.clock ∧
    (s.conflictFreeMark).line = s.line ∧
    (s.conflictFreeMark).builder = s.builder ∧
    (s.conflictFreeMark).window = s.window ∧
    (s.conflictFreeMark).pool = s.pool ∧
    (s.conflictFreeMark).adjust = s.adjust ∧
    (s.conflictFreeMark).ctl = s.ctl ∧
    (s.conflictFreeMark).channels = s.channels ∧
    (s.conflictFreeMark).drives = s.drives ∧
    (s.conflictFreeMark).port = s.port ∧
    (s.conflictFreeMark).inputs = s.inputs ∧
    (s.conflictFreeMark).wires = s.wires ∧
    (s.conflictFreeMark).pending = s.pending := by
  unfold State.conflictFreeMark; split
  · simp
  · split <;> simp

@[simp] theorem State.capture_frame (s : State) (b : Bool) :
    (s.capture b).now = s.now ∧
    (s.capture b).free = s.free ∧
    (s.capture b).clock = s.clock ∧
    (s.capture b).roster = s.roster ∧
    (s.capture b).window = s.window ∧
    (s.capture b).pool = s.pool ∧
    (s.capture b).adjust = s.adjust ∧
    (s.capture b).ctl = s.ctl ∧
    (s.capture b).drives = s.drives ∧
    (s.capture b).port = s.port ∧
    (s.capture b).inputs = s.inputs ∧
    (s.capture b).wires = s.wires ∧
    (s.capture b).pending = s.pending := by
  simp only [State.capture]; split <;> simp

@[simp] theorem State.reloadInRun_frame (s : State) (t : Instant) :
    (s.reloadInRun t).now = s.now ∧
    (s.reloadInRun t).free = s.free ∧
    (s.reloadInRun t).line = s.line ∧
    (s.reloadInRun t).roster = s.roster ∧
    (s.reloadInRun t).builder = s.builder ∧
    (s.reloadInRun t).window = s.window ∧
    (s.reloadInRun t).pool = s.pool ∧
    (s.reloadInRun t).adjust = s.adjust ∧
    (s.reloadInRun t).ctl = s.ctl ∧
    (s.reloadInRun t).channels = s.channels ∧
    (s.reloadInRun t).drives = s.drives ∧
    (s.reloadInRun t).port = s.port ∧
    (s.reloadInRun t).inputs = s.inputs ∧
    (s.reloadInRun t).wires = s.wires ∧
    (s.reloadInRun t).pending = s.pending := by
  unfold State.reloadInRun; split <;> simp

@[simp] theorem State.addBalance_frame (s : State) (p : Fin 8) (v : BitVec 32) :
    (s.addBalance p v).now = s.now ∧
    (s.addBalance p v).free = s.free ∧
    (s.addBalance p v).clock = s.clock ∧
    (s.addBalance p v).line = s.line ∧
    (s.addBalance p v).roster = s.roster ∧
    (s.addBalance p v).builder = s.builder ∧
    (s.addBalance p v).window = s.window ∧
    (s.addBalance p v).adjust = s.adjust ∧
    (s.addBalance p v).ctl = s.ctl ∧
    (s.addBalance p v).channels = s.channels ∧
    (s.addBalance p v).drives = s.drives ∧
    (s.addBalance p v).inputs = s.inputs ∧
    (s.addBalance p v).wires = s.wires ∧
    (s.addBalance p v).pending = s.pending := by
  simp only [State.addBalance]; split
  · simp
  · split <;> simp

/-- Whatever every addition leaves alone, adding each of a list of values leaves alone. -/
theorem State.addEach_keeps {γ : Type} (part : State → γ) (h : ∀ s p v, part (State.addBalance s p v) = part s)
    (l : List (BitVec 32)) (s : State) (i : Nat) : part (s.addEach i l) = part s := by
  induction l generalizing s i with
  | nil => rfl
  | cons v t ih =>
    rw [State.addEach, ih]
    split
    · exact h _ _ _
    · rfl

@[simp] theorem State.addEach_frame (s : State) (i : Nat) (l : List (BitVec 32)) :
    (s.addEach i l).now = s.now ∧
    (s.addEach i l).free = s.free ∧
    (s.addEach i l).clock = s.clock ∧
    (s.addEach i l).line = s.line ∧
    (s.addEach i l).roster = s.roster ∧
    (s.addEach i l).builder = s.builder ∧
    (s.addEach i l).window = s.window ∧
    (s.addEach i l).adjust = s.adjust ∧
    (s.addEach i l).ctl = s.ctl ∧
    (s.addEach i l).channels = s.channels ∧
    (s.addEach i l).drives = s.drives ∧
    (s.addEach i l).inputs = s.inputs ∧
    (s.addEach i l).wires = s.wires ∧
    (s.addEach i l).pending = s.pending := by
  refine ⟨?_, ?_, ?_, ?_, ?_, ?_, ?_, ?_, ?_, ?_, ?_, ?_, ?_, ?_⟩ <;>
    exact State.addEach_keeps _ (by simp) l s i

@[simp] theorem State.applyItem_frame (s : State) (i : AdjItem) :
    (s.applyItem i).now = s.now ∧
    (s.applyItem i).free = s.free ∧
    (s.applyItem i).clock = s.clock ∧
    (s.applyItem i).line = s.line ∧
    (s.applyItem i).roster = s.roster ∧
    (s.applyItem i).builder = s.builder ∧
    (s.applyItem i).window = s.window ∧
    (s.applyItem i).adjust = s.adjust ∧
    (s.applyItem i).ctl = s.ctl ∧
    (s.applyItem i).channels = s.channels ∧
    (s.applyItem i).drives = s.drives ∧
    (s.applyItem i).inputs = s.inputs ∧
    (s.applyItem i).wires = s.wires ∧
    (s.applyItem i).pending = s.pending := by
  unfold State.applyItem; split
  · split <;> simp
  · simp

@[simp] theorem State.applyItems_frame (s : State) (a : Adjustment) :
    (s.applyItems a).now = s.now ∧
    (s.applyItems a).free = s.free ∧
    (s.applyItems a).clock = s.clock ∧
    (s.applyItems a).line = s.line ∧
    (s.applyItems a).roster = s.roster ∧
    (s.applyItems a).builder = s.builder ∧
    (s.applyItems a).window = s.window ∧
    (s.applyItems a).adjust = s.adjust ∧
    (s.applyItems a).ctl = s.ctl ∧
    (s.applyItems a).channels = s.channels ∧
    (s.applyItems a).drives = s.drives ∧
    (s.applyItems a).inputs = s.inputs ∧
    (s.applyItems a).wires = s.wires ∧
    (s.applyItems a).pending = s.pending := by
  unfold State.applyItems
  refine ⟨?_, ?_, ?_, ?_, ?_, ?_, ?_, ?_, ?_, ?_, ?_, ?_, ?_, ?_⟩ <;>
    exact foldl_keeps _ _ (by simp) _ s

@[simp] theorem State.applyDue_frame (s : State) (a : Adjustment) :
    (s.applyDue a).now = s.now ∧
    (s.applyDue a).free = s.free ∧
    (s.applyDue a).clock = s.clock ∧
    (s.applyDue a).line = s.line ∧
    (s.applyDue a).roster = s.roster ∧
    (s.applyDue a).builder = s.builder ∧
    (s.applyDue a).window = s.window ∧
    (s.applyDue a).adjust = s.adjust ∧
    (s.applyDue a).ctl = s.ctl ∧
    (s.applyDue a).channels = s.channels ∧
    (s.applyDue a).drives = s.drives ∧
    (s.applyDue a).inputs = s.inputs ∧
    (s.applyDue a).wires = s.wires ∧
    (s.applyDue a).pending = s.pending := by
  simp [State.applyDue]

@[simp] theorem State.replayRecord_frame (s : State) (r : Record) :
    (s.replayRecord r).now = s.now ∧
    (s.replayRecord r).free = s.free ∧
    (s.replayRecord r).clock = s.clock ∧
    (s.replayRecord r).line = s.line ∧
    (s.replayRecord r).roster = s.roster ∧
    (s.replayRecord r).builder = s.builder ∧
    (s.replayRecord r).window = s.window ∧
    (s.replayRecord r).adjust = s.adjust ∧
    (s.replayRecord r).ctl = s.ctl ∧
    (s.replayRecord r).channels = s.channels ∧
    (s.replayRecord r).drives = s.drives ∧
    (s.replayRecord r).inputs = s.inputs ∧
    (s.replayRecord r).wires = s.wires ∧
    (s.replayRecord r).pending = s.pending := by
  unfold State.replayRecord
  refine ⟨(foldl_keeps State.now _ (by simp) _ _).trans (by simp), (foldl_keeps State.free _ (by simp) _ _).trans (by simp), (foldl_keeps State.clock _ (by simp) _ _).trans (by simp), (foldl_keeps State.line _ (by simp) _ _).trans (by simp), (foldl_keeps State.roster _ (by simp) _ _).trans (by simp), (foldl_keeps State.builder _ (by simp) _ _).trans (by simp), (foldl_keeps State.window _ (by simp) _ _).trans (by simp), (foldl_keeps State.adjust _ (by simp) _ _).trans (by simp), (foldl_keeps State.ctl _ (by simp) _ _).trans (by simp), (foldl_keeps State.channels _ (by simp) _ _).trans (by simp), (foldl_keeps State.drives _ (by simp) _ _).trans (by simp), (foldl_keeps State.inputs _ (by simp) _ _).trans (by simp), (foldl_keeps State.wires _ (by simp) _ _).trans (by simp), (foldl_keeps State.pending _ (by simp) _ _).trans (by simp)⟩

@[simp] theorem State.openGaps_frame (s : State) (r : Record) :
    (s.openGaps r).now = s.now ∧
    (s.openGaps r).free = s.free ∧
    (s.openGaps r).clock = s.clock ∧
    (s.openGaps r).line = s.line ∧
    (s.openGaps r).roster = s.roster ∧
    (s.openGaps r).builder = s.builder ∧
    (s.openGaps r).window = s.window ∧
    (s.openGaps r).adjust = s.adjust ∧
    (s.openGaps r).ctl = s.ctl ∧
    (s.openGaps r).channels = s.channels ∧
    (s.openGaps r).drives = s.drives ∧
    (s.openGaps r).inputs = s.inputs ∧
    (s.openGaps r).wires = s.wires ∧
    (s.openGaps r).pending = s.pending := by
  simp only [State.openGaps]; split <;> simp

@[simp] theorem State.expireGaps_frame (s : State) (e : Epoch) :
    (s.expireGaps e).now = s.now ∧
    (s.expireGaps e).free = s.free ∧
    (s.expireGaps e).clock = s.clock ∧
    (s.expireGaps e).line = s.line ∧
    (s.expireGaps e).roster = s.roster ∧
    (s.expireGaps e).builder = s.builder ∧
    (s.expireGaps e).window = s.window ∧
    (s.expireGaps e).adjust = s.adjust ∧
    (s.expireGaps e).ctl = s.ctl ∧
    (s.expireGaps e).channels = s.channels ∧
    (s.expireGaps e).drives = s.drives ∧
    (s.expireGaps e).inputs = s.inputs ∧
    (s.expireGaps e).wires = s.wires ∧
    (s.expireGaps e).pending = s.pending := by
  simp only [State.expireGaps]; split
  · simp
  · simp only [State.loseClean_frame]
    refine ⟨?_, ?_, ?_, ?_, ?_, ?_, ?_, ?_, ?_, ?_, ?_, ?_, ?_, ?_⟩ <;>
      exact foldl_keeps _ _ (by simp) _ _

@[simp] theorem State.applyDueAt_frame (s : State) (e : Epoch) :
    (s.applyDueAt e).now = s.now ∧
    (s.applyDueAt e).free = s.free ∧
    (s.applyDueAt e).clock = s.clock ∧
    (s.applyDueAt e).line = s.line ∧
    (s.applyDueAt e).roster = s.roster ∧
    (s.applyDueAt e).builder = s.builder ∧
    (s.applyDueAt e).ctl = s.ctl ∧
    (s.applyDueAt e).channels = s.channels ∧
    (s.applyDueAt e).drives = s.drives ∧
    (s.applyDueAt e).inputs = s.inputs ∧
    (s.applyDueAt e).wires = s.wires ∧
    (s.applyDueAt e).pending = s.pending := by
  simp only [State.applyDueAt]
  refine ⟨(foldl_keeps State.now _ (by simp) _ _), (foldl_keeps State.free _ (by simp) _ _), (foldl_keeps State.clock _ (by simp) _ _), (foldl_keeps State.line _ (by simp) _ _), (foldl_keeps State.roster _ (by simp) _ _), (foldl_keeps State.builder _ (by simp) _ _), (foldl_keeps State.ctl _ (by simp) _ _), (foldl_keeps State.channels _ (by simp) _ _), (foldl_keeps State.drives _ (by simp) _ _), (foldl_keeps State.inputs _ (by simp) _ _), (foldl_keeps State.wires _ (by simp) _ _), (foldl_keeps State.pending _ (by simp) _ _)⟩

@[simp] theorem State.foldRecord_frame (s : State) (r : Record) :
    (s.foldRecord r).now = s.now ∧
    (s.foldRecord r).free = s.free ∧
    (s.foldRecord r).clock = s.clock ∧
    (s.foldRecord r).line = s.line ∧
    (s.foldRecord r).roster = s.roster ∧
    (s.foldRecord r).builder = s.builder ∧
    (s.foldRecord r).ctl = s.ctl ∧
    (s.foldRecord r).channels = s.channels ∧
    (s.foldRecord r).drives = s.drives ∧
    (s.foldRecord r).inputs = s.inputs ∧
    (s.foldRecord r).wires = s.wires ∧
    (s.foldRecord r).pending = s.pending := by
  simp [State.foldRecord]

@[simp] theorem State.lateFold_frame (s : State) (o : Option Epoch) :
    (s.lateFold o).now = s.now ∧
    (s.lateFold o).free = s.free ∧
    (s.lateFold o).clock = s.clock ∧
    (s.lateFold o).line = s.line ∧
    (s.lateFold o).roster = s.roster ∧
    (s.lateFold o).builder = s.builder ∧
    (s.lateFold o).adjust = s.adjust ∧
    (s.lateFold o).ctl = s.ctl ∧
    (s.lateFold o).channels = s.channels ∧
    (s.lateFold o).drives = s.drives ∧
    (s.lateFold o).inputs = s.inputs ∧
    (s.lateFold o).wires = s.wires ∧
    (s.lateFold o).pending = s.pending := by
  simp only [State.lateFold]
  refine ⟨?_, ?_, ?_, ?_, ?_, ?_, ?_, ?_, ?_, ?_, ?_, ?_, ?_⟩ <;>
    exact foldl_keeps _ _ (by simp) _ s

@[simp] theorem State.foldAtMark_frame (s : State) :
    (s.foldAtMark).now = s.now ∧
    (s.foldAtMark).free = s.free ∧
    (s.foldAtMark).clock = s.clock ∧
    (s.foldAtMark).line = s.line ∧
    (s.foldAtMark).roster = s.roster ∧
    (s.foldAtMark).builder = s.builder ∧
    (s.foldAtMark).ctl = s.ctl ∧
    (s.foldAtMark).channels = s.channels ∧
    (s.foldAtMark).drives = s.drives ∧
    (s.foldAtMark).inputs = s.inputs ∧
    (s.foldAtMark).wires = s.wires ∧
    (s.foldAtMark).pending = s.pending := by
  simp only [State.foldAtMark]; split
  · split <;> simp
  · simp

@[simp] theorem State.age_frame (s : State) :
    (s.age).now = s.now ∧
    (s.age).free = s.free ∧
    (s.age).clock = s.clock ∧
    (s.age).line = s.line ∧
    (s.age).roster = s.roster ∧
    (s.age).builder = s.builder ∧
    (s.age).adjust = s.adjust ∧
    (s.age).ctl = s.ctl ∧
    (s.age).channels = s.channels ∧
    (s.age).drives = s.drives ∧
    (s.age).inputs = s.inputs ∧
    (s.age).wires = s.wires ∧
    (s.age).pending = s.pending := by
  unfold State.age; split
  · simp
  · split <;> simp

@[simp] theorem State.windowMark_frame (s : State) (b : Bool) :
    (s.windowMark b).now = s.now ∧
    (s.windowMark b).free = s.free ∧
    (s.windowMark b).clock = s.clock ∧
    (s.windowMark b).line = s.line ∧
    (s.windowMark b).roster = s.roster ∧
    (s.windowMark b).builder = s.builder ∧
    (s.windowMark b).ctl = s.ctl ∧
    (s.windowMark b).channels = s.channels ∧
    (s.windowMark b).drives = s.drives ∧
    (s.windowMark b).inputs = s.inputs ∧
    (s.windowMark b).wires = s.wires ∧
    (s.windowMark b).pending = s.pending := by
  simp [State.windowMark]

@[simp] theorem State.takeReport_frame (s : State) (n : Station) (e : Epoch) (d : List (BitVec 16)) :
    (s.takeReport n e d).now = s.now ∧
    (s.takeReport n e d).free = s.free ∧
    (s.takeReport n e d).clock = s.clock ∧
    (s.takeReport n e d).line = s.line ∧
    (s.takeReport n e d).roster = s.roster ∧
    (s.takeReport n e d).builder = s.builder ∧
    (s.takeReport n e d).adjust = s.adjust ∧
    (s.takeReport n e d).ctl = s.ctl ∧
    (s.takeReport n e d).channels = s.channels ∧
    (s.takeReport n e d).drives = s.drives ∧
    (s.takeReport n e d).port = s.port ∧
    (s.takeReport n e d).inputs = s.inputs ∧
    (s.takeReport n e d).wires = s.wires ∧
    (s.takeReport n e d).pending = s.pending := by
  unfold State.takeReport; split
  · simp
  · dsimp only; split <;> simp

@[simp] theorem State.offerSnapshotPart_frame (s : State) :
    (s.offerSnapshotPart).1.now = s.now ∧
    (s.offerSnapshotPart).1.free = s.free ∧
    (s.offerSnapshotPart).1.clock = s.clock ∧
    (s.offerSnapshotPart).1.roster = s.roster ∧
    (s.offerSnapshotPart).1.builder = s.builder ∧
    (s.offerSnapshotPart).1.window = s.window ∧
    (s.offerSnapshotPart).1.pool = s.pool ∧
    (s.offerSnapshotPart).1.adjust = s.adjust ∧
    (s.offerSnapshotPart).1.ctl = s.ctl ∧
    (s.offerSnapshotPart).1.channels = s.channels ∧
    (s.offerSnapshotPart).1.drives = s.drives ∧
    (s.offerSnapshotPart).1.port = s.port ∧
    (s.offerSnapshotPart).1.inputs = s.inputs ∧
    (s.offerSnapshotPart).1.wires = s.wires ∧
    (s.offerSnapshotPart).1.pending = s.pending := by
  unfold State.offerSnapshotPart; split
  · simp
  · split <;> simp

@[simp] theorem State.requestSnapshot_frame (s : State) :
    (s.requestSnapshot).now = s.now ∧
    (s.requestSnapshot).free = s.free ∧
    (s.requestSnapshot).clock = s.clock ∧
    (s.requestSnapshot).roster = s.roster ∧
    (s.requestSnapshot).builder = s.builder ∧
    (s.requestSnapshot).window = s.window ∧
    (s.requestSnapshot).adjust = s.adjust ∧
    (s.requestSnapshot).ctl = s.ctl ∧
    (s.requestSnapshot).channels = s.channels ∧
    (s.requestSnapshot).inputs = s.inputs ∧
    (s.requestSnapshot).wires = s.wires ∧
    (s.requestSnapshot).pending = s.pending := by
  simp only [State.requestSnapshot]; split <;> simp

@[simp] theorem State.compareWith_frame (s : State) (h : HistEntry) (d : Digest) (c : Bool) :
    (s.compareWith h d c).now = s.now ∧
    (s.compareWith h d c).free = s.free ∧
    (s.compareWith h d c).clock = s.clock ∧
    (s.compareWith h d c).roster = s.roster ∧
    (s.compareWith h d c).builder = s.builder ∧
    (s.compareWith h d c).window = s.window ∧
    (s.compareWith h d c).adjust = s.adjust ∧
    (s.compareWith h d c).ctl = s.ctl ∧
    (s.compareWith h d c).channels = s.channels ∧
    (s.compareWith h d c).inputs = s.inputs ∧
    (s.compareWith h d c).wires = s.wires ∧
    (s.compareWith h d c).pending = s.pending := by
  simp only [State.compareWith]; split
  · simp
  · split
    · simp
    · split <;> simp

@[simp] theorem State.compare_frame (s : State) (f : ReportFrame) :
    (s.compare f).now = s.now ∧
    (s.compare f).free = s.free ∧
    (s.compare f).clock = s.clock ∧
    (s.compare f).roster = s.roster ∧
    (s.compare f).builder = s.builder ∧
    (s.compare f).window = s.window ∧
    (s.compare f).adjust = s.adjust ∧
    (s.compare f).ctl = s.ctl ∧
    (s.compare f).channels = s.channels ∧
    (s.compare f).inputs = s.inputs ∧
    (s.compare f).wires = s.wires ∧
    (s.compare f).pending = s.pending := by
  unfold State.compare; split
  · split
    · simp
    · split <;> simp
  · simp

@[simp] theorem State.holdSnapshot_frame (s : State) (f : SnapshotFrame) :
    (s.holdSnapshot f).now = s.now ∧
    (s.holdSnapshot f).free = s.free ∧
    (s.holdSnapshot f).clock = s.clock ∧
    (s.holdSnapshot f).line = s.line ∧
    (s.holdSnapshot f).roster = s.roster ∧
    (s.holdSnapshot f).builder = s.builder ∧
    (s.holdSnapshot f).window = s.window ∧
    (s.holdSnapshot f).adjust = s.adjust ∧
    (s.holdSnapshot f).ctl = s.ctl ∧
    (s.holdSnapshot f).channels = s.channels ∧
    (s.holdSnapshot f).drives = s.drives ∧
    (s.holdSnapshot f).port = s.port ∧
    (s.holdSnapshot f).inputs = s.inputs ∧
    (s.holdSnapshot f).wires = s.wires ∧
    (s.holdSnapshot f).pending = s.pending := by
  simp only [State.holdSnapshot]; split
  · simp
  · split <;> simp

@[simp] theorem State.install_frame (s : State) (h : HeldSnapshot) :
    (s.install h).now = s.now ∧
    (s.install h).free = s.free ∧
    (s.install h).clock = s.clock ∧
    (s.install h).line = s.line ∧
    (s.install h).roster = s.roster ∧
    (s.install h).builder = s.builder ∧
    (s.install h).adjust = s.adjust ∧
    (s.install h).ctl = s.ctl ∧
    (s.install h).channels = s.channels ∧
    (s.install h).drives = s.drives ∧
    (s.install h).inputs = s.inputs ∧
    (s.install h).wires = s.wires ∧
    (s.install h).pending = s.pending := by
  simp only [State.install]; split <;> simp only [State.setAgreement_frame] <;>
    refine ⟨(foldl_keeps State.now _ (by simp) _ _), (foldl_keeps State.free _ (by simp) _ _), (foldl_keeps State.clock _ (by simp) _ _), (foldl_keeps State.line _ (by simp) _ _), (foldl_keeps State.roster _ (by simp) _ _), (foldl_keeps State.builder _ (by simp) _ _), (foldl_keeps State.adjust _ (by simp) _ _), (foldl_keeps State.ctl _ (by simp) _ _), (foldl_keeps State.channels _ (by simp) _ _), (foldl_keeps State.drives _ (by simp) _ _), (foldl_keeps State.inputs _ (by simp) _ _), (foldl_keeps State.wires _ (by simp) _ _), (foldl_keeps State.pending _ (by simp) _ _)⟩

@[simp] theorem State.installHeld_frame (s : State) (b : Bool) :
    (s.installHeld b).now = s.now ∧
    (s.installHeld b).free = s.free ∧
    (s.installHeld b).clock = s.clock ∧
    (s.installHeld b).line = s.line ∧
    (s.installHeld b).roster = s.roster ∧
    (s.installHeld b).builder = s.builder ∧
    (s.installHeld b).adjust = s.adjust ∧
    (s.installHeld b).ctl = s.ctl ∧
    (s.installHeld b).channels = s.channels ∧
    (s.installHeld b).drives = s.drives ∧
    (s.installHeld b).inputs = s.inputs ∧
    (s.installHeld b).wires = s.wires ∧
    (s.installHeld b).pending = s.pending := by
  unfold State.installHeld; split
  · simp
  · split
    · simp
    · split <;> simp

@[simp] theorem State.countMark_frame (s : State) :
    (s.countMark).now = s.now ∧
    (s.countMark).free = s.free ∧
    (s.countMark).clock = s.clock ∧
    (s.countMark).line = s.line ∧
    (s.countMark).roster = s.roster ∧
    (s.countMark).builder = s.builder ∧
    (s.countMark).window = s.window ∧
    (s.countMark).adjust = s.adjust ∧
    (s.countMark).ctl = s.ctl ∧
    (s.countMark).channels = s.channels ∧
    (s.countMark).drives = s.drives ∧
    (s.countMark).port = s.port ∧
    (s.countMark).inputs = s.inputs ∧
    (s.countMark).wires = s.wires ∧
    (s.countMark).pending = s.pending := by
  unfold State.countMark; split
  · simp
  · split
    · split <;> simp
    · simp

@[simp] theorem State.joinerRuns_frame (s : State) (b : Bool) :
    (s.joinerRuns b).now = s.now ∧
    (s.joinerRuns b).free = s.free ∧
    (s.joinerRuns b).line = s.line ∧
    (s.joinerRuns b).roster = s.roster ∧
    (s.joinerRuns b).builder = s.builder ∧
    (s.joinerRuns b).window = s.window ∧
    (s.joinerRuns b).pool = s.pool ∧
    (s.joinerRuns b).adjust = s.adjust ∧
    (s.joinerRuns b).channels = s.channels ∧
    (s.joinerRuns b).drives = s.drives ∧
    (s.joinerRuns b).inputs = s.inputs ∧
    (s.joinerRuns b).wires = s.wires ∧
    (s.joinerRuns b).pending = s.pending := by
  unfold State.joinerRuns; split <;> simp

@[simp] theorem State.controllerMark_frame (s : State) (b : Bool) :
    (s.controllerMark b).now = s.now ∧
    (s.controllerMark b).free = s.free ∧
    (s.controllerMark b).clock = s.clock ∧
    (s.controllerMark b).line = s.line ∧
    (s.controllerMark b).roster = s.roster ∧
    (s.controllerMark b).builder = s.builder ∧
    (s.controllerMark b).window = s.window ∧
    (s.controllerMark b).pool = s.pool ∧
    (s.controllerMark b).adjust = s.adjust ∧
    (s.controllerMark b).channels = s.channels ∧
    (s.controllerMark b).drives = s.drives ∧
    (s.controllerMark b).port = s.port ∧
    (s.controllerMark b).inputs = s.inputs ∧
    (s.controllerMark b).wires = s.wires ∧
    (s.controllerMark b).pending = s.pending := by
  unfold State.controllerMark; split
  · simp
  · split <;> simp

@[simp] theorem State.driveMark_frame (s : State) (ag : Agreement) :
    (s.driveMark ag).now = s.now ∧
    (s.driveMark ag).clock = s.clock ∧
    (s.driveMark ag).line = s.line ∧
    (s.driveMark ag).roster = s.roster ∧
    (s.driveMark ag).builder = s.builder ∧
    (s.driveMark ag).window = s.window ∧
    (s.driveMark ag).pool = s.pool ∧
    (s.driveMark ag).adjust = s.adjust ∧
    (s.driveMark ag).ctl = s.ctl ∧
    (s.driveMark ag).channels = s.channels ∧
    (s.driveMark ag).inputs = s.inputs ∧
    (s.driveMark ag).wires = s.wires ∧
    (s.driveMark ag).pending = s.pending := by
  unfold State.driveMark; split
  · simp
  · split <;> simp

@[simp] theorem State.emergencyFold_frame (s : State) :
    (s.emergencyFold).now = s.now ∧
    (s.emergencyFold).free = s.free ∧
    (s.emergencyFold).clock = s.clock ∧
    (s.emergencyFold).line = s.line ∧
    (s.emergencyFold).roster = s.roster ∧
    (s.emergencyFold).builder = s.builder ∧
    (s.emergencyFold).adjust = s.adjust ∧
    (s.emergencyFold).ctl = s.ctl ∧
    (s.emergencyFold).channels = s.channels ∧
    (s.emergencyFold).drives = s.drives ∧
    (s.emergencyFold).inputs = s.inputs ∧
    (s.emergencyFold).wires = s.wires ∧
    (s.emergencyFold).pending = s.pending := by
  simp only [State.emergencyFold]
  refine ⟨(foldl_keeps State.now _ (by simp) _ _).trans (foldl_keeps State.now _ (by simp) _ _), (foldl_keeps State.free _ (by simp) _ _).trans (foldl_keeps State.free _ (by simp) _ _), (foldl_keeps State.clock _ (by simp) _ _).trans (foldl_keeps State.clock _ (by simp) _ _), (foldl_keeps State.line _ (by simp) _ _).trans (foldl_keeps State.line _ (by simp) _ _), (foldl_keeps State.roster _ (by simp) _ _).trans (foldl_keeps State.roster _ (by simp) _ _), (foldl_keeps State.builder _ (by simp) _ _).trans (foldl_keeps State.builder _ (by simp) _ _), (foldl_keeps State.adjust _ (by simp) _ _).trans (foldl_keeps State.adjust _ (by simp) _ _), (foldl_keeps State.ctl _ (by simp) _ _).trans (foldl_keeps State.ctl _ (by simp) _ _), (foldl_keeps State.channels _ (by simp) _ _).trans (foldl_keeps State.channels _ (by simp) _ _), (foldl_keeps State.drives _ (by simp) _ _).trans (foldl_keeps State.drives _ (by simp) _ _), (foldl_keeps State.inputs _ (by simp) _ _).trans (foldl_keeps State.inputs _ (by simp) _ _), (foldl_keeps State.wires _ (by simp) _ _).trans (foldl_keeps State.wires _ (by simp) _ _), (foldl_keeps State.pending _ (by simp) _ _).trans (foldl_keeps State.pending _ (by simp) _ _)⟩

@[simp] theorem State.countMiss_frame (s : State) (n : Station) :
    (s.countMiss n).now = s.now ∧
    (s.countMiss n).free = s.free ∧
    (s.countMiss n).clock = s.clock ∧
    (s.countMiss n).line = s.line ∧
    (s.countMiss n).builder = s.builder ∧
    (s.countMiss n).window = s.window ∧
    (s.countMiss n).pool = s.pool ∧
    (s.countMiss n).adjust = s.adjust ∧
    (s.countMiss n).ctl = s.ctl ∧
    (s.countMiss n).channels = s.channels ∧
    (s.countMiss n).drives = s.drives ∧
    (s.countMiss n).inputs = s.inputs ∧
    (s.countMiss n).wires = s.wires ∧
    (s.countMiss n).pending = s.pending := by
  simp [State.countMiss]

@[simp] theorem State.countMisses_frame (s : State) :
    (s.countMisses).now = s.now ∧
    (s.countMisses).free = s.free ∧
    (s.countMisses).clock = s.clock ∧
    (s.countMisses).line = s.line ∧
    (s.countMisses).builder = s.builder ∧
    (s.countMisses).window = s.window ∧
    (s.countMisses).pool = s.pool ∧
    (s.countMisses).adjust = s.adjust ∧
    (s.countMisses).ctl = s.ctl ∧
    (s.countMisses).channels = s.channels ∧
    (s.countMisses).drives = s.drives ∧
    (s.countMisses).inputs = s.inputs ∧
    (s.countMisses).wires = s.wires ∧
    (s.countMisses).pending = s.pending := by
  unfold State.countMisses; split
  · simp
  · refine ⟨?_, ?_, ?_, ?_, ?_, ?_, ?_, ?_, ?_, ?_, ?_, ?_, ?_, ?_⟩ <;>
      exact foldl_keeps _ _ (by simp) _ s

@[simp] theorem State.lapseJoins_frame (s : State) :
    (s.lapseJoins).now = s.now ∧
    (s.lapseJoins).free = s.free ∧
    (s.lapseJoins).clock = s.clock ∧
    (s.lapseJoins).line = s.line ∧
    (s.lapseJoins).builder = s.builder ∧
    (s.lapseJoins).window = s.window ∧
    (s.lapseJoins).pool = s.pool ∧
    (s.lapseJoins).adjust = s.adjust ∧
    (s.lapseJoins).ctl = s.ctl ∧
    (s.lapseJoins).channels = s.channels ∧
    (s.lapseJoins).drives = s.drives ∧
    (s.lapseJoins).inputs = s.inputs ∧
    (s.lapseJoins).wires = s.wires ∧
    (s.lapseJoins).pending = s.pending := by
  unfold State.lapseJoins
  refine ⟨?_, ?_, ?_, ?_, ?_, ?_, ?_, ?_, ?_, ?_, ?_, ?_, ?_, ?_⟩ <;>
    exact foldl_keeps _ _ (by simp) _ s

@[simp] theorem State.chooseReference_frame (s : State) :
    (s.chooseReference).now = s.now ∧
    (s.chooseReference).free = s.free ∧
    (s.chooseReference).clock = s.clock ∧
    (s.chooseReference).line = s.line ∧
    (s.chooseReference).builder = s.builder ∧
    (s.chooseReference).window = s.window ∧
    (s.chooseReference).adjust = s.adjust ∧
    (s.chooseReference).ctl = s.ctl ∧
    (s.chooseReference).channels = s.channels ∧
    (s.chooseReference).drives = s.drives ∧
    (s.chooseReference).port = s.port ∧
    (s.chooseReference).inputs = s.inputs ∧
    (s.chooseReference).wires = s.wires ∧
    (s.chooseReference).pending = s.pending := by
  simp only [State.chooseReference]; split
  · simp
  · split <;> simp

@[simp] theorem State.offerResends_frame (s : State) (l : List OutEntry) :
    (s.offerResends l).now = s.now ∧ (s.offerResends l).free = s.free ∧ (s.offerResends l).clock = s.clock ∧
    (s.offerResends l).roster = s.roster ∧ (s.offerResends l).builder = s.builder ∧
    (s.offerResends l).window = s.window ∧ (s.offerResends l).pool = s.pool ∧ (s.offerResends l).adjust = s.adjust ∧
    (s.offerResends l).ctl = s.ctl ∧ (s.offerResends l).channels = s.channels ∧
    (s.offerResends l).drives = s.drives ∧ (s.offerResends l).port = s.port ∧
    (s.offerResends l).inputs = s.inputs ∧ (s.offerResends l).wires = s.wires ∧
    (s.offerResends l).pending = s.pending := by
  induction l generalizing s with
  | nil => simp [State.offerResends]
  | cons e t ih =>
    simp only [State.offerResends]
    split
    · have := ih (s.offer (.resend e.epoch) none none).1
      simp_all
    · simp

@[simp] theorem State.offerPairs_frame (s : State) :
    (s.offerPairs).now = s.now ∧
    (s.offerPairs).free = s.free ∧
    (s.offerPairs).clock = s.clock ∧
    (s.offerPairs).roster = s.roster ∧
    (s.offerPairs).builder = s.builder ∧
    (s.offerPairs).window = s.window ∧
    (s.offerPairs).pool = s.pool ∧
    (s.offerPairs).adjust = s.adjust ∧
    (s.offerPairs).ctl = s.ctl ∧
    (s.offerPairs).channels = s.channels ∧
    (s.offerPairs).drives = s.drives ∧
    (s.offerPairs).port = s.port ∧
    (s.offerPairs).inputs = s.inputs ∧
    (s.offerPairs).wires = s.wires ∧
    (s.offerPairs).pending = s.pending := by
  unfold State.offerPairs; split <;> simp

@[simp] theorem State.offerAdjust_frame (s : State) :
    (s.offerAdjust).now = s.now ∧
    (s.offerAdjust).free = s.free ∧
    (s.offerAdjust).clock = s.clock ∧
    (s.offerAdjust).roster = s.roster ∧
    (s.offerAdjust).builder = s.builder ∧
    (s.offerAdjust).window = s.window ∧
    (s.offerAdjust).pool = s.pool ∧
    (s.offerAdjust).adjust = s.adjust ∧
    (s.offerAdjust).ctl = s.ctl ∧
    (s.offerAdjust).channels = s.channels ∧
    (s.offerAdjust).drives = s.drives ∧
    (s.offerAdjust).port = s.port ∧
    (s.offerAdjust).inputs = s.inputs ∧
    (s.offerAdjust).wires = s.wires ∧
    (s.offerAdjust).pending = s.pending := by
  unfold State.offerAdjust; split
  · simp
  · split <;> simp

@[simp] theorem State.selfReference_frame (s : State) :
    (s.selfReference).now = s.now ∧
    (s.selfReference).free = s.free ∧
    (s.selfReference).clock = s.clock ∧
    (s.selfReference).line = s.line ∧
    (s.selfReference).roster = s.roster ∧
    (s.selfReference).builder = s.builder ∧
    (s.selfReference).window = s.window ∧
    (s.selfReference).adjust = s.adjust ∧
    (s.selfReference).ctl = s.ctl ∧
    (s.selfReference).channels = s.channels ∧
    (s.selfReference).inputs = s.inputs ∧
    (s.selfReference).wires = s.wires ∧
    (s.selfReference).pending = s.pending := by
  simp only [State.selfReference]; split
  · simp
  · split <;> simp

@[simp] theorem State.countNoComparison_frame (s : State) :
    (s.countNoComparison).now = s.now ∧
    (s.countNoComparison).free = s.free ∧
    (s.countNoComparison).clock = s.clock ∧
    (s.countNoComparison).roster = s.roster ∧
    (s.countNoComparison).builder = s.builder ∧
    (s.countNoComparison).window = s.window ∧
    (s.countNoComparison).adjust = s.adjust ∧
    (s.countNoComparison).ctl = s.ctl ∧
    (s.countNoComparison).channels = s.channels ∧
    (s.countNoComparison).inputs = s.inputs ∧
    (s.countNoComparison).wires = s.wires ∧
    (s.countNoComparison).pending = s.pending := by
  simp only [State.countNoComparison]; split <;> simp

@[simp] theorem State.poolPhaseEnd_frame (s : State) :
    (s.poolPhaseEnd).now = s.now ∧
    (s.poolPhaseEnd).free = s.free ∧
    (s.poolPhaseEnd).clock = s.clock ∧
    (s.poolPhaseEnd).roster = s.roster ∧
    (s.poolPhaseEnd).builder = s.builder ∧
    (s.poolPhaseEnd).window = s.window ∧
    (s.poolPhaseEnd).adjust = s.adjust ∧
    (s.poolPhaseEnd).ctl = s.ctl ∧
    (s.poolPhaseEnd).channels = s.channels ∧
    (s.poolPhaseEnd).inputs = s.inputs ∧
    (s.poolPhaseEnd).wires = s.wires ∧
    (s.poolPhaseEnd).pending = s.pending := by
  simp only [State.poolPhaseEnd]; split
  · simp
  · split
    · simp
    · simp
    · split <;> simp
    · simp
    · simp

@[simp] theorem State.enterFrozen_frame (s : State) (l : Life) (c : MuteCause) :
    (s.enterFrozen l c).now = s.now ∧
    (s.enterFrozen l c).free = s.free ∧
    (s.enterFrozen l c).roster = s.roster ∧
    (s.enterFrozen l c).window = s.window ∧
    (s.enterFrozen l c).adjust = s.adjust ∧
    (s.enterFrozen l c).channels = s.channels ∧
    (s.enterFrozen l c).inputs = s.inputs ∧
    (s.enterFrozen l c).wires = s.wires ∧
    (s.enterFrozen l c).pending = s.pending := by
  simp [State.enterFrozen]

@[simp] theorem State.sawPin_frame (s : State) (i : Fin 4) (x : InputPin) (h : Bool) :
    (s.sawPin i x h).now = s.now ∧
    (s.sawPin i x h).free = s.free ∧
    (s.sawPin i x h).clock = s.clock ∧
    (s.sawPin i x h).line = s.line ∧
    (s.sawPin i x h).roster = s.roster ∧
    (s.sawPin i x h).builder = s.builder ∧
    (s.sawPin i x h).window = s.window ∧
    (s.sawPin i x h).pool = s.pool ∧
    (s.sawPin i x h).adjust = s.adjust ∧
    (s.sawPin i x h).ctl = s.ctl ∧
    (s.sawPin i x h).channels = s.channels ∧
    (s.sawPin i x h).drives = s.drives ∧
    (s.sawPin i x h).port = s.port ∧
    (s.sawPin i x h).wires = s.wires ∧
    (s.sawPin i x h).pending = s.pending := by
  unfold State.sawPin; split <;> simp

@[simp] theorem State.pinTakes_frame (s : State) (i : Fin 4) (x : InputPin) (h : Bool) :
    (s.pinTakes i x h).now = s.now ∧
    (s.pinTakes i x h).free = s.free ∧
    (s.pinTakes i x h).clock = s.clock ∧
    (s.pinTakes i x h).line = s.line ∧
    (s.pinTakes i x h).roster = s.roster ∧
    (s.pinTakes i x h).builder = s.builder ∧
    (s.pinTakes i x h).window = s.window ∧
    (s.pinTakes i x h).pool = s.pool ∧
    (s.pinTakes i x h).adjust = s.adjust ∧
    (s.pinTakes i x h).ctl = s.ctl ∧
    (s.pinTakes i x h).channels = s.channels ∧
    (s.pinTakes i x h).drives = s.drives ∧
    (s.pinTakes i x h).port = s.port ∧
    (s.pinTakes i x h).wires = s.wires ∧
    (s.pinTakes i x h).pending = s.pending := by
  unfold State.pinTakes; split <;> simp

@[simp] theorem State.count_frame (s : State) (i : Fin 4) (b : Bool) :
    (s.count i b).now = s.now ∧
    (s.count i b).free = s.free ∧
    (s.count i b).clock = s.clock ∧
    (s.count i b).line = s.line ∧
    (s.count i b).roster = s.roster ∧
    (s.count i b).builder = s.builder ∧
    (s.count i b).window = s.window ∧
    (s.count i b).pool = s.pool ∧
    (s.count i b).adjust = s.adjust ∧
    (s.count i b).ctl = s.ctl ∧
    (s.count i b).drives = s.drives ∧
    (s.count i b).inputs = s.inputs ∧
    (s.count i b).wires = s.wires ∧
    (s.count i b).pending = s.pending := by
  simp only [State.count]; split <;> simp

@[simp] theorem State.cntRise_frame (s : State) (i : Fin 4) :
    (s.cntRise i).now = s.now ∧
    (s.cntRise i).free = s.free ∧
    (s.cntRise i).clock = s.clock ∧
    (s.cntRise i).line = s.line ∧
    (s.cntRise i).roster = s.roster ∧
    (s.cntRise i).builder = s.builder ∧
    (s.cntRise i).window = s.window ∧
    (s.cntRise i).pool = s.pool ∧
    (s.cntRise i).adjust = s.adjust ∧
    (s.cntRise i).ctl = s.ctl ∧
    (s.cntRise i).drives = s.drives ∧
    (s.cntRise i).inputs = s.inputs ∧
    (s.cntRise i).wires = s.wires ∧
    (s.cntRise i).pending = s.pending := by
  simp only [State.cntRise]; split
  · split <;> simp
  · simp

@[simp] theorem State.cntEdge_frame (s : State) (i : Fin 4) :
    (s.cntEdge i).now = s.now ∧
    (s.cntEdge i).free = s.free ∧
    (s.cntEdge i).clock = s.clock ∧
    (s.cntEdge i).line = s.line ∧
    (s.cntEdge i).roster = s.roster ∧
    (s.cntEdge i).builder = s.builder ∧
    (s.cntEdge i).window = s.window ∧
    (s.cntEdge i).pool = s.pool ∧
    (s.cntEdge i).adjust = s.adjust ∧
    (s.cntEdge i).ctl = s.ctl ∧
    (s.cntEdge i).drives = s.drives ∧
    (s.cntEdge i).inputs = s.inputs ∧
    (s.cntEdge i).wires = s.wires ∧
    (s.cntEdge i).pending = s.pending := by
  simp only [State.cntEdge]; split <;> simp

@[simp] theorem State.gateRise_frame (s : State) (i : Fin 4) :
    (s.gateRise i).now = s.now ∧
    (s.gateRise i).free = s.free ∧
    (s.gateRise i).clock = s.clock ∧
    (s.gateRise i).line = s.line ∧
    (s.gateRise i).roster = s.roster ∧
    (s.gateRise i).builder = s.builder ∧
    (s.gateRise i).window = s.window ∧
    (s.gateRise i).pool = s.pool ∧
    (s.gateRise i).adjust = s.adjust ∧
    (s.gateRise i).ctl = s.ctl ∧
    (s.gateRise i).drives = s.drives ∧
    (s.gateRise i).port = s.port ∧
    (s.gateRise i).inputs = s.inputs ∧
    (s.gateRise i).wires = s.wires ∧
    (s.gateRise i).pending = s.pending := by
  simp only [State.gateRise]; split <;> simp

@[simp] theorem State.gateFall_frame (s : State) (i : Fin 4) :
    (s.gateFall i).now = s.now ∧
    (s.gateFall i).free = s.free ∧
    (s.gateFall i).clock = s.clock ∧
    (s.gateFall i).line = s.line ∧
    (s.gateFall i).roster = s.roster ∧
    (s.gateFall i).builder = s.builder ∧
    (s.gateFall i).window = s.window ∧
    (s.gateFall i).pool = s.pool ∧
    (s.gateFall i).adjust = s.adjust ∧
    (s.gateFall i).ctl = s.ctl ∧
    (s.gateFall i).drives = s.drives ∧
    (s.gateFall i).inputs = s.inputs ∧
    (s.gateFall i).wires = s.wires ∧
    (s.gateFall i).pending = s.pending := by
  simp only [State.gateFall]; split
  · simp
  · split <;> simp

@[simp] theorem State.filtered_frame (s : State) (i : Fin 4) (x : InputPin) :
    (s.filtered i x).now = s.now ∧
    (s.filtered i x).free = s.free ∧
    (s.filtered i x).clock = s.clock ∧
    (s.filtered i x).line = s.line ∧
    (s.filtered i x).roster = s.roster ∧
    (s.filtered i x).builder = s.builder ∧
    (s.filtered i x).window = s.window ∧
    (s.filtered i x).pool = s.pool ∧
    (s.filtered i x).adjust = s.adjust ∧
    (s.filtered i x).ctl = s.ctl ∧
    (s.filtered i x).drives = s.drives ∧
    (s.filtered i x).inputs = s.inputs ∧
    (s.filtered i x).wires = s.wires ∧
    (s.filtered i x).pending = s.pending := by
  cases x <;> simp only [State.filtered]
  · split <;> simp
  · simp
  · split <;> simp

@[simp] theorem State.takeChange_frame (s : State) (c : FilterChange) :
    (s.takeChange c).clock = s.clock ∧
    (s.takeChange c).line = s.line ∧
    (s.takeChange c).roster = s.roster ∧
    (s.takeChange c).builder = s.builder ∧
    (s.takeChange c).window = s.window ∧
    (s.takeChange c).pool = s.pool ∧
    (s.takeChange c).adjust = s.adjust ∧
    (s.takeChange c).ctl = s.ctl ∧
    (s.takeChange c).drives = s.drives ∧
    (s.takeChange c).inputs = s.inputs ∧
    (s.takeChange c).wires = s.wires ∧
    (s.takeChange c).pending = s.pending := by
  simp [State.takeChange]

@[simp] theorem State.frameBegins_frame (s : State) :
    (s.frameBegins).now = s.now ∧
    (s.frameBegins).free = s.free ∧
    (s.frameBegins).clock = s.clock ∧
    (s.frameBegins).roster = s.roster ∧
    (s.frameBegins).builder = s.builder ∧
    (s.frameBegins).window = s.window ∧
    (s.frameBegins).pool = s.pool ∧
    (s.frameBegins).adjust = s.adjust ∧
    (s.frameBegins).ctl = s.ctl ∧
    (s.frameBegins).channels = s.channels ∧
    (s.frameBegins).drives = s.drives ∧
    (s.frameBegins).port = s.port ∧
    (s.frameBegins).inputs = s.inputs ∧
    (s.frameBegins).wires = s.wires ∧
    (s.frameBegins).pending = s.pending := by
  unfold State.frameBegins; split <;> simp

@[simp] theorem State.csTakes_frame (s : State) (h : Bool) :
    (s.csTakes h).1.now = s.now ∧
    (s.csTakes h).1.free = s.free ∧
    (s.csTakes h).1.clock = s.clock ∧
    (s.csTakes h).1.line = s.line ∧
    (s.csTakes h).1.roster = s.roster ∧
    (s.csTakes h).1.builder = s.builder ∧
    (s.csTakes h).1.window = s.window ∧
    (s.csTakes h).1.pool = s.pool ∧
    (s.csTakes h).1.adjust = s.adjust ∧
    (s.csTakes h).1.ctl = s.ctl ∧
    (s.csTakes h).1.channels = s.channels ∧
    (s.csTakes h).1.drives = s.drives ∧
    (s.csTakes h).1.wires = s.wires ∧
    (s.csTakes h).1.pending = s.pending := by
  simp only [State.csTakes]; split
  · simp
  · split <;> simp

@[simp] theorem State.sckTakes_frame (s : State) (h : Bool) :
    (s.sckTakes h).1.now = s.now ∧
    (s.sckTakes h).1.free = s.free ∧
    (s.sckTakes h).1.clock = s.clock ∧
    (s.sckTakes h).1.line = s.line ∧
    (s.sckTakes h).1.roster = s.roster ∧
    (s.sckTakes h).1.builder = s.builder ∧
    (s.sckTakes h).1.window = s.window ∧
    (s.sckTakes h).1.pool = s.pool ∧
    (s.sckTakes h).1.adjust = s.adjust ∧
    (s.sckTakes h).1.ctl = s.ctl ∧
    (s.sckTakes h).1.channels = s.channels ∧
    (s.sckTakes h).1.drives = s.drives ∧
    (s.sckTakes h).1.wires = s.wires ∧
    (s.sckTakes h).1.pending = s.pending := by
  simp only [State.sckTakes]; split
  · simp
  · split
    · simp
    · split <;> simp

@[simp] theorem State.lineFalls_frame (s : State) :
    (s.lineFalls).now = s.now ∧
    (s.lineFalls).free = s.free ∧
    (s.lineFalls).clock = s.clock ∧
    (s.lineFalls).roster = s.roster ∧
    (s.lineFalls).builder = s.builder ∧
    (s.lineFalls).window = s.window ∧
    (s.lineFalls).pool = s.pool ∧
    (s.lineFalls).adjust = s.adjust ∧
    (s.lineFalls).ctl = s.ctl ∧
    (s.lineFalls).channels = s.channels ∧
    (s.lineFalls).drives = s.drives ∧
    (s.lineFalls).port = s.port ∧
    (s.lineFalls).inputs = s.inputs ∧
    (s.lineFalls).wires = s.wires ∧
    (s.lineFalls).pending = s.pending := by
  unfold State.lineFalls
  split
  · simp
  · split
    · split <;> simp
    all_goals simp

@[simp] theorem State.lineTakes_frame (s : State) (h : Bool) :
    (s.lineTakes h).now = s.now ∧
    (s.lineTakes h).free = s.free ∧
    (s.lineTakes h).clock = s.clock ∧
    (s.lineTakes h).roster = s.roster ∧
    (s.lineTakes h).builder = s.builder ∧
    (s.lineTakes h).window = s.window ∧
    (s.lineTakes h).pool = s.pool ∧
    (s.lineTakes h).adjust = s.adjust ∧
    (s.lineTakes h).ctl = s.ctl ∧
    (s.lineTakes h).channels = s.channels ∧
    (s.lineTakes h).drives = s.drives ∧
    (s.lineTakes h).port = s.port ∧
    (s.lineTakes h).wires = s.wires ∧
    (s.lineTakes h).pending = s.pending := by
  simp only [State.lineTakes]; split
  · simp
  · split <;> simp

@[simp] theorem State.sampleStart_frame (s : State) (fall : Instant) (bytes : List Byte) (stop : Instant) :
    ((s.sampleStart fall bytes stop).1).now = s.now ∧
    ((s.sampleStart fall bytes stop).1).free = s.free ∧
    ((s.sampleStart fall bytes stop).1).clock = s.clock ∧
    ((s.sampleStart fall bytes stop).1).roster = s.roster ∧
    ((s.sampleStart fall bytes stop).1).builder = s.builder ∧
    ((s.sampleStart fall bytes stop).1).window = s.window ∧
    ((s.sampleStart fall bytes stop).1).pool = s.pool ∧
    ((s.sampleStart fall bytes stop).1).adjust = s.adjust ∧
    ((s.sampleStart fall bytes stop).1).ctl = s.ctl ∧
    ((s.sampleStart fall bytes stop).1).channels = s.channels ∧
    ((s.sampleStart fall bytes stop).1).drives = s.drives ∧
    ((s.sampleStart fall bytes stop).1).port = s.port ∧
    ((s.sampleStart fall bytes stop).1).inputs = s.inputs ∧
    ((s.sampleStart fall bytes stop).1).wires = s.wires ∧
    ((s.sampleStart fall bytes stop).1).pending = s.pending := by
  simp only [State.sampleStart, State.rxGivesUp]; split
  · split
    · split <;> simp
    · simp
  · split <;> simp

@[simp] theorem State.sampleData_frame (s : State) (fall : Instant) (bits : List Bool) (bytes : List Byte) :
    ((s.sampleData fall bits bytes).1).now = s.now ∧
    ((s.sampleData fall bits bytes).1).free = s.free ∧
    ((s.sampleData fall bits bytes).1).clock = s.clock ∧
    ((s.sampleData fall bits bytes).1).roster = s.roster ∧
    ((s.sampleData fall bits bytes).1).builder = s.builder ∧
    ((s.sampleData fall bits bytes).1).window = s.window ∧
    ((s.sampleData fall bits bytes).1).pool = s.pool ∧
    ((s.sampleData fall bits bytes).1).adjust = s.adjust ∧
    ((s.sampleData fall bits bytes).1).ctl = s.ctl ∧
    ((s.sampleData fall bits bytes).1).channels = s.channels ∧
    ((s.sampleData fall bits bytes).1).drives = s.drives ∧
    ((s.sampleData fall bits bytes).1).port = s.port ∧
    ((s.sampleData fall bits bytes).1).inputs = s.inputs ∧
    ((s.sampleData fall bits bytes).1).wires = s.wires ∧
    ((s.sampleData fall bits bytes).1).pending = s.pending := by
  simp only [State.sampleData, State.rxGivesUp]; split
  · simp
  · split <;> simp

@[simp] theorem State.sample_frame (s : State) :
    (s.sample.1).now = s.now ∧
    (s.sample.1).free = s.free ∧
    (s.sample.1).clock = s.clock ∧
    (s.sample.1).roster = s.roster ∧
    (s.sample.1).builder = s.builder ∧
    (s.sample.1).window = s.window ∧
    (s.sample.1).pool = s.pool ∧
    (s.sample.1).adjust = s.adjust ∧
    (s.sample.1).ctl = s.ctl ∧
    (s.sample.1).channels = s.channels ∧
    (s.sample.1).drives = s.drives ∧
    (s.sample.1).port = s.port ∧
    (s.sample.1).inputs = s.inputs ∧
    (s.sample.1).wires = s.wires ∧
    (s.sample.1).pending = s.pending := by
  unfold State.sample; split
  · split <;> simp
  · split <;> simp

@[simp] theorem State.idleFromGlitch_frame (s : State) (p : Pin) :
    (s.idleFromGlitch p).now = s.now ∧
    (s.idleFromGlitch p).free = s.free ∧
    (s.idleFromGlitch p).clock = s.clock ∧
    (s.idleFromGlitch p).roster = s.roster ∧
    (s.idleFromGlitch p).builder = s.builder ∧
    (s.idleFromGlitch p).window = s.window ∧
    (s.idleFromGlitch p).pool = s.pool ∧
    (s.idleFromGlitch p).adjust = s.adjust ∧
    (s.idleFromGlitch p).ctl = s.ctl ∧
    (s.idleFromGlitch p).channels = s.channels ∧
    (s.idleFromGlitch p).drives = s.drives ∧
    (s.idleFromGlitch p).port = s.port ∧
    (s.idleFromGlitch p).inputs = s.inputs ∧
    (s.idleFromGlitch p).wires = s.wires ∧
    (s.idleFromGlitch p).pending = s.pending := by
  unfold State.idleFromGlitch; split <;> simp

@[simp] theorem State.wireTakes_frame (s : State) (w : Wire) :
    (s.wireTakes w).1.now = s.now ∧
    (s.wireTakes w).1.free = s.free ∧
    (s.wireTakes w).1.clock = s.clock ∧
    (s.wireTakes w).1.roster = s.roster ∧
    (s.wireTakes w).1.builder = s.builder ∧
    (s.wireTakes w).1.window = s.window ∧
    (s.wireTakes w).1.pool = s.pool ∧
    (s.wireTakes w).1.adjust = s.adjust ∧
    (s.wireTakes w).1.ctl = s.ctl ∧
    (s.wireTakes w).1.channels = s.channels ∧
    (s.wireTakes w).1.drives = s.drives ∧
    (s.wireTakes w).1.wires = s.wires ∧
    (s.wireTakes w).1.pending = s.pending := by
  cases w <;> simp [State.wireTakes]
  split <;> simp

end Sys2Proof.Machine
end

