-- ==== Sys2Proof/Laws/Outputs.lean ====
section
/-! SUPPORT. What the end of a step does: the events it brings into the queue, IRQ and FAULT, and when it changes
nothing. -/

namespace Sys2Proof.Machine

/-! ### The order of one instant's events -/

theorem interleave_nil (fuel n : Nat) : interleave fuel n [] = ([], n) := by cases fuel <;> rfl

/-- With one event there is no choice. -/
theorem interleave_single (fuel n : Nat) (b : Block) (e : Event) : interleave (fuel + 1) n [(b, e)] = ([e], n) := by
  simp [interleave]

/-- Taking the first element that satisfies p out of a list and putting it in front permutes the list. -/
theorem find_eraseP_perm {α : Type} (p : α → Bool) (l : List α) (x : α) (h : l.find? p = some x) :
    (x :: l.eraseP p).Perm l := by
  induction l with
  | nil => simp at h
  | cons y ys ih =>
    by_cases hy : p y = true
    · rw [List.find?_cons_of_pos hy] at h
      obtain rfl := Option.some.inj h
      rw [List.eraseP_cons_of_pos hy]
    · rw [List.find?_cons_of_neg hy] at h
      rw [List.eraseP_cons_of_neg hy]
      exact (List.Perm.swap _ _ _).trans ((ih h).cons _)

/-- Whatever order is taken, no event is lost and none is made up. -/
theorem interleave_perm (fuel n : Nat) (l : List (Block × Event)) (h : l.length ≤ fuel) :
    (interleave fuel n l).1.Perm (l.map (fun p => p.2)) := by
  induction fuel generalizing n l with
  | zero =>
    have : l = [] := List.length_eq_zero_iff.mp (Nat.le_zero.mp h)
    subst this
    simp [interleave]
  | succ k ih =>
    match l with
    | [] => simp [interleave]
    | (b, e) :: t =>
      simp only [interleave]
      split
      · simp
      · rename_i hne
        set all := (b, e) :: t with hall
        set pick := (all[Config.freeBlock n % all.length]?.getD (b, e)).1 with hpick
        have hlen : 0 < all.length := by simp [hall]
        have hmem : (all[Config.freeBlock n % all.length]?.getD (b, e)) ∈ all := by
          have hlt : Config.freeBlock n % all.length < all.length := Nat.mod_lt _ hlen
          rw [List.getElem?_eq_getElem hlt]
          exact List.getElem_mem hlt
        have hsome : (all.find? (fun p => p.1 == pick)).isSome := by
          rw [List.find?_isSome]
          exact ⟨_, hmem, by simp [hpick]⟩
        obtain ⟨x, hx⟩ := Option.isSome_iff_exists.mp hsome
        have hperm := find_eraseP_perm (fun p : Block × Event => p.1 == pick) all x hx
        have hlt : (all.eraseP (fun p => p.1 == pick)).length ≤ k := by
          have h1 := hperm.length_eq
          simp only [List.length_cons] at h1
          have h2 : all.length ≤ k + 1 := h
          omega
        have hrest := ih (n + 1) _ hlt
        rw [hx, Option.getD_some]
        exact (hrest.cons x.2).trans (hperm.map (fun p : Block × Event => p.2))

/-! ### The event queue -/

theorem enterEvents_length (q : List Event) (lost : Bool) (l : List Event) (h : q.length ≤ 32) :
    (enterEvents q lost l).1.length ≤ 32 := by
  induction l generalizing q lost with
  | nil => simpa [enterEvents] using h
  | cons e t ih =>
    rw [enterEvents]
    split
    · exact ih _ _ (by rw [List.length_append]; simp; omega)
    · exact ih _ _ h

/-- What stood in the queue still stands there. -/
theorem enterEvents_kept (q : List Event) (lost : Bool) (l : List Event) {e : Event} (h : e ∈ q) :
    e ∈ (enterEvents q lost l).1 := by
  induction l generalizing q lost with
  | nil => simpa [enterEvents] using h
  | cons x t ih =>
    rw [enterEvents]
    split
    · exact ih _ _ (List.mem_append_left _ h)
    · exact ih _ _ h

/-- LOST is never cleared by an event. -/
theorem enterEvents_lost (q : List Event) (l : List Event) : (enterEvents q true l).2 = true := by
  induction l generalizing q with
  | nil => rfl
  | cons x t ih =>
    rw [enterEvents]
    split <;> exact ih _

/-- An event that arose stands in the queue, or LOST is set. -/
theorem enterEvents_reported (q : List Event) (lost : Bool) (l : List Event) {e : Event} (h : e ∈ l) :
    e ∈ (enterEvents q lost l).1 ∨ (enterEvents q lost l).2 = true := by
  induction l generalizing q lost with
  | nil => simp at h
  | cons x t ih =>
    rw [enterEvents]
    split
    · rcases List.mem_cons.mp h with rfl | h
      · exact Or.inl (enterEvents_kept _ _ _ (by simp))
      · exact ih _ _ h
    · exact Or.inr (enterEvents_lost _ _)

/-! ### The end of a step -/

@[simp] theorem State.finish_frame (s : State) :
    s.finish.now = s.now ∧ s.finish.clock = s.clock ∧ s.finish.line = s.line ∧ s.finish.roster = s.roster ∧
    s.finish.builder = s.builder ∧ s.finish.window = s.window ∧ s.finish.pool = s.pool ∧ s.finish.adjust = s.adjust ∧
    s.finish.ctl = s.ctl ∧ s.finish.channels = s.channels ∧ s.finish.drives.drives = s.drives.drives ∧
    s.finish.port.reply = s.port.reply ∧ s.finish.port.txn = s.port.txn ∧ s.finish.inputs = s.inputs ∧
    s.finish.wires = s.wires ∧ s.finish.pending = s.pending :=
  ⟨rfl, rfl, rfl, rfl, rfl, rfl, rfl, rfl, rfl, rfl, rfl, rfl, rfl, rfl, rfl, rfl⟩

/-- Whatever a step did, its end leaves the outputs at their conditions. -/
theorem State.finish_outputs (s : State) (h : s.port.events.length ≤ 32) : OutputsFollow s.finish :=
  ⟨rfl, enterEvents_length _ _ _ h, rfl, rfl⟩

/-- Every event of a step is reported by its end. -/
theorem State.finish_reported (s : State) {b : Block} {e : Event} (h : (b, e) ∈ s.port.arising) : Reported s.finish e := by
  have hp := interleave_perm s.port.arising.length s.free s.port.arising (Nat.le_refl _)
  have he : e ∈ (interleave s.port.arising.length s.free s.port.arising).1 :=
    hp.mem_iff.mpr (List.mem_map.mpr ⟨_, h, rfl⟩)
  exact enterEvents_reported _ _ _ he

/-- With no event on its way and the outputs at their conditions a step's end changes nothing. -/
theorem State.finish_eq (s : State) (ha : s.port.arising = [])
    (hi : s.port.irq = (!s.ctl.inReset && (!s.port.events.isEmpty || s.port.lost)))
    (hf : s.drives.fault = (!s.ctl.inReset && s.faultWanted)) : s.finish = s := by
  obtain ⟨now, free, clock, line, roster, builder, window, pool, adjust, ctl, channels, ⟨drives, fault⟩,
    ⟨events, lost, irq, reply, txn, arising⟩, inputs, wires, pending⟩ := s
  simp only at ha hi hf
  subst ha
  simp only [State.finish, interleave_nil, enterEvents, List.length_nil]
  rw [hi]
  congr 1
  rw [hf]
  rfl

/-- With one event on its way a step's end enters it, outside hardware reset. -/
theorem State.finish_one (s : State) {b : Block} {e : Event} (hr : s.ctl.inReset = false)
    (ha : s.port.arising = [(b, e)]) (hf : s.drives.fault = s.faultWanted) :
    s.finish = { s with port := { s.port with arising := [] }.took e } := by
  obtain ⟨now, free, clock, line, roster, builder, window, pool, adjust, ctl, channels, ⟨drives, fault⟩,
    ⟨events, lost, irq, reply, txn, arising⟩, inputs, wires, pending⟩ := s
  simp only at ha hr hf
  subst ha
  simp only [State.finish, List.length_singleton, interleave_single, enterEvents, hr, Port.took]
  split
  · simp [hf, State.faultWanted]
  · simp [hf, State.faultWanted]

/-! ### Steps from outside and inside -/

theorem State.outside_eq (s : State) (dt : Nat) (f : State → State) (h : s.ctl.inReset = false) :
    s.outside dt f = .next (f (s.later dt)).finish := by
  simp only [State.outside]
  rw [if_neg (by simp [h])]
  rfl

theorem State.inside_eq (s : State) (f : State → State) (h : s.ctl.inReset = false) : s.inside f = .next (f s).finish := by
  simp [State.inside, h]

/-- A ready state that passes time is ready. -/
theorem Ready.later {s : State} (h : Ready s) (dt : Nat) : Ready (s.later dt) := h

/-- A ready state's end of step changes nothing. -/
theorem Ready.finish {s : State} (h : Ready s) : s.finish = s :=
  s.finish_eq h.2.1 h.2.2.2.1 h.2.2.2.2

/-- A step from outside whose effect leaves a state ready answers that state. -/
theorem State.outside_ready (s : State) (dt : Nat) (f : State → State) (h : s.ctl.inReset = false)
    (hf : Ready (f (s.later dt))) : s.outside dt f = .next (f (s.later dt)) := by
  rw [s.outside_eq dt f h, hf.finish]

/-- A step of the station's own whose effect leaves a state ready answers that state. -/
theorem State.inside_ready (s : State) (f : State → State) (h : s.ctl.inReset = false) (hf : Ready (f s)) :
    s.inside f = .next (f s) := by
  rw [s.inside_eq f h, hf.finish]

/-- An effect that leaves the controller, the agreement state, the port and the FAULT pin as they stand leaves a ready
state ready. -/
theorem Ready.of_same {s t : State} (h : Ready s) (hc : t.ctl.life = s.ctl.life) (hr : t.ctl.inReset = s.ctl.inReset)
    (hp : t.port = s.port) (ha : t.pool.agreement = s.pool.agreement) (hf : t.drives.fault = s.drives.fault) : Ready t := by
  obtain ⟨h0, h1, h2, h3, h4⟩ := h
  refine ⟨hr.trans h0, ?_, ?_, ?_, ?_⟩
  · rw [hp, h1]
  · rw [hp]; exact h2
  · rw [hp, hr]; exact h3
  · rw [hf, hr, hc, ha]; exact h4

/-- A ready state that latches an answer is ready. -/
theorem Ready.answer {s : State} (h : Ready s) (o : PortOutcome) (r : List Byte) : Ready (s.answer o r) := h

end Sys2Proof.Machine
end

