-- ==== Sys2Proof/Laws/Bits.lean ====
section
/-! SUPPORT. The bits on the line: a byte's ten bits and their reading, a frame's bits, when a sample is due, and what a change
of the line's level or a sample leaves (R19 to R21, R25). -/

namespace Sys2Proof.Machine

@[simp] theorem lineBits_length (b : Byte) : (lineBits b).length = 10 := rfl

/-- A byte is read back from its data bits, least significant first (R20, R21). -/
theorem lineBits_read (b : Byte) : flagsByte (((lineBits b).drop 1).take 8) = b := by revert b; decide +kernel

/-- A frame has ten bits a byte on the line (R20). -/
theorem Frame.lineBits_length (f : Frame) : f.lineBits.length = 10 * f.bytes.length := by
  unfold Frame.lineBits
  induction f.bytes with
  | nil => rfl
  | cons b t ih => rw [List.flatMap_cons, List.length_append, ih, Machine.lineBits_length, List.length_cons]; omega

/-- The bits of byte j stand at its place among the frame's (R20). -/
theorem flatMap_lineBits_at (l : List Byte) (j : Nat) (b : Byte) (h : l[j]? = some b) :
    ((l.flatMap lineBits).drop (10 * j)).take 10 = lineBits b := by
  induction l generalizing j with
  | nil => simp at h
  | cons a t ih =>
    cases j with
    | zero =>
      obtain rfl : a = b := by simpa using h
      simp [List.flatMap_cons, lineBits]
    | succ j =>
      have e : 10 * (j + 1) = (lineBits a).length + 10 * j := by simp; omega
      rw [List.flatMap_cons, e, ← List.drop_drop, List.drop_left]
      exact ih j (by simpa using h)

/-- A station that sends nothing leaves the line at the others' level (R19). -/
theorem State.lineHigh_silent (s : State) (h : s.line.tx = none) : s.lineHigh = s.inputs.tally.high := by
  simp [State.lineHigh, State.driven, h]

/-- No sample is due in CONFIG or during hardware reset (R23, R137). -/
theorem State.nextSample_off (s : State) (h : s.ctl.inReset = true ∨ s.ctl.life = .config) : s.nextSample = none := by
  rw [State.nextSample, if_pos h]

/-- No sample is due while the line is recessive and the receiver is in no frame (R21, R25). -/
theorem State.nextSample_quiet (s : State) (hr : s.line.rx = .idle) (hh : s.inputs.tally.high = true) :
    s.nextSample = none := by
  unfold State.nextSample
  rw [hr, hh]
  split
  · rfl
  · split <;> rfl

/-- A receiver that is in a frame samples when its place in the bits says so (R20, R21). -/
theorem State.nextSample_rx (s : State) (hr : s.ctl.inReset = false) (hl : s.ctl.life ≠ .config)
    (ht : s.line.tx = none) : s.nextSample =
      match s.line.rx with
      | .idle => none
      | .start fall _ _ => some (fall + s.bits 1 / 2)
      | .data fall bits _ => some (fall + s.bits (2 * (bits.length : Int) + 3) / 2)
      | .gap stop _ => if s.inputs.tally.high then some (max stop s.inputs.tally.since + s.bits 3) else none
      | .wait => if s.inputs.tally.high then some (s.inputs.tally.since + s.bits 3) else none := by
  cases h : s.line.rx <;> simp [State.nextSample, hr, hl, ht, h]

/-- A transmitter's next sample is that of the first bit it sends recessive that is still to be sampled (R25). -/
theorem State.nextSample_tx (s : State) (t : Tx) (hr : s.ctl.inReset = false) (hl : s.ctl.life ≠ .config)
    (ht : s.line.tx = some t) (hh : s.inputs.tally.high = false) :
    s.nextSample = (s.nextRecessive t).map (s.bitSampled t) := by
  simp [State.nextSample, hr, hl, ht, hh]

/-- A change of the line's level brings no event and no output's change of its own. -/
theorem Ready.lineTakes {s : State} (h : Ready s) (high : Bool) : Ready (s.lineTakes high) :=
  h.of_same (by simp) (by simp) (by simp) (by simp) (by simp)

/-- Nor does a sample, but for the command that it brings. -/
theorem Ready.sample {s : State} (h : Ready s) : Ready s.sample.1 :=
  h.of_same (by simp) (by simp) (by simp) (by simp) (by simp)

end Sys2Proof.Machine
end

