-- ==== Sys2Proof/Laws/Bytes.lean ====
section
/-! SUPPORT. Multi-byte values read back from their bytes, the lists of a frame's fields, and the line CRC over its own
bytes. -/

namespace Sys2Proof.Machine

theorem bytes16_read (v : BitVec 16) : v.extractLsb' 8 8 ++ v.extractLsb' 0 8 = v := by
  ext i hi
  simp only [BitVec.getElem_append, BitVec.getElem_extractLsb']
  split
  · simp [BitVec.getLsbD_eq_getElem hi]
  · have : 8 + (i - 8) = i := by omega
    rw [this, BitVec.getLsbD_eq_getElem hi]

theorem bytes32_read (v : BitVec 32) :
    v.extractLsb' 24 8 ++ v.extractLsb' 16 8 ++ v.extractLsb' 8 8 ++ v.extractLsb' 0 8 = v := by
  ext i hi
  simp only [BitVec.getElem_append, BitVec.getElem_extractLsb']
  split
  · simp [BitVec.getLsbD_eq_getElem hi]
  · split
    · have : 8 + (i - 8) = i := by omega
      rw [this, BitVec.getLsbD_eq_getElem hi]
    · split
      · have : 16 + (i - 8 - 8) = i := by omega
        rw [this, BitVec.getLsbD_eq_getElem hi]
      · have : 24 + (i - 8 - 8 - 8) = i := by omega
        rw [this, BitVec.getLsbD_eq_getElem hi]

@[simp] theorem bytes16_length (v : BitVec 16) : (bytes16 v).length = 2 := rfl

@[simp] theorem bytes32_length (v : BitVec 32) : (bytes32 v).length = 4 := rfl

@[simp] theorem flatMap_bytes16_length (l : List (BitVec 16)) : (l.flatMap bytes16).length = 2 * l.length := by
  induction l with
  | nil => rfl
  | cons a t ih => rw [List.flatMap_cons, List.length_append, ih, bytes16_length, List.length_cons]; omega

@[simp] theorem flatMap_bytes32_length (l : List (BitVec 32)) : (l.flatMap bytes32).length = 4 * l.length := by
  induction l with
  | nil => rfl
  | cons a t ih => rw [List.flatMap_cons, List.length_append, ih, bytes32_length, List.length_cons]; omega

@[simp] theorem flatMap_pair_length (l : List Pair) : (l.flatMap Pair.bytes).length = 3 * l.length := by
  induction l with
  | nil => rfl
  | cons a t ih => rw [List.flatMap_cons, List.length_append, ih, List.length_cons]; simp [Pair.bytes]; omega

@[simp] theorem flatMap_item_length (l : List RawItem) : (l.flatMap RawItem.bytes).length = 6 * l.length := by
  induction l with
  | nil => rfl
  | cons a t ih => rw [List.flatMap_cons, List.length_append, ih, List.length_cons]; simp [RawItem.bytes]; omega

/-- Deltas read back. -/
@[simp] theorem words16_flatMap (l : List (BitVec 16)) : words16 (l.flatMap bytes16) = l := by
  induction l with
  | nil => rfl
  | cons a t ih =>
    rw [List.flatMap_cons]
    simp only [bytes16, List.cons_append, List.nil_append, words16, bytes16_read]
    exact congrArg _ ih

/-- Balances read back. -/
@[simp] theorem words32_flatMap (l : List (BitVec 32)) : words32 (l.flatMap bytes32) = l := by
  induction l with
  | nil => rfl
  | cons a t ih =>
    rw [List.flatMap_cons]
    simp only [bytes32, List.cons_append, List.nil_append, words32, bytes32_read]
    exact congrArg _ ih

/-- Pairs read back. -/
@[simp] theorem readPairs_flatMap (l : List Pair) : readPairs (l.flatMap Pair.bytes) = l := by
  induction l with
  | nil => rfl
  | cons a t ih =>
    rw [List.flatMap_cons]
    simp only [Pair.bytes, bytes16, List.cons_append, List.nil_append, readPairs, bytes16_read]
    exact congrArg _ ih

/-- Adjustment items read back. -/
@[simp] theorem readItems_flatMap (l : List RawItem) : readItems (l.flatMap RawItem.bytes) = l := by
  induction l with
  | nil => rfl
  | cons a t ih =>
    rw [List.flatMap_cons]
    simp only [RawItem.bytes, bytes32, List.cons_append, List.nil_append, readItems, bytes32_read]
    exact congrArg _ ih

/-- A station number read back from its byte. -/
theorem stationByte_toNat (n : Station) : (stationByte n).toNat = n.val := by
  have h := n.isLt
  simp only [stationByte, BitVec.toNat_ofNat]
  exact Nat.mod_eq_of_lt (by omega)

/-- The CRC goes byte by byte. -/
theorem crc_append (a b : List Byte) : crc (a ++ b) = b.foldl crcByte (crc a) := List.foldl_append

/-- A byte equal to the register's top byte only shifts the register. -/
theorem crcByte_top (r : Digest) : crcByte r (r.extractLsb' 8 8) = r <<< 8 := by
  simp [crcByte, crcBit, BitVec.getLsbD_extractLsb', ← BitVec.shiftLeft_add]

end Sys2Proof.Machine
end

