-- ==== Sys2Proof/Laws/Drives.lean ====
section
/-! SUPPORT. The drives after their pins were found afresh or their rules evaluated. -/

namespace Sys2Proof.Machine

theorem fin4_cases (i : Fin 4) : i = 0 ∨ i = 1 ∨ i = 2 ∨ i = 3 := by revert i; decide

/-- Finding drive i's pin afresh writes drive i alone. -/
theorem State.refreshDrive_get (s : State) (ag : Agreement) (i j : Fin 4) :
    (s.refreshDrive ag i).drives.drives.get j =
      if j = i then (s.drives.drives.get i).refreshed (s.ctl.profile.drives.get i) s.ctl.life ag
      else s.drives.drives.get j := by
  have h : (s.refreshDrive ag i).drives.drives = s.drives.drives.set i
      ((s.drives.drives.get i).refreshed (s.ctl.profile.drives.get i) s.ctl.life ag) := by
    simp only [State.refreshDrive]; split <;> rfl
  rw [h, Tbl.get_set]

@[simp] theorem State.refreshDrive_fault (s : State) (ag : Agreement) (i : Fin 4) :
    (s.refreshDrive ag i).drives.fault = s.drives.fault := by
  simp only [State.refreshDrive]; split <;> rfl

/-- Every drive found afresh (R158, R159). -/
theorem State.refreshDrivesFor_get (s : State) (ag : Agreement) (i : Fin 4) :
    (s.refreshDrivesFor ag).drives.drives.get i =
      (s.drives.drives.get i).refreshed (s.ctl.profile.drives.get i) s.ctl.life ag := by
  simp only [State.refreshDrivesFor, indexes4, List.foldl_cons, List.foldl_nil, State.refreshDrive_get,
    State.refreshDrive_frame]
  rcases fin4_cases i with rfl | rfl | rfl | rfl <;> simp

@[simp] theorem State.refreshDrivesFor_fault (s : State) (ag : Agreement) :
    (s.refreshDrivesFor ag).drives.fault = s.drives.fault := by
  simp [State.refreshDrivesFor, indexes4]

/-- Finding a drive afresh leaves its rule state and mode. -/
@[simp] theorem Drive.refreshed_rule (d : Drive) (cfg : DriveCfg) (l : Life) (ag : Agreement) :
    (d.refreshed cfg l ag).rule = d.rule ∧ (d.refreshed cfg l ag).mode = d.mode := ⟨rfl, rfl⟩

/-- A drive found afresh stands under its row, at the level the row gives (R158, R159). -/
theorem Drive.refreshed_follows (d : Drive) (cfg : DriveCfg) (l : Life) (ag : Agreement) :
    (d.refreshed cfg l ag).row = pinRow l ag cfg d.mode ∧
    (d.refreshed cfg l ag).pin =
      pinLevel (d.refreshed cfg l ag).row cfg (d.refreshed cfg l ag) (d.refreshed cfg l ag).held := by
  refine ⟨rfl, ?_⟩
  simp only [Drive.refreshed]
  cases pinRow l ag cfg d.mode <;> rfl

/-- After all drives were found afresh for the agreement state that stands, the pins follow. -/
theorem State.refreshDrives_follow (s : State) : PinsFollow s.refreshDrives := by
  intro _ i
  have h := Drive.refreshed_follows (s.drives.drives.get i) (s.ctl.profile.drives.get i) s.ctl.life s.pool.agreement
  simp only [State.refreshDrives, State.refreshDrivesFor_frame, State.refreshDrivesFor_get]
  exact h

/-- A disabled drive is not evaluated (R155). -/
theorem State.evaluateDrive_disabled (s : State) (i : Fin 4) (h : (s.ctl.profile.drives.get i).pool = none) :
    s.evaluateDrive i = s := by simp [State.evaluateDrive, h]

/-- One rule's evaluation writes that drive's rule state alone (R155, R156). -/
theorem State.evaluateDrive_get (s : State) (i j : Fin 4) (p : Fin 8)
    (h : (s.ctl.profile.drives.get i).pool = some p) :
    (s.evaluateDrive i).drives.drives.get j =
      if j = i then { s.drives.drives.get i with
          rule := (s.drives.drives.get i).rule.next (s.ctl.profile.drives.get i) (s.pool.table.get p).balance.toInt }
        else s.drives.drives.get j := by
  simp only [State.evaluateDrive, h]
  exact Tbl.get_set _ _ _ _

@[simp] theorem State.evaluateDrive_fault (s : State) (i : Fin 4) : (s.evaluateDrive i).drives.fault = s.drives.fault := by
  simp only [State.evaluateDrive]; split <;> rfl

@[simp] theorem State.evaluateDrives_fault (s : State) : s.evaluateDrives.drives.fault = s.drives.fault := by
  simp [State.evaluateDrives, indexes4]

/-- Evaluation leaves every drive's mode, held level, pin and row. -/
theorem State.evaluateDrive_rest (s : State) (i j : Fin 4) :
    ((s.evaluateDrive i).drives.drives.get j).mode = (s.drives.drives.get j).mode ∧
    ((s.evaluateDrive i).drives.drives.get j).held = (s.drives.drives.get j).held ∧
    ((s.evaluateDrive i).drives.drives.get j).pin = (s.drives.drives.get j).pin ∧
    ((s.evaluateDrive i).drives.drives.get j).row = (s.drives.drives.get j).row := by
  cases h : (s.ctl.profile.drives.get i).pool with
  | none => rw [s.evaluateDrive_disabled i h]; exact ⟨rfl, rfl, rfl, rfl⟩
  | some p =>
    rw [s.evaluateDrive_get i j p h]
    split
    · rename_i e; subst e; exact ⟨rfl, rfl, rfl, rfl⟩
    · exact ⟨rfl, rfl, rfl, rfl⟩

end Sys2Proof.Machine
end

