-- ==== Sys2Proof/Laws/Line.lean ====
section
/-! SUPPORT. What an offer does to the send queue, and what taking the queue yields. -/

namespace Sys2Proof.Machine

theorem QEntry.merged_none (e : QEntry) : e.merged none none = e := by
  cases e; simp [QEntry.merged]

@[simp] theorem QEntry.merged_key (e : QEntry) (t : Option Station) (p : Option (List Pair)) : (e.merged t p).key = e.key :=
  rfl

theorem Tx.noteMerge_same (t : Tx) (e : QEntry) : t.noteMerge e e = t := by simp [Tx.noteMerge]

theorem mem_placeEntry {q : List QEntry} {e x : QEntry} : x ∈ placeEntry q e ↔ x = e ∨ x ∈ q := by
  rw [placeEntry, List.mem_append, List.mem_cons]
  have h := List.takeWhile_append_dropWhile (p := fun y : QEntry => decide (y.key.rank ≤ e.key.rank)) (l := q)
  conv_rhs => rw [← h, List.mem_append]
  tauto

theorem placeEntry_length (q : List QEntry) (e : QEntry) : (placeEntry q e).length = q.length + 1 := by
  have h := congrArg List.length
    (List.takeWhile_append_dropWhile (p := fun y : QEntry => decide (y.key.rank ≤ e.key.rank)) (l := q))
  rw [List.length_append] at h
  rw [placeEntry, List.length_append, List.length_cons]
  omega

/-- An offer refused by the life-cycle state changes nothing (R30). -/
theorem State.offer_refused (s : State) (k : QKey) (t : Option Station) (p : Option (List Pair))
    (h : acceptsOffer s.ctl.life k = false) : s.offer k t p = (s, false) := by simp [State.offer, h]

/-- An offer lengthens the queue by one entry at most. -/
theorem State.offer_length (s : State) (k : QKey) (t : Option Station) (p : Option (List Pair)) :
    (s.offer k t p).1.line.queue.length ≤ s.line.queue.length + 1 := by
  unfold State.offer
  split
  · simp
  · split
    · simp
    · split
      · simp [placeEntry_length]
      · simp

/-- An offer keeps the send queue within eight entries (R31, R32). -/
theorem State.offer_bound (s : State) (k : QKey) (t : Option Station) (p : Option (List Pair))
    (h : s.line.queue.length ≤ 8) : (s.offer k t p).1.line.queue.length ≤ 8 := by
  unfold State.offer
  split
  · exact h
  · split
    · simpa using h
    · split
      · rename_i hl; simp only [placeEntry_length]; omega
      · exact h

/-- An offer removes no entry: every key that waited still waits. -/
theorem State.offer_keeps_keys (s : State) (k : QKey) (t : Option Station) (p : Option (List Pair)) {q : QEntry}
    (h : q ∈ s.line.queue) : ∃ x ∈ (s.offer k t p).1.line.queue, x.key = q.key := by
  unfold State.offer
  split
  · exact ⟨q, h, rfl⟩
  · split
    · refine ⟨if q.key = k then q.merged t p else q, List.mem_map.mpr ⟨q, h, rfl⟩, ?_⟩
      split <;> simp
    · split
      · exact ⟨q, mem_placeEntry.mpr (Or.inr h), rfl⟩
      · exact ⟨q, h, rfl⟩

/-- An offer that the state accepts and the queue has room for waits, merged or new (R32). -/
theorem State.offer_waits (s : State) (k : QKey) (t : Option Station) (p : Option (List Pair))
    (ha : acceptsOffer s.ctl.life k = true) (hl : s.line.queue.length < 8) :
    (s.offer k t p).2 = true ∧ ∃ x ∈ (s.offer k t p).1.line.queue, x.key = k := by
  unfold State.offer
  split
  · simp_all
  · split
    · rename_i e he
      have hk : e.key = k := by simpa using List.find?_some he
      refine ⟨rfl, e.merged t p, List.mem_map.mpr ⟨e, List.mem_of_find?_eq_some he, by simp [hk]⟩, by simp [hk]⟩
    · exact ⟨by simp, ⟨_, mem_placeEntry.mpr (Or.inl rfl), rfl⟩⟩

/-- An offer without parts leaves the frame in transmission and all but the queue and its taken mark as they stand. -/
theorem State.offerKey_line (s : State) (k : QKey) :
    (s.offerKey k).line.tx = s.line.tx ∧ (s.offerKey k).line.state = s.line.state ∧
    (s.offerKey k).line.overlap = s.line.overlap ∧ (s.offerKey k).line.discarded = s.line.discarded ∧
    (s.offerKey k).line.slotWaiting = s.line.slotWaiting := by
  unfold State.offerKey State.offer
  split
  · simp
  · split
    · rename_i e _
      refine ⟨?_, rfl, rfl, rfl, rfl⟩
      rw [QEntry.merged_none]
      cases h : s.line.tx with
      | none => simp
      | some x => simp [Tx.noteMerge_same]
    · split <;> simp

/-- Taking the queue drops declined entries only, and keeps the order of the rest (R33). -/
theorem State.takeQueue_sublist (s : State) (latest : Instant) (q : List QEntry) :
    (s.takeQueue latest q).1.Sublist q := by
  induction q with
  | nil => exact List.Sublist.refl _
  | cons e t ih =>
    rw [State.takeQueue]
    split
    · exact ih.cons e
    · split
      · exact List.Sublist.refl _
      · exact ih.cons_cons e

end Sys2Proof.Machine
end

