-- ==== Sys2Proof/Laws/Sums.lean ====
section
/-! SUPPORT. Carries after a withdrawal, balances after additions, channels after a capture. -/

namespace Sys2Proof.Machine

/-- Adding deltas to the carries from pool i on: pool p gets the delta at p − i, if there is one (R56). -/
theorem addDeltas_get (d : List (BitVec 16)) (c : Tbl (BitVec 64) 8) (i : Nat) (p : Fin 8) :
    (addDeltas c i d).get p = if i ≤ p.val then c.get p + (d[p.val - i]?.getD 0).signExtend 64 else c.get p := by
  induction d generalizing c i with
  | nil => simp [addDeltas]
  | cons x t ih =>
    rw [addDeltas, ih]
    by_cases hi : i < 8
    · rw [dif_pos hi]
      by_cases hp : p = ⟨i, hi⟩
      · subst hp
        simp
      · have hne : p.val ≠ i := fun h => hp (Fin.ext h)
        rw [Tbl.get_set_ne _ _ hp]
        by_cases hle : i + 1 ≤ p.val
        · have h1 : p.val - i = (p.val - (i + 1)) + 1 := by omega
          rw [if_pos hle, if_pos (by omega), h1, List.getElem?_cons_succ]
        · rw [if_neg hle, if_neg (by omega)]
    · rw [dif_neg hi, if_neg (by omega), if_neg (by omega)]

/-- A withdrawal adds to each carry the deltas of the untransmitted entries, and keeps the transmitted ones (R56). -/
theorem State.withdrawAll_builder (s : State) :
    s.withdrawAll.builder.outbox = s.builder.outbox.filter (fun e => e.transmitted) ∧
    ∀ p : Fin 8, s.withdrawAll.builder.carry.get p = s.builder.carry.get p + withdrawnSum s.builder.outbox p := by
  refine ⟨rfl, fun p => ?_⟩
  have hz : ∀ (l : List OutEntry) (c : Tbl (BitVec 64) 8) (z : BitVec 64),
      (l.foldl (fun c e => if e.transmitted then c else addDeltas c 0 e.deltas) c).get p + z =
        c.get p + l.foldl (fun c e => if e.transmitted then c else c + (e.deltas[p.val]?.getD 0).signExtend 64) z := by
    intro l
    induction l with
    | nil => intro c z; rfl
    | cons e t ih =>
      intro c z
      rw [List.foldl_cons, List.foldl_cons, ih]
      by_cases he : e.transmitted = true
      · simp [he]
      · have hd : (addDeltas c 0 e.deltas).get p = c.get p + (e.deltas[p.val]?.getD 0).signExtend 64 := by
          rw [addDeltas_get]; simp
        rw [if_neg he, if_neg he, hd]
        have hacc : ∀ (l : List OutEntry) (a b : BitVec 64),
            l.foldl (fun c e => if e.transmitted then c else c + (e.deltas[p.val]?.getD 0).signExtend 64) (a + b) =
              a + l.foldl (fun c e => if e.transmitted then c else c + (e.deltas[p.val]?.getD 0).signExtend 64) b := by
          intro l
          induction l with
          | nil => intro a b; rfl
          | cons e t ih =>
            intro a b
            rw [List.foldl_cons, List.foldl_cons]
            split
            · exact ih a b
            · rw [BitVec.add_assoc, ih]
        rw [BitVec.add_comm z, hacc, BitVec.add_assoc]
  have h := hz s.builder.outbox s.builder.carry 0
  exact (BitVec.add_zero _).symm.trans h

/-- One addition: the pool's balance becomes the saturating sum, the other pools stand (R80). -/
theorem State.addBalance_get (s : State) (p q : Fin 8) (v : BitVec 32) :
    ((s.addBalance p v).pool.table.get q).balance =
      if q = p then (satAdd (s.pool.table.get p).balance v).1 else (s.pool.table.get q).balance := by
  have h : (s.addBalance p v).pool.table = s.pool.table.set p
      { balance := (satAdd (s.pool.table.get p).balance v).1
        clipped := (s.pool.table.get p).clipped || (satAdd (s.pool.table.get p).balance v).2.isSome } := by
    simp only [State.addBalance]
    split
    · rfl
    · split <;> rfl
  rw [h, Tbl.get_set]
  split <;> simp_all

/-- Additions write nothing of the pool unit but its table. -/
theorem State.addBalance_pool (s : State) (p : Fin 8) (v : BitVec 32) :
    (s.addBalance p v).pool = { s.pool with table := (s.addBalance p v).pool.table } := by
  simp only [State.addBalance]
  split
  · rfl
  · split <;> rfl

/-- Additions to pools i, i + 1, …: pool p gets the value at p − i, if there is one (R80, R81). -/
theorem State.addEach_get (l : List (BitVec 32)) (s : State) (i : Nat) (p : Fin 8) :
    ((s.addEach i l).pool.table.get p).balance =
      if h : i ≤ p.val ∧ p.val - i < l.length then (satAdd (s.pool.table.get p).balance (l[p.val - i]'h.2)).1
      else (s.pool.table.get p).balance := by
  induction l generalizing s i with
  | nil => simp [State.addEach]
  | cons v t ih =>
    rw [State.addEach, ih]
    by_cases hi : i < 8
    · rw [dif_pos hi]
      by_cases hp : p = ⟨i, hi⟩
      · subst hp
        rw [dif_neg (by simp), dif_pos (by simp), State.addBalance_get, if_pos rfl]
        simp
      · have hne : p.val ≠ i := fun h => hp (Fin.ext h)
        rw [State.addBalance_get, if_neg hp]
        by_cases hc : i + 1 ≤ p.val ∧ p.val - (i + 1) < t.length
        · have h1 : p.val - i = (p.val - (i + 1)) + 1 := by omega
          rw [dif_pos hc, dif_pos (by simp only [List.length_cons]; omega)]
          congr 2
          simp only [h1, List.getElem_cons_succ]
        · rw [dif_neg hc, dif_neg (by simp only [List.length_cons]; omega)]
    · rw [dif_neg hi, dif_neg (by omega), dif_neg (by omega)]

/-- The channels after a capture (R144). -/
theorem State.captureChannels_get (s : State) (i : Fin 4) :
    s.captureChannels.get i = if (s.ctl.profile.channels.get i).mode = .off then s.channels.get i
      else { s.channels.get i with acc := 0, accSat := false } := by
  have h : ∀ i : Fin 4, i = 0 ∨ i = 1 ∨ i = 2 ∨ i = 3 := by decide
  have step : ∀ (cs : Tbl Channel 4) (j : Fin 4),
      (if (s.ctl.profile.channels.get j).mode = .off then cs else cs.set j { cs.get j with acc := 0, accSat := false }).get i =
        if i = j then (if (s.ctl.profile.channels.get i).mode = .off then cs.get i
          else { cs.get i with acc := 0, accSat := false }) else cs.get i := by
    intro cs j
    split
    · rename_i hm
      split
      · rename_i he; subst he; rw [if_pos hm]
      · rfl
    · rename_i hm
      rw [Tbl.get_set]
      split
      · rename_i he; subst he; rw [if_neg hm]
      · rfl
  simp only [State.captureChannels, indexes4, List.foldl_cons, List.foldl_nil, step]
  rcases h i with rfl | rfl | rfl | rfl <;> simp

end Sys2Proof.Machine
end

