-- ==== Sys2Proof/Laws/Window.lean ====
section
/-! SUPPORT. Records found after they were changed, what a record becomes when it takes a report, and the bounds of the
window's and the pool unit's lists. -/

namespace Sys2Proof.Machine

/-- Looking up a record of epoch e after the records of epoch e were changed by an update that keeps the epoch. -/
theorem State.record_changeRecord (s : State) (e : Epoch) (f : Record → Record) (h : ∀ r, (f r).epoch = r.epoch) :
    (s.changeRecord e f).record e = (s.record e).map f := by
  simp only [State.record, State.changeRecord_records]
  induction s.window.records with
  | nil => rfl
  | cons r t ih =>
    by_cases hr : r.epoch = e
    · simp [hr, h]
    · simp [hr, ih]

/-- Looking up a record of another epoch. -/
theorem State.record_changeRecord_ne (s : State) {d e : Epoch} (f : Record → Record) (h : ∀ r, (f r).epoch = r.epoch)
    (hd : d ≠ e) : (s.changeRecord e f).record d = s.record d := by
  simp only [State.record, State.changeRecord_records]
  induction s.window.records with
  | nil => rfl
  | cons r t ih =>
    by_cases hr : r.epoch = e
    · have : ¬(e = d) := fun x => hd x.symm
      simp [hr, h, ih, this]
    · by_cases hx : r.epoch = d
      · simp [hx, hd]
      · simp [hr, hx, ih]

@[simp] theorem Record.take_epoch (r : Record) (n : Station) (d : List (BitVec 16)) : (r.take n d).epoch = r.epoch := by
  unfold Record.take; split <;> rfl

/-- A report of a station already heard is ignored (R68). -/
theorem Record.take_duplicate (r : Record) (n : Station) (d : List (BitVec 16)) (h : mapHas r.heard n = true) :
    r.take n d = r := by simp [Record.take, h]

/-- A report of an unheard station enters the heard set, the expected set and the sums (R66). -/
theorem Record.take_new (r : Record) (n : Station) (d : List (BitVec 16)) (h : mapHas r.heard n = false) :
    (r.take n d).heard = r.heard ||| mapOf n ∧ (r.take n d).expected = r.expected ||| mapOf n ∧
    (r.take n d).sums = List.zipWith (fun v x => v + x.signExtend 32) r.sums d ∧
    (r.take n d).late = (if r.state = .folded then List.zipWith (fun v x => v + x.signExtend 32) r.late d else r.late) ∧
    (r.take n d).applied = r.applied ∧ ((r.take n d).state = .folded ↔ r.state = .folded) := by
  have hs : (r.take n d).state =
      if r.state = .collecting ∧ r.heard ||| mapOf n = r.expected ||| mapOf n then .settled else r.state := by
    simp [Record.take, h]
  refine ⟨by simp [Record.take, h], by simp [Record.take, h], by simp [Record.take, h, addValues],
    by simp [Record.take, h, addValues], by simp [Record.take, h], ?_⟩
  rw [hs]
  split
  · rename_i hc; simp [hc.1]
  · rfl

/-- The window after it took a report: the record of its epoch took it, and the others stand. -/
theorem State.takeReport_record (s : State) (n : Station) (e : Epoch) (d : List (BitVec 16)) :
    (s.takeReport n e d).record e = (s.record e).map (fun r => r.take n d) := by
  unfold State.takeReport
  split
  · rename_i h; simp [h]
  · have hc := s.record_changeRecord e (fun r => r.take n d) (fun r => r.take_epoch n d)
    dsimp only
    split
    · exact hc
    · exact hc

theorem insertGap_length (l : List Gap) (g : Gap) : (insertGap l g).length ≤ l.length + 1 := by
  rw [insertGap]
  split
  · omega
  · have h := congrArg List.length (List.takeWhile_append_dropWhile (p := fun x => gapBefore x g) (l := l))
    rw [List.length_append] at h
    rw [List.length_append, List.length_cons]
    omega

/-- The gap list never grows past sixteen (R86). -/
theorem enterGaps_length (l : List Gap) (n : Nat) (g : List Gap) (h : l.length ≤ 16) : (enterGaps l n g).1.length ≤ 16 := by
  induction g generalizing l n with
  | nil => exact h
  | cons x t ih =>
    rw [enterGaps]
    split
    · exact ih _ _ (le_trans (insertGap_length l x) (by omega))
    · exact ih _ _ h

theorem insertAdj_length (q : List Adjustment) (a : Adjustment) : (insertAdj q a).length = q.length + 1 := by
  have h := congrArg List.length (List.takeWhile_append_dropWhile (p := fun x => adjBefore x a) (l := q))
  rw [List.length_append] at h
  rw [insertAdj, List.length_append, List.length_cons]
  omega

/-- The asked set never grows past thirty-two (R75). -/
theorem addAsked_length (l p : List Pair) (h : l.length ≤ 32) : (addAsked l p).length ≤ 32 := by
  unfold addAsked
  induction p generalizing l with
  | nil => exact h
  | cons x t ih =>
    rw [List.foldl_cons]
    apply ih
    split
    · exact h
    · rename_i hn
      simp only [Bool.or_eq_true, decide_eq_true_eq, not_or, not_le] at hn
      rw [List.length_append]
      simp only [List.length_singleton]
      omega

/-- The outbox never grows past eight (R55). -/
theorem placeReport_length (b : Builder) (e : Epoch) (d : List (BitVec 16)) (x : Bool) (h : b.outbox.length ≤ 8) :
    (placeReport b e d x).outbox.length ≤ 8 := by
  have hm : (makeRoom b).outbox.length ≤ 7 := by
    unfold makeRoom
    split
    · omega
    · split
      · rename_i hb; simp [hb]
      · rename_i e t hb
        rw [hb] at h
        simp only [List.length_cons] at h
        exact Nat.le_of_succ_le_succ h
  simp only [placeReport, List.length_append, List.length_map, List.length_singleton]
  omega

/-- The entry a capture places is the newest, and carries what was captured (R54, R57). -/
theorem placeReport_last (b : Builder) (e : Epoch) (d : List (BitVec 16)) (x : Bool) :
    (placeReport b e d x).outbox.getLast? =
      some { epoch := e, deltas := d, transmitted := false, resends := 0, designated := x } := by
  simp [placeReport]

end Sys2Proof.Machine
end

