-- ==== Sys2Proof/Laws/Mark.lean ====
section
/-! SUPPORT. What the responses to a mark of R64 do: the new record, the capture, and what a mark leaves alone. -/

namespace Sys2Proof.Machine

/-- A mark is no install in RUN: only a joiner installs at the start of a mark's responses (R99). -/
theorem State.installing_run (s : State) (h : s.ctl.life = .run) : s.installing = false := by simp [State.installing, h]

/-- The record a mark creates is the newest (R64). -/
theorem State.createRecord_head (s : State) (b : Bool) : (s.createRecord b).window.records.head? = some
    { epoch := s.clock.cur - 1, state := if s.expectedNow b = 0 then .settled else .collecting
      expected := s.expectedNow b, heard := 0, sums := List.replicate s.ctl.profile.pools 0
      late := List.replicate s.ctl.profile.pools 0, applied := [] } := rfl

@[simp] theorem State.createRecord_asked (s : State) (b : Bool) : (s.createRecord b).window.asked = s.window.asked := rfl

/-- After the window's response to a mark nothing is asked (R75). -/
@[simp] theorem State.windowMark_asked (s : State) (b : Bool) : (s.windowMark b).window.asked = [] := rfl

/-- The window's response makes record cur − 1 the newest (R64). -/
theorem State.windowMark_head (s : State) (b : Bool) : (s.windowMark b).window.records.head? = some
    { epoch := s.clock.cur - 1, state := if s.expectedNow b = 0 then .settled else .collecting
      expected := s.expectedNow b, heard := 0, sums := List.replicate s.ctl.profile.pools 0
      late := List.replicate s.ctl.profile.pools 0, applied := [] } := by
  have h := (s.foldAtMark.age).createRecord_head b
  have he : (s.foldAtMark.age).expectedNow b = s.expectedNow b := by
    simp [State.expectedNow, State.entry, State.own]
  rw [he] at h
  simp only [State.age_frame, State.foldAtMark_frame] at h
  exact h

/-- Every station is among the stations. -/
theorem mem_stations : ∀ n : Station, n ∈ stations := by decide

/-- The expected set of a record created in RUN is never empty: it holds this station (R64). -/
theorem State.expectedNow_run (s : State) : s.expectedNow true ≠ 0 := by
  have key : ∀ (p : Station → Bool) (n : Station), p n = true → mapWhere p ≠ 0 := by
    intro p n hp h0
    have hor : ∀ (l : List Station) (m : StationMap) (i : Nat),
        (l.foldl (fun m n => if p n then m ||| mapOf n else m) m).getLsbD i =
          (m.getLsbD i || l.any (fun k => p k && (mapOf k).getLsbD i)) := by
      intro l
      induction l with
      | nil => simp
      | cons a t ih =>
        intro m i
        rw [List.foldl_cons, ih, List.any_cons]
        by_cases ha : p a = true
        · simp [ha, Bool.or_assoc]
        · simp [ha]
    have h := hor stations 0 n.val
    have hs : stations.foldl (fun m n => if p n then m ||| mapOf n else m) 0 = 0 := h0
    rw [hs] at h
    have hm := mem_stations n
    have hb : (mapOf n).getLsbD n.val = true := by
      have hn := n.isLt
      simp [mapOf, hn]
    have ht : (stations.any (fun k => p k && (mapOf k).getLsbD n.val)) = true :=
      List.any_eq_true.mpr ⟨n, hm, by simp [hp, hb]⟩
    rw [ht] at h
    simp at h
  exact key _ s.own (by simp)

/-- The new entry of a capture is the newest in the outbox (R54, R57). -/
theorem State.capture_last (s : State) (b : Bool) : (s.capture b).builder.outbox.getLast? = some
    { epoch := s.clock.cur - 1, deltas := s.captureDeltas, transmitted := false, resends := 0, designated := b } := by
  simp only [State.capture]
  split
  · exact placeReport_last _ _ _ _
  · rw [(State.offerKey_frame _ _).2.2.2.2.1]; exact placeReport_last _ _ _ _

/-- The channels after a capture (R144). -/
theorem State.capture_channels (s : State) (b : Bool) : (s.capture b).channels = s.captureChannels := by
  simp only [State.capture]
  split
  · rfl
  · simp

/-- A capture at a direct mark leaves the line access unit alone (R57). -/
@[simp] theorem State.capture_direct_line (s : State) : (s.capture true).line = s.line := rfl

/-- What a capture takes is what builder, channels and profile hold. -/
theorem State.captureDeltas_congr {s t : State} (hb : t.builder = s.builder) (hc : t.channels = s.channels)
    (hp : t.ctl.profile = s.ctl.profile) : t.captureDeltas = s.captureDeltas := by
  simp only [State.captureDeltas, State.captureTotal, State.handedOver, hb, hc, hp]

/-- The report of the discarded count leaves it at 0, and the rest of the line as it stands (R24). -/
theorem State.reportDiscarded_line (s : State) : s.reportDiscarded.line = { s.line with discarded := 0 } := by
  unfold State.reportDiscarded
  split
  · rename_i h
    rw [← h]
  · rfl

/-- A conflict-free mark leaves entries and reference (R50). -/
@[simp] theorem State.conflictFreeMark_roster (s : State) :
    s.conflictFreeMark.roster.entries = s.roster.entries ∧ s.conflictFreeMark.roster.reference = s.roster.reference := by
  unfold State.conflictFreeMark
  split
  · simp
  · split <;> simp

/-- What no mark of R64 writes. -/
@[simp] theorem State.takeMark_frame (s : State) (d : Bool) :
    (s.takeMark d).now = s.now ∧ (s.takeMark d).roster.entries = s.roster.entries ∧
    (s.takeMark d).roster.reference = s.roster.reference ∧ (s.takeMark d).ctl.profile = s.ctl.profile ∧
    (s.takeMark d).ctl.straps = s.ctl.straps ∧ (s.takeMark d).pending = s.pending := by
  simp only [State.takeMark]
  have hj : ∀ (x : State) (b : Bool), (x.joinerRuns b).ctl.profile = x.ctl.profile ∧
      (x.joinerRuns b).ctl.straps = x.ctl.straps := by
    intro x b; unfold State.joinerRuns; split <;> simp
  have hc : ∀ (x : State) (b : Bool), (x.controllerMark b).ctl.profile = x.ctl.profile ∧
      (x.controllerMark b).ctl.straps = x.ctl.straps := by
    intro x b
    unfold State.controllerMark
    split
    · exact ⟨rfl, rfl⟩
    · split <;> exact ⟨rfl, rfl⟩
  repeat' split
  all_goals simp [hj, hc]

/-! ### A mark in RUN -/

/-- An install writes nothing of the window but the late pendings, which it sets to 0 (R99). -/
theorem State.install_window (s : State) (h : HeldSnapshot) : (s.install h).window = { s.window with
    records := s.window.records.map (fun r => { r with late := r.late.map (fun _ => 0) }) } := by
  have hr : ∀ (l : List Record) (x : State), (l.foldl State.replayRecord x).window = x.window :=
    fun l x => foldl_keeps State.window _ (fun b a => (State.replayRecord_frame b a).2.2.2.2.2.2.1) l x
  simp only [State.install]
  split <;> simp only [State.setAgreement_frame, State.recordDigest_window, hr]

/-- A held snapshot that is installed, or not, leaves the newest record if its late pending is 0. -/
theorem State.installHeld_window (s : State) (b : Bool) :
    (s.installHeld b).window = s.window ∨ (s.installHeld b).window = { s.window with
      records := s.window.records.map (fun r => { r with late := r.late.map (fun _ => 0) }) } := by
  unfold State.installHeld
  split
  · exact Or.inl rfl
  · split
    · exact Or.inr (State.install_window _ _)
    · split <;> exact Or.inl rfl

theorem State.installHeld_head (s : State) (b : Bool) (r : Record) (h : s.window.records.head? = some r)
    (hl : r.late.map (fun _ => (0 : BitVec 32)) = r.late) : (s.installHeld b).window.records.head? = some r := by
  rcases s.installHeld_window b with hw | hw
  · rw [hw, h]
  · rw [hw, List.head?_map, h, Option.map_some, hl]

@[simp] theorem State.installHeld_asked (s : State) (b : Bool) : (s.installHeld b).window.asked = s.window.asked := by
  rcases s.installHeld_window b with hw | hw <;> rw [hw]

/-- A mark in RUN is these responses one after another (R64). -/
theorem State.takeMark_run (s : State) (d : Bool) (hr : s.ctl.life = .run) :
    s.takeMark d = ((((((s.reportDiscarded.conflictFreeMark).windowMark true).countMark).installHeld false).capture
      d).controllerMark false).driveMark s.pool.agreement := by
  simp only [State.takeMark, s.installing_run hr]
  simp [State.joinerRuns, hr]

theorem State.controllerMark_run (s : State) (h : s.ctl.life = .run) :
    (s.controllerMark false).ctl = { s.ctl with leave := if s.ctl.leave = .taken then .leaving else s.ctl.leave } := by
  unfold State.controllerMark
  by_cases hl : s.ctl.leave = .taken
  · simp [h, hl]
  · simp only [h, hl, reduceCtorEq, and_false, if_false]; rw [← h]

/-- What a mark in RUN does: the new record (R64), the emptied asked set (R75), the capture (R54, R144), the reported
discarded count (R24) and the leave stage (R133). -/
theorem State.takeMark_run_spec (s : State) (d : Bool) (hr : s.ctl.life = .run) :
    (s.takeMark d).window.records.head? = some
      { epoch := s.clock.cur - 1, state := .collecting
        expected := mapWhere (fun n => n == s.own || (s.entry n).state == .present || (s.entry n).state == .missing)
        heard := 0, sums := List.replicate s.ctl.profile.pools 0, late := List.replicate s.ctl.profile.pools 0
        applied := [] } ∧
    (s.takeMark d).window.asked = [] ∧
    (s.takeMark d).builder.outbox.getLast? = some
      { epoch := s.clock.cur - 1, deltas := s.captureDeltas, transmitted := false, resends := 0, designated := d } ∧
    (∀ i : Fin 4, (s.takeMark d).channels.get i =
      if (s.ctl.profile.channels.get i).mode = .off then s.channels.get i
      else { s.channels.get i with acc := 0, accSat := false }) ∧
    (s.takeMark d).line.discarded = 0 ∧ (d = true → (s.takeMark d).line = { s.line with discarded := 0 }) ∧
    (s.takeMark d).ctl = { s.ctl with leave := if s.ctl.leave = .taken then .leaving else s.ctl.leave } ∧
    (s.takeMark d).clock = s.clock := by
  rw [s.takeMark_run d hr]
  have hcd : ((s.reportDiscarded.conflictFreeMark.windowMark true).countMark.installHeld false).captureDeltas =
      s.captureDeltas := State.captureDeltas_congr (by simp) (by simp) (by simp)
  refine ⟨?_, ?_, ?_, ?_, ?_, ?_, ?_, ?_⟩
  · simp only [State.driveMark_frame, State.controllerMark_frame, State.capture_frame]
    apply State.installHeld_head
    · simp only [State.countMark_frame]
      rw [State.windowMark_head]
      have he : (s.reportDiscarded.conflictFreeMark).expectedNow true = s.expectedNow true := by
        simp [State.expectedNow, State.entry, State.own]
      rw [he, if_neg s.expectedNow_run]
      simp [State.expectedNow]
    · simp
  · simp
  · simp only [State.driveMark_frame, State.controllerMark_frame, State.capture_last, hcd]
    simp
  · intro i
    simp only [State.driveMark_frame, State.controllerMark_frame, State.capture_channels, State.captureChannels_get]
    simp
  · cases d <;> simp [State.reportDiscarded_line, State.capture, State.offerKey_line]
  · rintro rfl
    simp [State.reportDiscarded_line]
  · simp only [State.driveMark_frame]
    rw [State.controllerMark_run _ (by simp [hr])]
    simp
  · simp

end Sys2Proof.Machine
end

