-- ==== Sys2Proof/Laws/Pins.lean ====
section
/-! SUPPORT. What the input filters are heading for: the filtered changes to come, and which of them comes next. -/

namespace Sys2Proof.Machine

/-- The filter width is the default's, 4 steps of 0.5 µs, until the freeze, and the profile's from then on (R152, R170). -/
theorem State.filterWidth_eq (s : State) (i : Fin 4) : s.filterWidth i =
    500 * ((if s.ctl.frozen then (s.ctl.profile.channels.get i).width else 4 : Nat) : Int) := by
  have h : (Profile.default.channels.get i).width = 4 := by revert i; decide
  unfold State.filterWidth State.takenChannel
  split <;> simp [h]

/-- Every input is listed once. -/
theorem mem_inputPins (i : Fin 4) (x : InputPin) : (i, x) ∈ inputPins := by
  fin_cases i <;> cases x <;> decide

/-- An input is heading for a change exactly while its pin stands at the other level (R139). -/
theorem State.changeOf_some (s : State) (i : Fin 4) (x : InputPin) (c : FilterChange) :
    s.changeOf i x = some c ↔ (s.pin i x).high ≠ (s.channels.get i).level x ∧
      c = { due := (s.pin i x).since + s.filterWidth i, ch := i, pin := x } := by
  unfold State.changeOf
  split
  · rename_i h; simp [h]
  · rename_i h
    simp only [Option.some.injEq, ne_eq, h, not_false_eq_true, true_and]
    exact eq_comm

/-- The changes to come, outside hardware reset, are those the inputs are heading for. -/
theorem State.mem_filterChanges (s : State) (h : s.ctl.inReset = false) (c : FilterChange) :
    c ∈ s.filterChanges ↔ s.changeOf c.ch c.pin = some c := by
  unfold State.filterChanges
  rw [if_neg (by simp [h]), List.mem_filterMap]
  constructor
  · rintro ⟨p, _, hp⟩
    obtain ⟨_, rfl⟩ := (s.changeOf_some p.1 p.2 c).mp hp
    exact hp
  · intro hc
    exact ⟨(c.ch, c.pin), mem_inputPins _ _, hc⟩

/-- With every filtered level at its pin's no change is to come. -/
theorem State.filterChanges_settled (s : State) (h : ∀ i x, (s.pin i x).high = (s.channels.get i).level x) :
    s.filterChanges = [] := by
  unfold State.filterChanges
  split
  · rfl
  · rw [List.filterMap_eq_nil_iff]
    intro p _
    simp [State.changeOf, h]

theorem mem_earliest {l : List FilterChange} {c : FilterChange} :
    c ∈ earliest l ↔ c ∈ l ∧ ∀ d ∈ l, c.due ≤ d.due := by
  simp [earliest, List.mem_filter]

/-- Of any changes to come some come first. -/
theorem earliest_ne_nil {l : List FilterChange} (h : l ≠ []) : earliest l ≠ [] := by
  obtain ⟨c, hc, hm⟩ : ∃ c ∈ l, ∀ d ∈ l, c.due ≤ d.due := by
    induction l with
    | nil => exact absurd rfl h
    | cons a t ih =>
      by_cases ht : t = []
      · exact ⟨a, by simp, by simp [ht]⟩
      · obtain ⟨c, hc, hm⟩ := ih ht
        rcases le_total a.due c.due with hac | hac
        · refine ⟨a, by simp, fun d hd => ?_⟩
          rcases List.mem_cons.mp hd with rfl | hd
          · exact le_refl _
          · exact le_trans hac (hm d hd)
        · refine ⟨c, by simp [hc], fun d hd => ?_⟩
          rcases List.mem_cons.mp hd with rfl | hd
          · exact hac
          · exact hm d hd
  exact List.ne_nil_of_mem (mem_earliest.mpr ⟨hc, hm⟩)

/-- The next change is one of those that come first. -/
theorem State.nextChange_mem (s : State) {c : FilterChange} (h : s.nextChange = some c) :
    c ∈ s.filterChanges ∧ ∀ d ∈ s.filterChanges, c.due ≤ d.due := by
  rw [← mem_earliest]
  unfold State.nextChange at h
  split at h
  · simp at h
  · rename_i a he; rw [he]; simpa using h.symm
  · rename_i a t _ he; rw [he]; exact List.mem_of_getElem? h

/-- There is a next change exactly while one is to come. -/
theorem State.nextChange_none (s : State) : s.nextChange = none ↔ s.filterChanges = [] := by
  constructor
  · intro h
    by_contra hn
    have he := earliest_ne_nil hn
    unfold State.nextChange at h
    split at h
    · rename_i h0; exact he h0
    · simp at h
    · rw [List.getElem?_eq_none_iff] at h
      exact absurd h (not_le.mpr (Nat.mod_lt _ (by simp)))
  · intro h
    simp [State.nextChange, h, earliest]

/-- A pin that takes its level's opposite holds the new level from the present instant; any other pin stands (R139). -/
theorem State.pinTakes_pin (s : State) (i j : Fin 4) (x y : InputPin) (high : Bool) :
    (s.pinTakes i x high).pin j y =
      if j = i ∧ y = x ∧ (s.pin i x).high ≠ high then { high := high, since := s.now } else s.pin j y := by
  unfold State.pinTakes
  split
  · rename_i h; simp [h]
  · rename_i h
    by_cases hj : j = i
    · subst hj
      simp only [State.setPin, State.pin, Tbl.get_set_same]
      cases x <;> cases y <;> simp_all [ChannelPins.set, ChannelPins.get, State.pin]
    · simp [State.setPin, State.pin, Tbl.get_set_ne, hj]

end Sys2Proof.Machine
end

