-- ==== Sys2Proof/Laws/Receive.lean ====
section
/-! SUPPORT. What the receiver's shared steps do: a frame heard and no more, an identity conflict counted, and a matching
MARK taken in LISTEN. -/

namespace Sys2Proof.Machine

@[simp] theorem State.heard_now (s : State) (dt : Nat) : (s.heard dt).now = s.now + dt := rfl
@[simp] theorem State.heard_clock (s : State) (dt : Nat) : (s.heard dt).clock = s.clock := rfl
@[simp] theorem State.heard_roster (s : State) (dt : Nat) : (s.heard dt).roster = s.roster := rfl
@[simp] theorem State.heard_ctl (s : State) (dt : Nat) : (s.heard dt).ctl = s.ctl := rfl
@[simp] theorem State.heard_port (s : State) (dt : Nat) : (s.heard dt).port = s.port := rfl

/-- A frame at the blocks is heard before any block takes it (R19, R23). -/
theorem State.lineIdle_later (s : State) (dt : Nat) : (s.later dt).lineIdle (s.later dt).now = s.heard dt := rfl

/-- The first two conflicts are counted with their event and do nothing else (R50). -/
theorem State.countConflict_counts (s : State) (h : s.roster.conflicts < 2) : s.countConflict =
    { s with roster := { s.roster with conflicts := s.roster.conflicts + 1, conflictFree := 0 } }.raise .roster
      .identityConflict (some s.own) (BitVec.ofNat 16 (s.roster.conflicts + 1)) := by
  simp only [State.countConflict]
  exact if_neg (by omega)

/-- The third conflict is counted with its event and mutes (R50). -/
theorem State.countConflict_mutes (s : State) (h : 2 ≤ s.roster.conflicts) : s.countConflict =
    ({ s with roster := { s.roster with conflicts := s.roster.conflicts + 1, conflictFree := 0 } }.raise .roster
      .identityConflict (some s.own) (BitVec.ofNat 16 (s.roster.conflicts + 1))).enterFrozen .mute .identity := by
  simp only [State.countConflict]
  exact if_pos (by omega)

/-- A matching MARK in LISTEN sets cur, pacing station and slot phase (R14). -/
theorem State.listenClock_clock (s : State) (f : MarkFrame) : (s.listenClock f).clock =
    { s.clock with cur := f.epoch, pacing := some f.sender, origin := some s.now, slotTimer := .slots, slotCount := 0
                   pending := false } := by
  simp [State.listenClock, State.beginEpoch]

/-- A matching MARK in LISTEN is counted where its map does not hold this station's number (R122). -/
theorem State.listenMap_matching (s : State) (f : MarkFrame) (h : mapHas f.map s.own = false) :
    (s.listenMap f).ctl.matching = s.ctl.matching + 1 := by
  simp only [State.listenMap, h]
  split
  · contradiction
  · split
    · simp [State.enterJoining, State.reloadSilence, State.setLife, State.raise]
    · rfl

end Sys2Proof.Machine
end

