-- ==== Sys2Proof/Laws/Serial.lean ====
section
/-! SUPPORT. The service port bit by bit: bytes of their bits, the command a transaction's bytes spell, and what SDO
carries. -/

namespace Sys2Proof.Machine

/-- A byte is read back from its bits, most significant bit first. -/
theorem byteOf_bits (b : Byte) : byteOf [b.getLsbD 7, b.getLsbD 6, b.getLsbD 5, b.getLsbD 4, b.getLsbD 3, b.getLsbD 2,
    b.getLsbD 1, b.getLsbD 0] = b := by
  revert b; decide +kernel

/-- WRITE PROFILE's value is read back from its four bytes (R189). -/
theorem writeOf_bytes (n : Byte) (v : BitVec 32) : writeOf (n :: bytes32 v) = some (.writeProfile 0 n v) := by
  simp only [writeOf, bytes32]
  rw [bytes32_read]

/-- A post's items are read back from their bytes (R189). -/
theorem postOf_bytes (count : Byte) (items : List RawItem) (h : items.length = postedItems count) :
    postOf (count :: items.flatMap RawItem.bytes) = some (.postAdjustment 0 count items) := by
  have hl : (items.flatMap RawItem.bytes).length = 6 * postedItems count := by rw [flatMap_item_length, h]
  simp only [postOf]
  rw [if_pos hl, readItems_flatMap]

/-- A code that names no command is taken at once (R175). -/
theorem commandOf_unknown (code : Byte) (args : List Byte) (h : code ∉ commandCodes) :
    commandOf (code :: args) = some (.unknownCommand 0 code) := by
  simp only [commandCodes, List.mem_cons, List.not_mem_nil, or_false, not_or] at h
  obtain ⟨h1, h2, h3, h4, h5, h6, h7, h8, h9, h10, h11, h12, h13, h14⟩ := h
  simp only [commandOf]
  rw [if_neg h1, if_neg h2, if_neg h3, if_neg h4, if_neg h5, if_neg h6, if_neg h7, if_neg h8, if_neg h9, if_neg h10,
    if_neg h11, if_neg h12, if_neg h13, if_neg h14]

/-- SDI is ignored once the command is taken (R173). -/
theorem Txn.clockIn_taken (x : Txn) (bit : Bool) (h : x.taken = true) : x.clockIn bit = (x, none) := by
  simp [Txn.clockIn, h]

/-- A bit that does not complete a byte is kept (R172). -/
theorem Txn.clockIn_bit (x : Txn) (bit : Bool) (h : x.taken = false) (hl : x.shift.length < 7) :
    x.clockIn bit = ({ x with shift := x.shift ++ [bit] }, none) := by
  have : x.shift.length + 1 < 8 := by omega
  simp [Txn.clockIn, h, this]

/-- The eighth bit completes a byte, and the byte may complete a command (R172, R173). -/
theorem Txn.clockIn_byte (x : Txn) (bit : Bool) (h : x.taken = false) (hl : x.shift.length = 7) :
    x.clockIn bit =
      ({ shift := [], bytes := x.bytes ++ [byteOf (x.shift ++ [bit])]
         taken := (commandOf (x.bytes ++ [byteOf (x.shift ++ [bit])])).isSome, falls := 0 },
        commandOf (x.bytes ++ [byteOf (x.shift ++ [bit])])) := by
  simp [Txn.clockIn, h, hl]

/-- SDO is released outside a transaction (R172, R185). -/
theorem State.sdo_released (s : State) (h : s.port.txn = none) : s.sdo = none := by simp [State.sdo, h]

/-- SDO carries ones until the fall of SCK after the last argument byte (R172). -/
theorem State.sdo_filler (s : State) (x : Txn) (h : s.port.txn = some x) (hf : x.taken = false ∨ x.falls = 0) :
    s.sdo = some true := by
  unfold State.sdo
  rw [h]
  cases s.port.reply with
  | none => rfl
  | some r => rcases hf with hf | hf <;> simp [hf]

/-- From that fall on SDO carries the outcome and result bytes, most significant bit first, then filler (R172). -/
theorem State.sdo_reply (s : State) (x : Txn) (r : Reply) (n : Nat) (h : s.port.txn = some x) (ht : x.taken = true)
    (hr : s.port.reply = some r) (hf : x.falls = n + 1) : s.sdo = some ((r.sdo (n / 8)).getLsbD (7 - n % 8)) := by
  unfold State.sdo
  rw [h, hr]
  simp [ht, hf]

/-- CS that keeps its level changes nothing. -/
theorem State.csTakes_same (s : State) (high : Bool) (h : s.inputs.cs = high) : s.csTakes high = (s, none) := by
  subst h
  simp [State.csTakes]

end Sys2Proof.Machine
end

