-- ==== Sys2Proof/Laws/Steps.lean ====
section
/-! SUPPORT. What additions, items, late folds and replays do to one pool table entry, as steps (R80, R81, R82, R99). -/

namespace Sys2Proof.Machine

@[simp] theorem PoolEntry.stepped_set (e : PoolEntry) (v : BitVec 32) : e.stepped (.set v) = { e with balance := v } := rfl

/-- One addition is one step of its pool's entry (R80). -/
theorem State.addBalance_entry (s : State) (p q : Fin 8) (v : BitVec 32) :
    (s.addBalance p v).pool.table.get q =
      if q = p then (s.pool.table.get p).stepped (.add v) else s.pool.table.get q := by
  have h : (s.addBalance p v).pool.table = s.pool.table.set p ((s.pool.table.get p).stepped (.add v)) := by
    simp only [State.addBalance]
    split
    · rfl
    · split <;> rfl
  rw [h, Tbl.get_set]

/-- Additions to pools i, i + 1, … are one step of an entry at most (R81). -/
theorem State.addEach_entry (l : List (BitVec 32)) (s : State) (i : Nat) (p : Fin 8) :
    (s.addEach i l).pool.table.get p =
      ((if i ≤ p.val then l[p.val - i]? else none).toList.map BalanceStep.add).foldl PoolEntry.stepped
        (s.pool.table.get p) := by
  induction l generalizing s i with
  | nil => simp [State.addEach]
  | cons v t ih =>
    rw [State.addEach, ih]
    by_cases hi : i < 8
    · rw [dif_pos hi, State.addBalance_entry]
      by_cases hp : p = ⟨i, hi⟩
      · subst hp
        simp
      · have hne : p.val ≠ i := fun h => hp (Fin.ext h)
        rw [if_neg hp]
        by_cases hle : i + 1 ≤ p.val
        · have h1 : p.val - i = (p.val - (i + 1)) + 1 := by omega
          rw [if_pos hle, if_pos (by omega), h1, List.getElem?_cons_succ]
        · rw [if_neg hle, if_neg (by omega)]
    · rw [dif_neg hi, if_neg (by omega), if_neg (by omega)]

/-- The steps that an adjustment's items bring to pool p (R81). -/
def itemSteps (p : Fin 8) (items : List AdjItem) : List BalanceStep :=
  (items.filter (fun i => i.pool == p.val)).map (fun i => if i.set then .set i.value else .add i.value)

theorem recordSteps_eq (p : Fin 8) (sums : List (BitVec 32)) (applied : List Adjustment) :
    recordSteps p sums applied = sums[p.val]?.toList.map .add ++ itemSteps p (applied.flatMap (fun a => a.items)) := rfl

theorem itemSteps_cons (p : Fin 8) (i : AdjItem) (l : List AdjItem) :
    itemSteps p (i :: l) = itemSteps p [i] ++ itemSteps p l := by
  simp only [itemSteps, List.filter_cons, List.filter_nil]
  split <;> rfl

theorem itemSteps_append (p : Fin 8) (a b : List AdjItem) : itemSteps p (a ++ b) = itemSteps p a ++ itemSteps p b := by
  simp [itemSteps]

/-- One item is one step of its pool's entry (R80, R110). -/
theorem State.applyItem_entry (s : State) (i : AdjItem) (p : Fin 8) :
    (s.applyItem i).pool.table.get p = (itemSteps p [i]).foldl PoolEntry.stepped (s.pool.table.get p) := by
  simp only [State.applyItem, itemSteps, List.filter_cons, List.filter_nil]
  by_cases h : i.pool < 8
  · rw [dif_pos h]
    by_cases hp : p = ⟨i.pool, h⟩
    · subst hp
      cases hs : i.set <;> simp [State.addBalance_entry, hs]
    · have hne : i.pool ≠ p.val := fun e => hp (Fin.ext e.symm)
      cases hs : i.set <;> simp [State.addBalance_entry, Tbl.get_set, hp, hne]
  · have hne : i.pool ≠ p.val := fun e => h (e ▸ p.isLt)
    simp [dif_neg h, hne]

/-- An adjustment's items are its steps, in the order they were posted (R81). -/
theorem State.applyItems_entry (s : State) (a : Adjustment) (p : Fin 8) :
    (s.applyItems a).pool.table.get p = (itemSteps p a.items).foldl PoolEntry.stepped (s.pool.table.get p) := by
  have h : ∀ (l : List AdjItem) (s : State), (l.foldl State.applyItem s).pool.table.get p =
      (itemSteps p l).foldl PoolEntry.stepped (s.pool.table.get p) := by
    intro l
    induction l with
    | nil => intro s; rfl
    | cons i t ih =>
      intro s
      rw [List.foldl_cons, ih, State.applyItem_entry, itemSteps_cons p i t, List.foldl_append]
  exact h a.items s

/-- A list of adjustments brings the steps of their items, in its order; each may raise an event beside them (R81, R110). -/
theorem foldl_adjustments_entry (f : State → Adjustment → State)
    (hf : ∀ s a p, (f s a).pool.table.get p = (itemSteps p a.items).foldl PoolEntry.stepped (s.pool.table.get p))
    (l : List Adjustment) (s : State) (p : Fin 8) :
    (l.foldl f s).pool.table.get p =
      (itemSteps p (l.flatMap (fun a => a.items))).foldl PoolEntry.stepped (s.pool.table.get p) := by
  induction l generalizing s with
  | nil => rfl
  | cons a t ih =>
    rw [List.foldl_cons, ih, hf, List.flatMap_cons, itemSteps_append, List.foldl_append]

/-- The replay of one record is its steps (R99). -/
theorem State.replayRecord_entry (s : State) (r : Record) (p : Fin 8) :
    (s.replayRecord r).pool.table.get p =
      (recordSteps p r.sums r.applied).foldl PoolEntry.stepped (s.pool.table.get p) := by
  rw [State.replayRecord, foldl_adjustments_entry _ State.applyItems_entry, State.addEach_entry, recordSteps_eq,
    List.foldl_append]
  simp

/-- The late fold is the steps of the late pendings, oldest record first (R72, R82). -/
theorem State.lateFold_entry (s : State) (skip : Option Epoch) (p : Fin 8) :
    (s.lateFold skip).pool.table.get p =
      (lateSteps p (s.window.records.filter (fun r => r.state == .folded && some r.epoch != skip)).reverse).foldl
        PoolEntry.stepped (s.pool.table.get p) := by
  have h : ∀ (l : List Record) (s : State), (l.foldl (fun s r => s.addEach 0 r.late) s).pool.table.get p =
      (lateSteps p l).foldl PoolEntry.stepped (s.pool.table.get p) := by
    intro l
    induction l with
    | nil => intro s; rfl
    | cons r t ih =>
      intro s
      rw [List.foldl_cons, ih, State.addEach_entry]
      cases hr : r.late[p.val]? <;> simp [lateSteps, hr]
  exact h _ s

end Sys2Proof.Machine
end

