-- ==== Sys2Proof/Laws/Wires.lean ====
section
/-! SUPPORT. Steps with no command waiting: what comes next, and what a wire that takes no command leaves. -/

namespace Sys2Proof.Machine

/-- With no command waiting a step is a tick. -/
theorem step_tick (s : State) (h : s.pending = []) : step s = tick s := by simp [step, h]

/-- Without a sample to come a tick is what comes at the pins. -/
theorem tick_pins (s : State) (h : s.nextSample = none) : tick s = tickPins s := by simp [tick, h]

/-- What comes at the pins before the next sample is taken first. -/
theorem tick_pins_first (s : State) (u : Instant) (hu : s.nextOnPins = some u)
    (h : ∀ t : Instant, s.nextSample = some t → u < t) : tick s = tickPins s := by
  cases hs : s.nextSample with
  | none => exact tick_pins s hs
  | some t =>
    have hut := h t hs
    simp [tick, hs, hu, not_lt.mpr hut.le, hut]

/-- A sample that comes before every filtered change and every wire is taken. -/
theorem tick_sample (s : State) (t : Instant) (hs : s.nextSample = some t) (h : FirstAt s t) :
    tick s = takeSample t s := by
  obtain ⟨_, hc, hw⟩ := h
  have hlt : ∀ u, s.nextOnPins = some u → t < u := by
    intro u hu
    unfold State.nextOnPins at hu
    split at hu
    · simp at hu
    · rename_i c _ hn
      rw [← Option.some.inj hu]; exact hc c (s.nextChange_mem hn).1
    · rename_i w _ hx _
      rw [← Option.some.inj hu]; exact hw w (by simp [hx])
    · rename_i w _ c hx hn
      rw [← Option.some.inj hu]; exact lt_min (hc c (s.nextChange_mem hn).1) (hw w (by simp [hx]))
  cases hu : s.nextOnPins with
  | none => simp [tick, hs, hu]
  | some u => simp [tick, hs, hu, hlt u hu]

/-- The state that a sample finds is the state at its instant. -/
theorem State.comeTo_eq (s : State) (t : Instant) : s.comeTo t = s.atSample t := by
  rw [State.comeTo, State.until_now, State.until_eq]; rfl

/-- A sample that brings no command moves the receiver, and time goes on to it. -/
theorem takeSample_quiet (t : Instant) (s : State) (h : (s.atSample t).sample.2 = none) :
    takeSample t s = .next (s.atSample t).sample.1.finish := by
  simp only [takeSample, s.comeTo_eq, h]

/-- A sample that brings a command has it executed as of its instant; the instant of the step is the sample's (R20). -/
theorem takeSample_command (t : Instant) (s u : State) (c : Instr) (x : Instant)
    (h : (s.atSample t).sample.2 = some (c, x)) (hu : exec c { (s.atSample t).sample.1 with now := x } = .next u) :
    takeSample t s = .next { u.idleFromGlitch s.inputs.tally with now := s.due t } := by
  simp only [takeSample, s.comeTo_eq, h, hu, State.atSample_now]

/-- With no wire waiting, no filtered change and no sample to come the block idles. -/
theorem tick_idle (s : State) (hw : s.wires = []) (hf : s.filterChanges = []) (hs : s.nextSample = none) :
    tick s = .next s := by
  simp [tick, tickPins, hs, hw, s.nextChange_none.mpr hf]

/-- With no wire waiting and no sample to come the next filtered change takes place. -/
theorem tick_filter (s : State) (c : FilterChange) (hw : s.wires = []) (hc : s.nextChange = some c)
    (hs : s.nextSample = none) : tick s = takeFilter c s := by
  simp [tick, tickPins, hs, hw, hc]

/-- A wire that comes before every filtered change that is due and every sample is taken. -/
theorem tick_wire (s : State) (w : WireChange) (rest : List WireChange) (hw : s.wires = w :: rest)
    (hf : ∀ c ∈ s.filterChanges, s.now + w.dt < c.due) (hs : ∀ t : Instant, s.nextSample = some t → s.now + w.dt < t) :
    tick s = takeWire w.dt w.wire { s with wires := rest } := by
  have hu : s.nextOnPins = some (s.now + w.dt) := by
    unfold State.nextOnPins
    rw [hw]
    cases hc : s.nextChange with
    | none => rfl
    | some c => simp [min_eq_right (hf c (s.nextChange_mem hc).1).le]
  rw [tick_pins_first s _ hu hs]
  unfold tickPins
  rw [hw]
  dsimp only
  split
  · rfl
  · rename_i c hc
    have hlt := hf c (s.nextChange_mem hc).1
    have hn : s.filterFirst c (s.now + w.dt) w.wire = false := by
      have h1 : ¬(c.due ≤ s.now + w.dt) := not_le.mpr hlt
      have h2 : ¬(c.due < s.now + w.dt) := not_lt.mpr hlt.le
      have h3 : c.due ≠ s.now + w.dt := (ne_of_lt hlt).symm
      cases hx : w.wire <;> simp [State.filterFirst, h1, h2, h3]
    rw [if_neg (by simp [hn]), if_neg (ne_of_lt hlt).symm]

/-- A filtered change before which no wire and no sample comes is taken. -/
theorem tick_filter_first (s : State) (w : WireChange) (rest : List WireChange) (c : FilterChange)
    (hw : s.wires = w :: rest) (hc : s.nextChange = some c) (hf : c.due < s.now + w.dt)
    (hs : ∀ t : Instant, s.nextSample = some t → c.due < t) : tick s = takeFilter c s := by
  have hu : s.nextOnPins = some c.due := by
    unfold State.nextOnPins
    rw [hw, hc]
    simp [min_eq_left hf.le]
  rw [tick_pins_first s _ hu hs]
  unfold tickPins
  rw [hw, hc]
  dsimp only
  have hn : s.filterFirst c (s.now + w.dt) w.wire = true := by
    cases hx : w.wire <;> simp [State.filterFirst, hf, hf.le]
  rw [if_pos hn]

/-- A wire that completes no command leaves what it took, its events and outputs settled. -/
theorem takeWire_quiet (dt : Nat) (w : Wire) (s : State) (h : (State.wireTakes (s.later dt) w).2 = none) :
    takeWire dt w s = .next (State.wireTakes (s.later dt) w).1.finish := by
  have h' : (State.wireTakes { s with now := s.now + dt } w).2 = none := h
  simp only [takeWire, h']
  rfl

/-- A wire that completes a command has it executed at that instant (R173). -/
theorem takeWire_command (dt : Nat) (w : Wire) (s : State) (c : Instr)
    (h : (State.wireTakes (s.later dt) w).2 = some c) :
    takeWire dt w s = exec c (State.wireTakes (s.later dt) w).1 := by
  have h' : (State.wireTakes { s with now := s.now + dt } w).2 = some c := h
  simp only [takeWire, h']
  rfl

/-- A wire brings no event and no output's change of its own, so a ready state stays ready. -/
theorem Ready.wireTakes {s : State} (h : Ready s) (w : Wire) : Ready (s.wireTakes w).1 := by
  cases w with
  | input i x high =>
    have hp : (s.pinTakes i x high).port = s.port ∧ (s.pinTakes i x high).ctl = s.ctl ∧
        (s.pinTakes i x high).pool = s.pool ∧ (s.pinTakes i x high).drives = s.drives := by
      unfold State.pinTakes; split <;> exact ⟨rfl, rfl, rfl, rfl⟩
    exact h.of_same (by rw [State.wireTakes, hp.2.1]) (by rw [State.wireTakes, hp.2.1]) (by rw [State.wireTakes, hp.1])
      (by rw [State.wireTakes, hp.2.2.1]) (by rw [State.wireTakes, hp.2.2.2])
  | cs high =>
    rw [State.wireTakes]
    unfold State.csTakes
    dsimp only
    split
    · exact h
    · split
      · exact h
      · exact h
  | sck high =>
    rw [State.wireTakes]
    unfold State.sckTakes
    dsimp only
    split
    · exact h
    · split
      · exact h
      · split
        · exact h
        · exact h
  | sdi high => exact h
  | line high => exact h.lineTakes high
  | frameBegins =>
    rw [State.wireTakes]
    have hf : Ready s.frameBegins := by
      unfold State.frameBegins; split <;> exact h
    rw [if_neg (by simp [h.1])]
    exact hf

end Sys2Proof.Machine
end

