-- ==== Sys2Proof/Tests/Slice0.lean ====
section
/-! SUPPORT. Tests: commands that cannot be given, frames as the manual writes them, single steps on small states, and for
every statement with hypotheses a state and operands that meet them, clause by clause at the ends of their ranges. -/

namespace Sys2Proof.Tests

open Sys2Proof Sys2Proof.Machine

set_option Elab.async false

/-! ### Small states -/

/-- Station 5 at 1 Mbit/s as hardware reset ends: CONFIG. -/
def config5 : State := State.atReset 0 0 { id := 5, rate := true, auto := false } .reset [] []

/-- Station 5 in a life-cycle state, its receiver on, epoch 10 begun at instant 0 by station 6, profile digest 7. -/
def station5 (life : Life) (ag : Agreement) : State :=
  { config5 with
    ctl := { config5.ctl with life := life, frozen := true, digest := some 7, cause := .none }
    clock := { config5.clock with cur := 10, pacing := some 6, origin := some 0, slotTimer := .slots }
    line := { config5.line with state := .idle 0 }
    roster := { config5.roster with
      entries := config5.roster.entries.set 5 { RosterEntry.blank with state := .self }, reference := some 2 }
    pool := { config5.pool with agreement := ag, clean := true }
    drives := { config5.drives with fault := life == .mute || (life == .run && (ag == .diverged || ag == .resyncing)) } }

/-- Station 5 in RUN and AGREED. -/
def run5 : State := station5 .run .agreed

/-- Station 5 in LISTEN. -/
def listen5 : State := station5 .listen .none

/-- Station 5 in JOINING. -/
def joining5 : State := station5 .joining .none

/-- An outbox entry of epoch 9. -/
def entry9 : OutEntry := { epoch := 9, deltas := [3], transmitted := false, resends := 0, designated := true }

/-- A record of epoch 9 that has heard nobody. -/
def record9 (state : RecordState) : Record :=
  { epoch := 9, state := state, expected := 0x24, heard := 0, sums := [4], late := [0], applied := [] }

/-- run5 with the outbox entry and a record of epoch 9. -/
def run5With (state : RecordState) : State :=
  { run5 with
    builder := { run5.builder with outbox := [entry9] }
    window := { run5.window with records := [record9 state] } }

/-- A state with a frame of the given owner in transmission. -/
def sending (s : State) (f : Frame) (owner : TxOwner) : State :=
  { s with line := { s.line with tx := some { frame := f, began := 0, owner := owner, changed := false }, state := .busy } }

/-- A REPORT of epoch e from station n. -/
def reportOf (n : Station) (e : Epoch) : ReportFrame :=
  { sender := n, epoch := e, deltas := [2], fold := none, clean := true }

/-- A MARK of station n, epoch e, digest d and present map m. -/
def markOf (n : Station) (e : Epoch) (d : Digest) (m : StationMap) : MarkFrame :=
  { sender := n, epoch := e, founding := false, digest := d, map := m }

/-- run5 with its receiver at this place in the bits, on a line that others have held at this level from instant 0. -/
def hearing (rx : Rx) (state : LineState) (high : Bool) : State :=
  { run5 with
    line := { run5.line with rx := rx, state := state }
    inputs := { run5.inputs with tally := { high := high, since := 0 } } }

/-- The state a step answers, or the state itself. -/
def after (c : Instr) (s : State) : State :=
  match exec c s with
  | .next t => t
  | .fault _ => s
  | .refused _ => s

/-- The state after n steps with no command waiting, or where a step stops. -/
def runWires : Nat → State → State
  | 0, s => s
  | n + 1, s =>
    match step s with
    | .next t => runWires n t
    | .fault _ => s
    | .refused _ => s

/-- A byte clocked in, most significant bit first, SDI set before each rise of SCK. -/
def clockByte (b : Byte) : List WireChange :=
  [7, 6, 5, 4, 3, 2, 1, 0].flatMap (fun i =>
    [{ dt := 0, wire := .sck false }, { dt := 0, wire := .sdi (b.getLsbD i) }, { dt := 100, wire := .sck true }])

/-! ### Commands that cannot be given -/

theorem test_wf_report_no_delta : (Instr.reportReceived 0 { reportOf 1 1 with deltas := [] }).wf = false := by decide
theorem test_wf_report_nine_deltas :
    (Instr.reportReceived 0 { reportOf 1 1 with deltas := List.replicate 9 0 }).wf = false := by decide
theorem test_wf_resend_no_delta : (Instr.resendReceived 0 { reportOf 1 1 with deltas := [] }).wf = false := by decide
theorem test_wf_request_five_pairs : (Instr.requestReceived 0
    { sender := 1, target := none, pairs := List.replicate 5 { station := 1, epoch := 1 } }).wf = false := by decide
theorem test_wf_snapshot_no_balance : (Instr.snapshotReceived 0
    { sender := 1, point := 1, balances := [], digest := 0, map := 0 }).wf = false := by decide
theorem test_wf_snapshot_nine_balances : (Instr.snapshotReceived 0
    { sender := 1, point := 1, balances := List.replicate 9 0, digest := 0, map := 0 }).wf = false := by decide
theorem test_wf_adjust_no_item : (Instr.adjustReceived 0
    { sender := 1, serial := 1, effective := 1, pools := 1, items := [] }).wf = false := by decide
theorem test_wf_adjust_five_items : (Instr.adjustReceived 0
    { sender := 1, serial := 1, effective := 1, pools := 1
      items := List.replicate 5 { pool := 0, kind := 0, value := 0 } }).wf = false := by decide
theorem test_wf_adjust_no_pool : (Instr.adjustReceived 0
    { sender := 1, serial := 1, effective := 1, pools := 0, items := [{ pool := 0, kind := 0, value := 0 }] }).wf =
    false := by decide
theorem test_wf_adjust_nine_pools : (Instr.adjustReceived 0
    { sender := 1, serial := 1, effective := 1, pools := 9, items := [{ pool := 0, kind := 0, value := 0 }] }).wf =
    false := by decide
theorem test_wf_discarded_no_byte : (Instr.frameDiscarded 0 []).wf = false := by decide
theorem test_wf_discarded_sixty_five : (Instr.frameDiscarded 0 (List.replicate 65 0)).wf = false := by decide +kernel
theorem test_wf_post_count : (Instr.postAdjustment 0 2 [{ pool := 0, kind := 0, value := 0 }]).wf = false := by decide
theorem test_wf_unknown_known : (Instr.unknownCommand 0 0x15).wf = false := by decide
theorem test_wf_unknown : (Instr.unknownCommand 0 0x16).wf = true := by decide

/-! ### Bytes -/

/-- The check value of the line CRC (R187). -/
theorem test_crc_check_value : crc [0x31, 0x32, 0x33, 0x34, 0x35, 0x36, 0x37, 0x38, 0x39] = 0x29B1 := by decide +kernel

/-- A LEAVE of station 31, byte by byte with its CRC, is read as what it stands for. -/
theorem test_leave_read : checkFrame 1 ([0x97, 0x1F] ++ bytes16 (crc [0x97, 0x1F])) = some (.leave { sender := 31 }) := by
  decide +kernel

/-- A JOIN, byte by byte. -/
theorem test_join_read : checkFrame 8 ([0x86, 0x0C, 0xFF, 0x8A] ++ bytes16 (crc [0x86, 0x0C, 0xFF, 0x8A])) =
    some (.join { sender := 12, digest := 0xFF8A }) := by decide +kernel

/-- A MARK, byte by byte: sender 2, epoch 0x0129, FOUNDING, digest 0xABCD, map of stations 2, 5 and 9. -/
theorem test_mark_read : checkFrame 1 ([0x30, 0x02, 0x01, 0x29, 0x01, 0xAB, 0xCD, 0x00, 0x00, 0x02, 0x24] ++
    bytes16 (crc [0x30, 0x02, 0x01, 0x29, 0x01, 0xAB, 0xCD, 0x00, 0x00, 0x02, 0x24])) =
    some (.mark { sender := 2, epoch := 0x0129, founding := true, digest := 0xABCD, map := 0x224 }) := by decide +kernel

/-- A REPORT of k = 1 without a fold point, byte by byte; its fold point and digest bytes are disregarded. -/
theorem test_report_read : checkFrame 1 ([0x41, 5, 0, 11, 1, 0xFF, 0xFD, 1, 2, 3, 4, 0x01] ++
    bytes16 (crc [0x41, 5, 0, 11, 1, 0xFF, 0xFD, 1, 2, 3, 4, 0x01])) =
    some (.report { sender := 5, epoch := 11, deltas := [-3], fold := none, clean := true }) := by decide +kernel

/-- The same frame is discarded at a station with k = 2 (R22). -/
theorem test_report_wrong_pools : checkFrame 2 ([0x41, 5, 0, 11, 1, 0xFF, 0xFD, 1, 2, 3, 4, 0x01] ++
    bytes16 (crc [0x41, 5, 0, 11, 1, 0xFF, 0xFD, 1, 2, 3, 4, 0x01])) = none := by decide +kernel

/-- A REQUEST with a target and no pair, byte by byte. -/
theorem test_request_read : checkFrame 1 ([0x53, 9, 0x01, 2, 0] ++ bytes16 (crc [0x53, 9, 0x01, 2, 0])) =
    some (.request { sender := 9, target := some 2, pairs := [] }) := by decide +kernel

/-- A SNAPSHOT of k = 1, byte by byte. -/
theorem test_snapshot_read : checkFrame 1 ([0x64, 2, 0, 9, 1, 0, 0, 1, 0, 0xAB, 0xCD, 0, 0, 2, 4] ++
    bytes16 (crc [0x64, 2, 0, 9, 1, 0, 0, 1, 0, 0xAB, 0xCD, 0, 0, 2, 4])) =
    some (.snapshot { sender := 2, point := 9, balances := [0x100], digest := 0xABCD, map := 0x204 }) := by decide +kernel

/-- An ADJUST with one ADD item, byte by byte. -/
theorem test_adjust_read : checkFrame 1 ([0x75, 2, 7, 0, 0x2B, 8, 1, 0, 1, 0xFF, 0xFF, 0xFF, 0xFE] ++
    bytes16 (crc [0x75, 2, 7, 0, 0x2B, 8, 1, 0, 1, 0xFF, 0xFF, 0xFF, 0xFE])) =
    some (.adjust { sender := 2, serial := 7, effective := 43, pools := 8
                    items := [{ pool := 0, kind := 1, value := -2 }] }) := by decide +kernel

/-- A sender above 31, an unknown kind and a bad CRC are discarded (R22). -/
theorem test_bad_frames :
    checkFrame 1 ([0x97, 0x20] ++ bytes16 (crc [0x97, 0x20])) = none ∧
    checkFrame 1 ([0x98, 0x1F] ++ bytes16 (crc [0x98, 0x1F])) = none ∧
    checkFrame 1 [0x97, 0x1F, 0, 0] = none := by decide +kernel

/-- The bits of 0x86 on the line: start bit, 0 1 1 0 0 0 0 1 from the least significant on, stop bit (R20). -/
theorem test_line_bits : lineBits 0x86 = [false, false, true, true, false, false, false, false, true, true] := by decide

/-- The BATCH event's value at both limits (R190). -/
theorem test_batch_value : batchValue 0xFFFFFFFB false = 0x7FFB ∧ batchValue 0x7FFFFFFF false = 0x3FFF ∧
    batchValue 0x80000000 true = 0xC000 := by decide +kernel

/-! ### Single steps -/

/-- With no command, no wire and no filtered change to come the block idles. -/
theorem test_idle : step State.reset = .next State.reset := rfl

/-- A filtered CNT rise comes one filter width, 4 steps of 0.5 µs, after the pin's rise (R139, R166). -/
theorem test_filter : ((runWires 2 { run5 with wires := [{ dt := 7, wire := .input 0 .cnt true }] }).channels.get 0).acc = 1 ∧
    (runWires 2 { run5 with wires := [{ dt := 7, wire := .input 0 .cnt true }] }).now = 2007 := by decide +kernel

/-- A pulse shorter than the filter width counts nothing (R139). -/
theorem test_short_pulse : runWires 5 { run5 with
      wires := [{ dt := 7, wire := .input 0 .cnt true }, { dt := 1999, wire := .input 0 .cnt false }] } =
    { run5 with now := 2006, inputs := { run5.inputs with
        channels := run5.inputs.channels.set 0 { run5.inputs.channels.get 0 with cnt := { high := false, since := 2006 } } } }
    := by decide +kernel

/-- The POST ADJUSTMENT example of 12_frame_and_transaction_formats.md: SET pool 0 to 120 is taken at the eighth byte. -/
theorem test_post_bytes : commandOf [0x12, 0x01, 0x00, 0x00, 0x00, 0x00, 0x00] = none ∧
    commandOf [0x12, 0x01, 0x00, 0x00, 0x00, 0x00, 0x00, 0x78] =
      some (.postAdjustment 0 1 [{ pool := 0, kind := 0, value := 120 }]) := by decide +kernel

/-- READ GAPS clocked in bit by bit is answered at its eighth SCK rise, and SDO carries its outcome from the fall after it
(R172, R173). -/
theorem test_transaction :
    let s := runWires 25 { run5 with wires := { dt := 0, wire := .cs false } :: clockByte 0x05 }
    s.port.reply = some { outcome := .done, result := [0] } ∧ s.sdo = some true ∧
    (runWires 1 { s with wires := [{ dt := 0, wire := .sck false }] }).sdo = some false := by decide +kernel

/-- Another station's frame that begins on an idle line makes it busy (R19). -/
theorem test_frame_begins : (runWires 1 { run5 with wires := [{ dt := 3, wire := .frameBegins }] }).line.state = .busy := by
  decide +kernel

/-- A fall of an idle line makes it busy, and is sampled half a bit time, 500 ns, later (R19, R21). -/
theorem test_line_falls :
    let s := runWires 1 { hearing .idle (.idle 0) true with wires := [{ dt := 7, wire := .line false }] }
    s.line.rx = .start 7 [] 7 ∧ s.line.state = .busy ∧ s.nextSample = some 507 ∧
    (runWires 1 s).line.rx = .data 7 [] [] := by decide +kernel

/-- The stop bit is sampled 9.5 bit times after the fall; recessive it ends the byte, dominant it is a framing fault (R21). -/
theorem test_stop_bit :
    let bits := [false, true, true, false, false, false, false, true]
    (runWires 1 (hearing (.data 0 bits [0x97]) .busy true)).line.rx = .gap 10000 [0x97, 0x86] ∧
    (runWires 1 (hearing (.data 0 bits [0x97]) .busy true)).now = 9500 ∧
    (runWires 1 (hearing (.data 0 bits [0x97]) .busy false)).line.state = .abandoned ∧
    (runWires 1 (hearing (.data 0 bits [0x97]) .busy false)).line.discarded = 1 := by decide +kernel

/-- A JOIN of station 12 is recognised 3 bit times after its last stop bit, and its end is that of the stop bit (R20, R39). -/
theorem test_frame_recognised :
    let s := runWires 1 (hearing (.gap 60000 (Frame.join { sender := 12, digest := 7 }).bytes) .busy true)
    s.now = 63000 ∧ s.line.state = .idle 60000 ∧ s.line.rx = .idle ∧ (s.entry 12).state = .joining := by decide +kernel

/-- Station 5's REPORT against one of station 2 begun with it: bit 10 is the start bit of the sender byte, and bit 11 its
first data bit, where 5 sends a 1 and 2 a 0 (R25). -/
theorem test_arbitration_read_back :
    let s := { sending run5 (.report (reportOf 5 9)) (.slot 9) with
      now := 11000, inputs := { run5.inputs with tally := { high := false, since := 10000 } } }
    let t := runWires 1 s
    t.now = 11500 ∧ t.line.tx = none ∧ t.line.overlap = true ∧ t.line.rx = .data 10000 [] [0x41] ∧
    (runWires 1 t).line.rx = .data 10000 [false] [0x41] := by decide +kernel

/-- No row gives bits, so a word changes nothing. -/
theorem test_fetch_word : State.reset.withFetchWord 8 0x14 = State.reset := rfl

/-- RESTART in CONFIG is refused with WRONG_STATE. -/
theorem test_restart_config : (after (.restart 5) State.reset).port.reply =
    some { outcome := .wrongState, result := [] } := by decide +kernel

/-- A drive at dwell 2 climbs to ON in three evaluations (R156). -/
theorem test_drive_dwell : [10, 10, 10].foldl (fun r b => RuleState.next
    { DriveCfg.default with high := 10, riseDwell := 2 } b r) .off = .on := by decide +kernel

/-- A forced drive goes high, with its DRIVE event (R157, R161). -/
theorem test_set_drive : (after (.setDrive 0 3 1) { run5 with
      ctl := { run5.ctl with profile := { run5.ctl.profile with
        drives := run5.ctl.profile.drives.set 3 { DriveCfg.default with pool := some 0 } } } }).port.events =
    [{ kind := .drive, epoch := 10, subject := some 3, value := 0x0102 }] := by decide +kernel

/-- The lifetime count and the accumulator follow a rise (R142, R143). -/
theorem test_count : ((after (.filteredCntRise 7000 0) run5).channels.get 0).acc = 1 ∧
    ((after (.filteredCntRise 7000 0) run5).channels.get 0).lifetime = 1 := by decide +kernel

/-- A repeated own-number JOIN counts as a conflict, the third mutes (R49, R50). -/
theorem test_third_conflict : (after (.joinReceived 0 { sender := 5, digest := 7 })
    { run5 with roster := { run5.roster with conflicts := 2 } }).ctl.cause = .identity := by decide +kernel

/-- A report for an old epoch is stale (R65). -/
theorem test_stale : (after (.reportReceived 0 (reportOf 1 3)) run5).window = run5.window := by decide +kernel

/-! ### Hypotheses met -/

theorem test_meets_EveryCommandAnswers : State.reset.pending = [] ∧ State.reset.wires = [] ∧
    State.reset.line.rx = .idle ∧ State.reset.inputs.tally.high = true ∧
    ∀ (i : Fin 4) (x : InputPin), (State.reset.pin i x).high = (State.reset.channels.get i).level x :=
  ⟨rfl, rfl, rfl, rfl, fun i x => by revert i; cases x <;> decide +kernel⟩

theorem test_meets_StepKeeps : ∃ t, OutputsFollow { run5 with pending := [.readGaps 1] } ∧
    Bounded { run5 with pending := [.readGaps 1] } ∧ AgreementFollowsRun { run5 with pending := [.readGaps 1] } ∧
    step { run5 with pending := [.readGaps 1] } = .next t :=
  ⟨_, by decide +kernel, by decide +kernel, by decide +kernel, rfl⟩

theorem test_meets_StepKeepsPins : PinsFollow config5 ∧ AgreementFollowsRun config5 :=
  ⟨fun _ i => by revert i; decide +kernel, by decide +kernel⟩

theorem test_meets_FaultAndIrqFollow : ∃ t, OutputsFollow run5 ∧ exec .markBegin run5 = .next t :=
  ⟨_, by decide +kernel, rfl⟩

theorem test_meets_FramesRoundTrip :
    (Frame.report (reportOf 1 1)).good 1 = true ∧
    (Frame.resend { reportOf 31 1 with deltas := List.replicate 8 0 }).good 8 = true ∧
    (Frame.request { sender := 0, target := some 255, pairs := List.replicate 4 { station := 255, epoch := 0 } }).good 1 =
      true ∧
    (Frame.snapshot { sender := 0, point := 0, balances := List.replicate 8 0, digest := 0, map := 0 }).good 8 = true ∧
    (Frame.adjust { sender := 0, serial := 0, effective := 0, pools := 8
                    items := List.replicate 4 { pool := 0, kind := 0, value := 0 } }).good 1 = true ∧
    (Frame.mark (markOf 0 0 0 0)).good 1 = true ∧ (Frame.join { sender := 0, digest := 0 }).good 1 = true ∧
    (Frame.leave { sender := 31 }).good 1 = true := by decide +kernel

theorem test_meets_HardwareResets : (after (.hardwareReset 0) run5).ctl.inReset = true := by decide +kernel

theorem test_meets_StartIsTaken :
    Ready { config5 with ctl := { config5.ctl with autoTimer := some 200000000 } } ∧ config5.ctl.life = .config ∧
    firstOffending config5.ctl.straps.rate config5.ctl.profile = none := by decide +kernel

theorem test_meets_StartIsTaken_refused :
    let s := { config5 with ctl := { config5.ctl with
      autoTimer := some 200000000, profile := { config5.ctl.profile with
        drives := config5.ctl.profile.drives.set 3 { DriveCfg.default with pool := some 1 } } } }
    Ready s ∧ s.ctl.life = .config ∧ firstOffending s.ctl.straps.rate s.ctl.profile = some 55 ∧
    Ready run5 ∧ run5.ctl.life ≠ .config := by decide +kernel

/-- P, channel 2's pool index and drive 0's low mark fail together: items 1, 27 and 36, of which the first left is the
offending one (R169, R191). -/
theorem test_first_offending :
    let p := fun period pool => { Profile.default with
      period := period
      channels := Profile.default.channels.set 2 { Profile.default.channels.get 2 with pool := pool }
      drives := Profile.default.drives.set 0 { DriveCfg.default with pool := some 0, low := 1 } }
    (Offends false (p 49 1) 1 ∧ Offends false (p 49 1) 27 ∧ Offends false (p 49 1) 36) ∧
    firstOffending false (p 49 1) = some 1 ∧ firstOffending false (p 50 1) = some 27 ∧
    firstOffending false (p 50 0) = some 36 := by decide +kernel

theorem test_meets_ListenSpanEnds :
    let s := fun m n => { listen5 with ctl := { listen5.ctl with listenTimer := some 5, matching := m, mismatched := n } }
    (Ready (s 0 0) ∧ (s 0 0).ctl.life = .listen ∧ (s 0 0).ctl.listenTimer = some 5) ∧
    (Ready (s 0 1) ∧ (s 0 1).ctl.mismatched = 1) ∧ (Ready (s 1 0) ∧ (s 1 0).ctl.matching = 1) := by decide +kernel

theorem test_meets_RestartClears :
    let s := { joining5 with ctl := { joining5.ctl with silence := some 9 } }
    (Ready s ∧ s.ctl.life = .joining ∧ s.ctl.silence = some 9) ∧ (Ready run5 ∧ run5.ctl.life ≠ .config) ∧
    (Ready config5 ∧ config5.ctl.life = .config) := by decide +kernel

theorem test_meets_StationsDepart :
    let s := { run5 with ctl := { run5.ctl with leave := .leaving } }
    let q := sending s (.leave { sender := 5 }) (.queue .leave)
    (Ready s ∧ s.ctl.life = .run ∧ s.ctl.leave = .leaving ∧ s.clock.origin = some 0) ∧
    (Ready q ∧ q.line.tx.map (fun x => x.owner) = some (.queue .leave)) ∧
    (Ready listen5 ∧ listen5.ctl.life ≠ .run) ∧
    (s.canReceive = true ∧ s.clock.probation = 0 ∧ s.ctl.digest = some (markOf 9 11 7 0).digest ∧
      (markOf 9 11 7 0).epoch = s.clock.cur + 1) ∧
    ((markOf 6 9 7 0).epoch ≠ s.clock.cur ∧ s.clock.pacing = some 6 ∧ (markOf 6 9 7 0).sender ≤ 6) ∧
    ((reportOf 31 10).wf = true ∧ (reportOf 31 10).deltas.length = s.ctl.profile.pools ∧
      (reportOf 31 10).epoch = s.clock.cur ∧ (reportOf 31 10).sender ≠ s.own) := by decide +kernel

theorem test_meets_SlotStarts :
    let s := fun n => { run5With .collecting with clock := { run5.clock with slotCount := n } }
    let sent := { s 5 with builder := { run5.builder with outbox := [{ entry9 with transmitted := true }] } }
    (Ready (s 31) ∧ (s 31).clock.slotTimer = .slots ∧ (s 31).clock.slotCount < 32 ∧ (s 31).clock.slotCount ≠ (s 31).own.val) ∧
    (Ready (s 5) ∧ (s 5).clock.slotCount = (s 5).own.val ∧
      (s 5).builder.outbox.find? (fun x => x.designated) = some entry9 ∧ entry9.transmitted = false) ∧
    (Ready sent ∧ (sent.builder.outbox.find? (fun x => x.designated)).map (fun x => x.transmitted) = some true) := by
  decide +kernel

/-- The REPORT of 140 bit times that begins 1,780 bit times after the origin ends exactly with slot 5; one nanosecond later
it would not. -/
theorem test_meets_SlotReportWaits :
    let s := fun st => { run5With .collecting with line := { run5.line with state := st, slotWaiting := some (reportOf 5 9) } }
    let ends := fun (x : Instant) => (s (.idle x)).due (x + (s (.idle x)).bits 4) + (s (.idle x)).bits (10 * (12 + 2 * 1))
    let slot := 0 + (s .busy).bits (320 * (((s .busy).own.val : Int) + 1))
    (Ready (s (.idle 1776000)) ∧ (s .busy).ctl.life = .run ∧ (s .busy).line.tx = none ∧ (s .busy).clock.origin = some 0 ∧
      (reportOf 5 9).deltas.length = 1 ∧ ends 1776000 = slot) ∧
    (Ready (s (.idle 1776001)) ∧ slot < ends 1776001) ∧ (Ready (s .busy) ∧ (s .busy).line.queue.length < 8) := by
  decide +kernel

/-- Records that collect, that settle with this report, that are folded with their gap open, and that have heard it. -/
theorem test_meets_SlotReportIsSent :
    let s := fun r => sending { run5With .collecting with window := { run5.window with records := [r] } }
      (.report (reportOf 5 9)) (.slot 9)
    let n := sending { run5 with builder := { run5.builder with outbox := [entry9] } } (.report (reportOf 5 9)) (.slot 9)
    let c := record9 .collecting
    let g := { s (record9 .folded) with pool := { run5.pool with gaps := [{ station := 5, epoch := 9 }] } }
    (Ready (s c) ∧ (s c).outEntry 9 = some entry9 ∧ (s c).record 9 = some c ∧ mapHas c.heard 5 = false) ∧
    (Ready (s { c with heard := 4 }) ∧ (4#32 ||| mapOf 5) = (c.expected ||| mapOf 5)) ∧
    (Ready g ∧ g.record 9 = some (record9 .folded) ∧ ({ station := 5, epoch := 9 } : Gap) ∈ g.pool.gaps) ∧
    (Ready (s { c with heard := 0x20 }) ∧ mapHas (0x20#32) 5 = true) ∧ (Ready n ∧ n.record 9 = none) := by decide +kernel

theorem test_meets_SlotPhaseEnds :
    let j := fun a w => { joining5 with ctl := { joining5.ctl with joinAttempts := a, joinWait := w } }
    (Ready run5 ∧ run5.clock.origin = some 0 ∧ run5.clock.slotTimer = .slots ∧ run5.ctl.life = .run) ∧
    (Ready listen5 ∧ listen5.clock.slotTimer = .slots ∧ listen5.ctl.life = .listen) ∧
    (Ready (j 3 4) ∧ (j 3 4).ctl.life = .joining ∧ (j 3 4).pool.held = none) ∧
    (Ready (j 0 2) ∧ (j 0 2).ctl.profile.foldLag ≤ (j 0 2).ctl.joinWait) ∧ Ready (j 1 4) ∧ Ready (j 2 4) ∧
    (j 0 2).line.queue = [] ∧ (Ready (j 0 1) ∧ ¬(j 0 1).ctl.profile.foldLag ≤ (j 0 1).ctl.joinWait) ∧ Ready (j 2 3) := by
  decide +kernel

theorem test_meets_PhaseEndSettlesAgreement :
    let s := fun c n => { run5 with pool := { run5.pool with clean := c, uncleanSelf := n } }
    let o := fun n => { station5 .run .uncertain with
      roster := { run5.roster with entries := run5.roster.entries.set 2 { RosterEntry.blank with
        state := .present, lastReport := some { epoch := 9, fold := none, clean := true } } }
      pool := { (station5 .run .uncertain).pool with noComparison := n } }
    (Ready (s true 0) ∧ (s true 0).clock.slotTimer = .slots ∧ (s true 0).clock.origin = some 0 ∧
      (s true 0).countMisses.lapseJoins.chosenReference = some 5) ∧
    ((s true 0).pool.clean = true ∧ (s false 0).pool.clean = false ∧ (s false 6).pool.uncleanSelf < 7 ∧
      (s false 7).pool.uncleanSelf = 7) ∧
    (Ready (o 2) ∧ (o 2).countMisses.lapseJoins.chosenReference = some 2 ∧ (o 2).pool.noComparison < 3) ∧
    3 ≤ (o 3).pool.noComparison := by decide +kernel

/-- DIVERGED and RESYNCING with a kept and a changed reference, with room in the send queue and without, at hold-back count
0 and 1. -/
theorem test_meets_PhaseEndSettlesAgreement_asking :
    let s := fun ag old hb n => { station5 .run ag with
      roster := { run5.roster with
        reference := some old
        entries := run5.roster.entries.set 2 { RosterEntry.blank with
          state := .present, lastReport := some { epoch := 9, fold := none, clean := true } } }
      pool := { (station5 .run ag).pool with target := some old, holdBack := hb }
      line := { run5.line with queue := List.replicate n { key := .snapshot, target := none, pairs := none } } }
    (∀ ag ∈ [Agreement.diverged, .resyncing], ∀ old ∈ [(2 : Station), 7], ∀ hb ∈ [0, 1], ∀ n ∈ [7, 8],
      Ready (s ag old hb n) ∧ (s ag old hb n).countMisses.lapseJoins.chosenReference = some 2) ∧
    ((s .diverged 2 0 7).line.queue.filter (fun e => e.key != .request)).length < 8 ∧
    8 ≤ ((s .diverged 2 0 8).line.queue.filter (fun e => e.key != .request)).length ∧
    (s .resyncing 2 0 7).pool.held = none := by decide +kernel

/-- Station 2 is expected and not heard: with L = 4 its third miss leaves it MISSING and the fourth makes it GONE; a JOIN 12
epochs old lapses and one 11 epochs old does not; a clean candidate, an unclean one and none. -/
theorem test_meets_RosterIsCounted :
    let e := fun m => ({ RosterEntry.blank with state := .missing, miss := m } : RosterEntry)
    let s := fun m => { run5With .collecting with roster := { run5.roster with entries := run5.roster.entries.set 2 (e m) } }
    let j := fun d => { run5 with roster := { run5.roster with
      entries := run5.roster.entries.set 2 { RosterEntry.blank with state := .joining, lastJoin := some (10 - d) } } }
    run5.record (run5.clock.cur - 1) = none ∧
    ((s 2).record ((s 2).clock.cur - 1) = some (record9 .collecting) ∧ (2 : Station) ≠ (s 2).own ∧
      mapHas (record9 .collecting).expected 2 = true ∧ mapHas (record9 .collecting).heard 2 = false) ∧
    ((s 2).countMisses.entry 2 = e 3 ∧ (s 3).countMisses.entry 2 = { e 4 with state := .gone }) ∧
    ((j 12).lapseJoins.entry 2 = RosterEntry.blank ∧ (j 11).lapseJoins.entry 2 = (j 11).entry 2) ∧
    run5.chosenReference = some 5 ∧ (run5.setClean false).chosenReference = some 5 ∧ joining5.chosenReference = none := by
  decide +kernel

/-- Record 9 wants station 2's report, and the own entry of epoch 9 is owed; the own adjustment takes effect in the present
epoch or in the one before; the queue has room for all, or is full. -/
theorem test_meets_SlotPhaseEndOffers :
    let a := fun e => ({ originator := 5, serial := 1, effective := e, items := [] } : Adjustment)
    let s := fun n e => { run5With .collecting with
      ctl := { run5.ctl with leave := .leaving }
      adjust := { run5.adjust with queue := [a e] }
      line := { run5.line with queue := List.replicate n { key := .snapshot, target := none, pairs := none } } }
    (∀ n ∈ [0, 4, 8], Ready (s n 10) ∧ (s n 10).clock.slotTimer = .slots ∧ (s n 10).clock.origin = some 0) ∧
    (s 4 10).builder.outbox.filter (fun e => !e.transmitted) = [entry9] ∧
    (s 4 10).line.queue.length + 1 + 3 = 8 ∧ (s 4 10).adjust.queue.filter (fun x => x.originator == (s 4 10).own) = [a 10] ∧
    atOrBehind (s 4 10).clock.cur (a 10).effective = true ∧ atOrBehind (s 4 9).clock.cur (a 9).effective = false ∧
    ((10#16 - (record9 .collecting).epoch).toNat ≤ 32767 ∧ (2 : Station) ≠ (s 4 10).own ∧
      mapHas (record9 .collecting).expected 2 = true) ∧ (s 4 10).wantedPairs = [{ station := 2, epoch := 9 }] := by
  decide +kernel

theorem test_meets_QueueFramesAreBuilt :
    let h := fun c => ({ point := 8, digest := 3, complete := c } : HistEntry)
    let a : Adjustment := { originator := 5, serial := 255, effective := 12, items := [] }
    let s := fun c => { run5With .collecting with
      pool := { run5.pool with foldPoint := some 8, history := [h c] }, adjust := { run5.adjust with queue := [a] } }
    let j := fun n => { joining5 with ctl := { joining5.ctl with joinWait := n } }
    (s true).builder.outbox.find? (fun o => o.epoch == 9) = some entry9 ∧ (∀ o ∈ (s true).builder.outbox, o.epoch ≠ 8) ∧
    ((s true).ctl.life = .run ∧ (s true).pool.agreement = .agreed ∧ (s true).pool.foldPoint = some 8 ∧
      (s true).pool.history.getLast? = some (h true)) ∧ (s false).pool.history.getLast? = some (h false) ∧
    (s true).adjust.queue.find? (fun a => a.originator == (s true).own && a.serial == 255) = some a ∧
    run5.adjust.queue = [] ∧ (s true).pairStands { station := 2, epoch := 9 } = true ∧
    (s true).pairStands { station := 32, epoch := 9 } = false ∧
    ((j 2).ctl.digest = some 7 ∧ (j 2).ctl.profile.foldLag ≤ (j 2).ctl.joinWait) ∧
    (j 1).ctl.joinWait < (j 1).ctl.profile.foldLag := by decide +kernel

/-- The RESEND of 140 bit times, begun 100,000 ns on, ends exactly at the guard. -/
theorem test_meets_OpenWindowSends_guard :
    ((({ run5With .collecting with now := 100000 } : State).takeQueue 240000
      [{ key := .resend 9, target := none, pairs := none }]).2).isSome = true ∧
    (({ run5With .collecting with now := 100000 } : State).takeQueue 239999
      [{ key := .resend 9, target := none, pairs := none }]).2 = none := by decide +kernel

/-- An entry that is declined leaves, one that fails the guard stays, and the one after them is taken. -/
theorem test_queue_taken :
    ({ run5With .collecting with now := 110000 } : State).takeQueue 230000
      [{ key := .snapshot, target := none, pairs := none }, { key := .resend 9, target := none, pairs := none }] =
      ([{ key := .resend 9, target := none, pairs := none }], none) := by decide +kernel

theorem test_meets_OpenWindowSends :
    let s := { run5With .collecting with
      clock := { run5.clock with slotTimer := .window, slotCount := 32 }
      line := { run5.line with queue := [{ key := .resend 9, target := none, pairs := none }] } }
    let e := { s with line := run5.line }
    let j := { joining5 with clock := { run5.clock with slotTimer := .window, slotCount := 32 } }
    (Ready s ∧ s.line.state = .idle 0 ∧ s.line.taken = false ∧
      ((({ s with now := s.due (max 0 (0 + s.bits 10240) + s.bits (24 + 2 * (s.own.val : Int))) } : State).takeQueue
        (0 + s.period - s.bits 24) s.line.queue).2).isSome = true) ∧
    (Ready e ∧ (e.takeQueue (0 + e.period - e.bits 24) e.line.queue).2 = none) ∧
    (Ready j ∧ j.ctl.life = .joining ∧ j.clock.slotTimer = .window) := by decide +kernel

theorem test_meets_QueueFramesAreSent :
    let s := fun k => sending run5 (.join { sender := 5, digest := 7 }) (.queue k)
    let r := fun x => sending { run5With .collecting with window := { run5.window with records := [x] } }
      (.resend (reportOf 5 9)) (.queue (.resend 9))
    let c := r (record9 .collecting)
    let f := r (record9 .folded)
    let d := { c with builder := { c.builder with outbox := [{ entry9 with transmitted := true, resends := 255 }] } }
    Ready (s .snapshot) ∧ Ready (s (.adjust 255)) ∧ Ready (s .request) ∧
    Ready (sending joining5 (.join { sender := 5, digest := 7 }) (.queue .join)) ∧
    (Ready c ∧ c.outEntry 9 = some entry9 ∧ entry9.transmitted = false ∧ c.record 9 = some (record9 .collecting) ∧
      mapHas (record9 .collecting).heard c.own = false) ∧
    (Ready f ∧ f.record 9 = some (record9 .folded) ∧ mapHas (record9 .folded).heard f.own = false) ∧
    (Ready d ∧ (d.outEntry 9).map (fun e => e.transmitted) = some true) := by decide +kernel

/-- An own RESEND that goes out after its record's fold adds to its late pending, which the next mark's late fold brings to
the balance (R60, R67, R82). -/
theorem test_late_own_resend :
    let s := sending (run5With .folded) (.resend (reportOf 5 9)) (.queue (.resend 9))
    (after .resendSent s).window.records.map (fun r => r.late) = [[3]] ∧
    ((after .resendSent s).foldAtMark.pool.table.get 0).balance = 3 := by decide +kernel

theorem test_meets_FramesAreLost :
    let s := fun o n => { sending (run5With .collecting) (.report (reportOf 5 9)) o with
      roster := { run5.roster with conflicts := n } }
    Ready (s .mark 0) ∧ Ready (s (.queue .leave) 0) ∧ (Ready (s (.slot 9) 1) ∧ (s (.slot 9) 1).roster.conflicts < 2) ∧
    (Ready (s (.slot 9) 2) ∧ 2 ≤ (s (.slot 9) 2).roster.conflicts) ∧
    (s (.slot 9) 1).ctl.life = .run ∧ (s (.slot 9) 1).line.queue.length < 8 := by decide +kernel

theorem test_meets_ReceiverCounts :
    let a := { run5 with line := { run5.line with state := .abandoned } }
    let w := { run5 with wires := [{ dt := 3, wire := .frameBegins }] }
    Ready run5 ∧ run5.canReceive = true ∧ checkFrame run5.ctl.profile.pools [0, 0, 0, 0] = none ∧
    (Ready a ∧ a.line.state = .abandoned ∧ a.listening = true) ∧
    (run5.line.state = .idle 0 ∧ run5.listening = true ∧ run5.line.tx = none) ∧
    (Ready w ∧ w.pending = [] ∧ ∀ c ∈ w.filterChanges, w.now + (3 : Nat) < c.due) := by decide +kernel

/-- The line's changes: a fall that begins a frame, one after a stop bit, one during a byte, a rise, a level kept, and a frame
given up. -/
theorem test_meets_ReceiverCounts_wires :
    let s := fun (rx : Rx) (st : LineState) high w => { hearing rx st high with wires := [{ dt := 2999, wire := w }] }
    (Ready (s .idle (.idle 0) true (.line false)) ∧ (s .idle (.idle 0) true (.line false)).nextSample = none ∧
      run5.filterChanges = [] ∧ run5.listening = true) ∧
    (Ready (s (.gap 0 [0x97]) .busy true (.line false)) ∧
      (s (.gap 0 [0x97]) .busy true (.line false)).nextSample = some 3000) ∧
    (Ready (s (.data 2000 [] [0x97]) .busy true (.line false)) ∧
      (s (.data 2000 [] [0x97]) .busy true (.line false)).nextSample = some 3500) ∧
    (Ready (s .wait .abandoned false (.line true)) ∧ (s .wait .abandoned false (.line true)).nextSample = none) ∧
    (Ready (s .idle .abandoned true (.line false)) ∧ (s .idle .abandoned true (.line false)).nextSample = none) ∧
    (Ready (s .wait .abandoned true (.line true)) ∧ (s .wait .abandoned true (.line true)).nextSample = some 3000) := by
  decide +kernel

/-- The samples: start bits of the first, the 64th and the 65th byte, glitches, data bits, stop bits, the end of a good frame
and of a short one, with a glitch after the stop bit and without, and the end of a frame given up. -/
theorem test_meets_ReceiverCounts_samples :
    let at_ := fun (s : State) (x : Instant) => decide (Ready s ∧ FirstAt s x ∧ s.nextSample = some x ∧
      s.ctl.life ≠ .config ∧ s.line.tx = none)
    let leave := (Frame.leave { sender := 31 }).bytes
    (∀ high ∈ [true, false], at_ (hearing (.start 0 [] 0) .busy high) 500 = true ∧
      at_ (hearing (.start 0 [0x97] 0) .busy high) 500 = true ∧
      at_ (hearing (.start 0 (List.replicate 63 0) 0) .busy high) 500 = true ∧
      at_ (hearing (.start 0 (List.replicate 64 0) 0) .busy high) 500 = true ∧
      at_ (hearing (.data 0 [] []) .busy high) 1500 = true ∧
      at_ (hearing (.data 0 (List.replicate 7 true) []) .busy high) 8500 = true ∧
      at_ (hearing (.data 0 (List.replicate 8 true) []) .busy high) 9500 = true) ∧
    (hearing (.start 0 (List.replicate 64 0) 0) .busy false).canReceive = true ∧
    (at_ (hearing (.gap 10000 leave) .busy true) 13000 = true ∧
      checkFrame run5.ctl.profile.pools leave = some (.leave { sender := 31 })) ∧
    (at_ (hearing (.gap (-900) leave) .busy true) 3000 = true ∧
      checkFrame run5.ctl.profile.pools [0x97, 31] = none) ∧
    (at_ (hearing .wait .abandoned true) 3000 = true ∧ (hearing .wait .abandoned true).listening = true) := by
  decide +kernel

/-- Bit 11 of the REPORT is the first that station 5 sends recessive after instant 10,500; bit 9 was a stop bit. -/
theorem test_meets_ReceiverCounts_read_back :
    let s := { sending run5 (.report (reportOf 5 9)) (.slot 9) with
      now := 10500, inputs := { run5.inputs with tally := { high := false, since := 10000 } } }
    (Ready s ∧ FirstAt s 11500 ∧ s.ctl.life ≠ .config ∧ s.nextSample = some 11500) ∧
    (Frame.report (reportOf 5 9)).lineBits[11]? = some true ∧
    (∀ j : Fin 11, (Frame.report (reportOf 5 9)).lineBits[j.val]? = some true →
      0 + s.bits (2 * (j.val : Int) + 1) / 2 < s.now) := by decide +kernel

theorem test_meets_OwnMarkIsTaken :
    let s := { run5 with clock := { run5.clock with timer := .running 5 } }
    let p := { run5 with clock := { run5.clock with timer := .expired, pending := true } }
    let x := sending run5 (.mark (markOf 5 11 7 0)) .mark
    (Ready s ∧ s.ctl.life = .run ∧ s.clock.timer = .running 5) ∧
    (Ready p ∧ p.ctl.life = .run ∧ p.clock.pending = true ∧ p.line.tx = none ∧ p.line.state = .idle 0) ∧
    (Ready x ∧ x.ctl.life = .run ∧ x.line.tx.map (fun x => x.owner) = some .mark) := by decide +kernel

theorem test_meets_NextMarkIsAccepted :
    Ready run5 ∧ run5.canReceive = true ∧ run5.ctl.life = .run ∧ run5.ctl.digest = some 7 ∧ run5.clock.probation = 0 ∧
    run5.ctl.leave ≠ .leaving ∧ (markOf 9 11 7 0).sender ≠ run5.own ∧ (markOf 9 11 7 0).epoch = run5.clock.cur + 1 ∧
    run5.pool.held = none ∧ run5.pool.agreement ≠ .resyncing ∧ Ready (station5 .run .resyncing) ∧
    (station5 .run .resyncing).pool.holdBack = 0 ∧ (station5 .run .resyncing).pool.wait = 0 := by decide +kernel

theorem test_meets_OtherMarksAreIgnored :
    (Ready joining5 ∧ joining5.canReceive = true ∧ joining5.ctl.life = .joining ∧ joining5.clock.pacing = some 6) ∧
    Ready run5 ∧ run5.clock.probation = 0 ∧ (markOf 9 10 7 0).epoch = run5.clock.cur ∧
    ((markOf 7 12 7 0).epoch ≠ run5.clock.cur ∧ (markOf 7 12 7 0).epoch ≠ run5.clock.cur + 1 ∧
      run5.clock.pacing = some 6 ∧ 6 < (markOf 7 12 7 0).sender ∧ (markOf 7 12 7 0).sender ≠ run5.own) ∧
    run5.ctl.digest ≠ some (markOf 7 11 8 0).digest ∧
    Ready { run5 with clock := { run5.clock with probation := 2 }, line := { run5.line with overlap := true } } := by
  decide +kernel

theorem test_meets_DiscontinuityIsTaken :
    Ready run5 ∧ run5.canReceive = true ∧ run5.clock.pacing = some 6 ∧ (markOf 6 9 7 0).sender ≤ 6 ∧
    (markOf 6 9 7 0).sender ≠ run5.own ∧ (markOf 6 9 7 0).epoch ≠ run5.clock.cur ∧
    (markOf 6 9 7 0).epoch ≠ run5.clock.cur + 1 ∧ (markOf 6 12 7 0).epoch ≠ run5.clock.cur + 1 := by decide +kernel

theorem test_meets_JoinersTakeMarks :
    Ready joining5 ∧ joining5.canReceive = true ∧ joining5.ctl.life = .joining ∧ joining5.ctl.digest = some 7 ∧
    joining5.pool.held = none ∧ (markOf 31 11 7 0).epoch = joining5.clock.cur + 1 ∧
    ((markOf 6 9 7 0).epoch ≠ joining5.clock.cur ∧ (markOf 6 9 7 0).epoch ≠ joining5.clock.cur + 1 ∧
      joining5.clock.pacing = some 6 ∧ (markOf 6 9 7 0).sender ≤ 6) ∧
    (markOf 31 10 7 0).epoch = joining5.clock.cur := by decide +kernel

theorem test_meets_ListeningTakesMarks :
    let s := { listen5 with ctl := { listen5.ctl with matching := 1 } }
    (Ready listen5 ∧ listen5.canReceive = true ∧ listen5.ctl.life = .listen ∧ listen5.ctl.matching = 0 ∧
      mapHas (markOf 6 11 7 0x40).map listen5.own = false) ∧
    (Ready s ∧ 1 ≤ s.ctl.matching) ∧ mapHas (markOf 6 11 7 0x20).map listen5.own = true ∧
    (listen5.ctl.digest ≠ some (markOf 6 11 8 0).digest ∧ listen5.ctl.mismatched < 255) ∧
    Ready { listen5 with ctl := { listen5.ctl with mismatched := 255 } } := by decide +kernel

/-- MARKs with and without FOUNDING from below, above and this station's own number, the own one at each conflict count. -/
theorem test_meets_FounderOnProbation :
    let s := fun n o => { run5 with
      clock := { run5.clock with probation := 2 }, roster := { run5.roster with conflicts := n }
      line := { run5.line with overlap := o } }
    (∀ n ∈ [0, 1, 2], ∀ o ∈ [true, false], Ready (s n o) ∧ (s n o).canReceive = true ∧ (s n o).ctl.life = .run ∧
      (s n o).ctl.digest = some 7 ∧ 0 < (s n o).clock.probation) ∧
    (markOf 6 1 7 0).founding = false ∧ ({ markOf 4 1 7 0 with founding := true } : MarkFrame).sender < run5.own ∧
    run5.own ≤ ({ markOf 6 1 7 0 with founding := true } : MarkFrame).sender ∧ (markOf 5 1 7 0).sender = run5.own := by
  decide +kernel

/-- A held snapshot at fold point 8 with balance 5. -/
def held8 : HeldSnapshot := { point := 8, balances := [5], map := 0 }

/-- A state with held8, latest fold point 8 and these records. -/
def holding (s : State) (rs : List Record) : State :=
  { s with window := { s.window with records := rs }, pool := { s.pool with held := some held8, foldPoint := some 8 } }

/-- The state as it stands at the mark that begins epoch 11. -/
def at11 (s : State) : State := { s with clock := { s.clock with cur := 11 } }

/-- held8 passes its test at the mark that m stands at, in RUN. -/
def passes8 (m : State) : Bool := installTest 8 (m.windowMark true).oldest (m.windowMark true).pool.foldPoint

/-- A record of epoch e. -/
def recordOf (e : Epoch) (state : RecordState) : Record := { record9 state with epoch := e }

/-- An adjustment due at epoch 9: pool 0 is set to 70, then 5 is added. -/
def adjust9 : Adjustment :=
  { originator := 2, serial := 1, effective := 9
    items := [{ pool := 0, set := true, value := 70 }, { pool := 0, set := false, value := 5 }] }

/-- A snapshot at fold point 8 replays nothing, or the records of epochs 9 and 10 with their adjustments; the test at the mark
of epoch 11 passes with the fold of record 8 behind it, and fails where the records after it have left, in RUN and in
JOINING, where the agreement state is NONE. -/
theorem test_meets_SnapshotsAreInstalled :
    let s := holding run5 [recordOf 9 .collecting, recordOf 8 .folded]
    let f := holding run5 [recordOf 10 .collecting, recordOf 11 .collecting]
    let j := holding joining5 [recordOf 9 .collecting, recordOf 8 .folded]
    let k := holding joining5 [recordOf 10 .collecting]
    (held8.balances.length = s.ctl.profile.pools ∧ s.replayed 8 = [] ∧ held8.balances[(0 : Fin 8).val]? = some 5 ∧
      held8.balances[(7 : Fin 8).val]? = none) ∧
    (Ready s ∧ s.canReceive = true ∧ s.ctl.digest = some 7 ∧ s.clock.probation = 0 ∧ s.ctl.leave ≠ .leaving ∧
      s.pool.held = some held8 ∧ (markOf 9 11 7 0).epoch = s.clock.cur + 1 ∧ (markOf 9 11 7 0).sender ≠ s.own) ∧
    Ready { s with line := { s.line with discarded := 3 } } ∧
    passes8 (at11 s) = true ∧ (Ready f ∧ passes8 (at11 f) = false) ∧
    (Ready j ∧ j.canReceive = true ∧ j.ctl.digest = some 7 ∧ (at11 j).joinInstall = true) ∧
    (Ready k ∧ (at11 k).joinInstall = false ∧ k.pool.agreement = .none) := by decide +kernel

/-- The replay of records 9 and 10 on held8: 5, the sum 4, SET 70 and ADD 5 of record 9, the sum 4 of record 10. -/
theorem test_install_replays :
    let s := holding run5 [recordOf 10 .folded, { recordOf 9 .folded with applied := [adjust9] }, recordOf 8 .folded]
    s.replayed 8 = [{ recordOf 9 .folded with applied := [adjust9] }, recordOf 10 .folded] ∧
    recordSteps 0 [4] [adjust9] = [.add 4, .set 70, .add 5] ∧ recordSteps 7 [4] [adjust9] = [] ∧
    ((s.install held8).pool.table.get 0).balance = 79 := by decide +kernel

theorem test_meets_SumsKeepTheirLimits : (0 : Fin 8).val < run5.ctl.profile.pools ∧
    (0x7FFFFFFE#32).toInt + (1#32).toInt = 2147483647 ∧ 2147483647 < (0x7FFFFFFF#32).toInt + (1#32).toInt ∧
    (0x80000000#32).toInt + (0#32).toInt = -2147483648 ∧ (0x80000000#32).toInt + (-1#32).toInt < -2147483648 ∧
    (32767#64).toInt ≤ 32767 ∧ -32767 ≤ (-32767#64).toInt := by decide +kernel

/-- Epoch 9's record folds at cur 12 with F = 2: pool 0 has a sum, pool 7 none. -/
theorem test_meets_FoldsAddSums :
    let s := { run5With .settled with clock := { run5.clock with cur := 12 } }
    s.clock.cur - 1 - BitVec.ofNat 16 s.ctl.profile.foldLag = 9 ∧ s.record 9 = some (record9 .settled) ∧
    (record9 .settled).state ≠ .folded ∧ s.adjust.queue = [] ∧ (record9 .settled).sums[0]? = some 4 ∧
    (record9 .settled).sums[7]? = none ∧ (satAdd 0x7FFFFFFC 4).2 = some true ∧ (satAdd 0x7FFFFFFB 4).2 = none ∧
    (s.pool.table.get 0).clipped = false := by decide +kernel

/-- Records 9, to be folded at cur 12, and 8, FOLDED with late pending 3; and the same with no record 9, or a FOLDED one. -/
theorem test_meets_FoldsApplyAdjustments :
    let x := { recordOf 8 .folded with late := [3] }
    let s := fun rs => { run5 with
      clock := { run5.clock with cur := 12 }, adjust := { queue := [adjust9], lastSerial := 0 }
      window := { run5.window with records := rs } }
    (s []).clock.cur - 1 - BitVec.ofNat 16 (s []).ctl.profile.foldLag = 9 ∧
    ((s [record9 .settled, x]).record 9 = some (record9 .settled) ∧
      (s [record9 .settled, x]).adjust.queue.filter (fun a => a.effective == 9) = [adjust9] ∧
      [record9 .settled, x].reverse.filter (fun r => r.state == .folded && r.epoch != 9) = [x] ∧ lateSteps 0 [x] = [.add 3]) ∧
    (s [x]).record 9 = none ∧ (s [record9 .folded, x]).record 9 = some (record9 .folded) := by decide +kernel

/-- A fold with a late pending beside it: the sum 4, SET 70, ADD 5, and then the late 3 of record 8, which becomes 0. -/
theorem test_fold_beside_late :
    let x := { recordOf 8 .folded with late := [3] }
    let t := { run5 with
      clock := { run5.clock with cur := 12 }, adjust := { queue := [adjust9], lastSerial := 0 }
      window := { run5.window with records := [record9 .settled, x] } }.foldAtMark
    (t.pool.table.get 0).balance = 78 ∧ t.window.records.map (fun r => r.late) = [[0], [0]] ∧
    t.pool.foldPoint = some 9 := by decide +kernel

/-- Sixteen gaps, the last of epoch 9, or fourteen of them; record 9 opens a gap for stations 2 and 5. -/
theorem test_meets_GapsOpenAndExpire :
    let gaps : List Gap := [⟨0, 8⟩, ⟨1, 8⟩, ⟨2, 8⟩, ⟨3, 8⟩, ⟨4, 8⟩, ⟨6, 8⟩, ⟨7, 8⟩, ⟨8, 8⟩, ⟨9, 8⟩, ⟨10, 8⟩, ⟨11, 8⟩,
      ⟨12, 8⟩, ⟨13, 8⟩, ⟨14, 8⟩, ⟨15, 8⟩, ⟨0, 9⟩]
    let s := fun gs => { run5With .settled with
      clock := { run5.clock with cur := 12 }
      roster := { run5.roster with entries := run5.roster.entries.set 2 { RosterEntry.blank with state := .present } }
      pool := { run5.pool with gaps := gs } }
    let eight := fun gs => { s gs with window := { run5.window with records := List.replicate 7 { record9 .folded with
      epoch := 10 } ++ [record9 .folded] } }
    (s gaps).record 9 = some (record9 .settled) ∧ ({ station := 2, epoch := 9 } : Gap) ∈ (s gaps).gapsOf (record9 .settled) ∧
    (enterGaps gaps 0 ((s gaps).gapsOf (record9 .settled))).2 = 2 ∧
    (gaps.length ≤ 16 ∧ (∀ g ∈ (s gaps).gapsOf (record9 .settled), g ∉ gaps)) ∧
    (gaps.take 14).length + ((s gaps).gapsOf (record9 .settled)).length ≤ 16 ∧
    (enterGaps (gaps.take 14) 0 ((s gaps).gapsOf (record9 .settled))).2 = 0 ∧
    (s gaps).window.records.length < 8 ∧ 8 ≤ (eight gaps).window.records.length ∧
    (eight gaps).oldest = some (record9 .folded) ∧ ({ station := 0, epoch := 9 } : Gap) ∈ (eight gaps).pool.gaps ∧
    (∀ g ∈ (eight (gaps.take 14)).pool.gaps, g.epoch ≠ (record9 .folded).epoch) := by decide +kernel

theorem test_meets_ReportsAreTaken :
    let s := run5With .folded
    let g := { s with pool := { s.pool with gaps := [{ station := 2, epoch := 9 }] } }
    let h := { s with window := { s.window with records := [{ record9 .collecting with heard := 4 }] } }
    (Ready (run5With .collecting) ∧ (run5With .collecting).canReceive = true ∧ (reportOf 2 9).wf = true ∧
      (reportOf 2 9).deltas.length = run5.ctl.profile.pools ∧ (reportOf 2 9).sender ≠ run5.own ∧
      behind (reportOf 2 9).epoch run5.clock.cur = true ∧ mapHas (record9 .collecting).heard 2 = false) ∧
    (Ready g ∧ g.record 9 = some (record9 .folded) ∧ ({ station := 2, epoch := 9 } : Gap) ∈ g.pool.gaps) ∧
    (Ready h ∧ ∀ r ∈ h.window.records, r.epoch = 9 → mapHas r.heard 2 = true) ∧
    (Ready joining5 ∧ (run5With .collecting).record 8 = none ∧ ahead 11 run5.clock.cur = true) ∧
    (Ready listen5 ∧ listen5.canReceive = true ∧ (reportOf 2 10).epoch = listen5.clock.cur ∧
      (listen5.entry 2).state = .absent) ∧
    behind (10 - 32768) run5.clock.cur = true ∧
    (Ready run5 ∧ (reportOf 3 9).wf = true ∧ (reportOf 3 9).sender ≠ run5.own ∧
      run5.roster.reference ≠ some (reportOf 3 9).sender) := by decide +kernel

theorem test_meets_ReportsAreCompared :
    let h := fun c => ({ point := 8, digest := 3, complete := c } : HistEntry)
    let s := fun ag c hb => { station5 .run ag with
      pool := { (station5 .run ag).pool with history := [h c], holdBack := hb } }
    let f := fun e d => { reportOf 2 e with fold := some { point := 8, digest := d } }
    (Ready (s .agreed true 0) ∧ (s .agreed true 0).canReceive = true ∧ (f 9 3).wf = true ∧
      (f 9 3).deltas.length = run5.ctl.profile.pools ∧ (s .agreed true 0).roster.reference = some (f 9 3).sender ∧
      (f 9 3).sender ≠ run5.own ∧ (f 9 3).epoch ≠ run5.clock.cur ∧
      (s .agreed true 0).pool.history.find? (fun x => x.point == 8) = some (h true)) ∧
    Ready (s .uncertain true 0) ∧ Ready (s .uncertain true 1) ∧ Ready (s .diverged true 0) ∧ Ready (s .resyncing true 0) ∧
    Ready (s .agreed false 0) ∧ (s .agreed true 0).line.queue.length < 8 ∧
    (s .agreed true 0).pool.history.find? (fun x => x.point == 9) = none ∧ (reportOf 2 9).fold = none := by decide +kernel

/-- The implied mark of a frame of the reference, station 2, that begins epoch 11: its entry PRESENT, the comparison made. -/
def atImplied (s : State) (f : ReportFrame) : State :=
  { s with
    clock := { s.clock with cur := 11 }, pool := (s.compare f).pool
    roster := { s.roster with entries := s.roster.entries.set f.sender { s.entry f.sender with state := .present } } }

/-- The witness stands at the implied mark, by the comparison's own result. -/
theorem test_atImplied : let s := holding run5 [recordOf 9 .collecting, recordOf 8 .folded]
    AtImpliedMark s (atImplied s (reportOf 2 10)) (s.clock.cur + 1) (reportOf 2 10) := by
  refine ⟨by decide, rfl, rfl, rfl, rfl, ?_, by decide +kernel, rfl⟩; decide +kernel

/-- Senders at both ends of their range. -/
theorem test_meets_ReportImpliesMark :
    Ready run5 ∧ run5.canReceive = true ∧ (reportOf 31 10).wf = true ∧ run5.ctl.leave ≠ .leaving ∧
    (reportOf 31 10).deltas.length = run5.ctl.profile.pools ∧ (reportOf 31 10).sender ≠ run5.own ∧
    (reportOf 31 10).epoch = run5.clock.cur ∧ run5.line.queue.length < 7 ∧
    (Ready joining5 ∧ joining5.canReceive = true ∧ joining5.ctl.life = .joining ∧ joining5.pool.held = none ∧
      (reportOf 0 10).epoch = joining5.clock.cur ∧ (reportOf 0 10).sender ≠ joining5.own) := by decide +kernel

/-- A discarded count, conflicts at the eighth conflict-free mark, a held snapshot that is installed and one that fails in
RUN and in JOINING, and one that the reference's equal comparison has discarded before the mark. -/
theorem test_meets_ReportImpliesMark_held :
    let s := holding run5 [recordOf 9 .collecting, recordOf 8 .folded]
    let f := holding run5 [recordOf 10 .collecting, recordOf 11 .collecting]
    let j := holding joining5 [recordOf 9 .collecting, recordOf 8 .folded]
    let k := holding joining5 [recordOf 10 .collecting]
    let e := { s with pool := { s.pool with history := [{ point := 8, digest := 3, complete := true }] } }
    Ready { s with line := { s.line with discarded := 3 }, roster := { s.roster with conflicts := 1, conflictFree := 7 } } ∧
    (Ready s ∧ s.canReceive = true ∧ (atImplied s (reportOf 2 10)).pool.held = some held8 ∧
      passes8 (atImplied s (reportOf 2 10)) = true) ∧
    (Ready f ∧ f.canReceive = true ∧ passes8 (atImplied f (reportOf 2 10)) = false) ∧
    (Ready e ∧ (e.compare { reportOf 2 10 with fold := some { point := 8, digest := 3 } }).pool.held = none) ∧
    (Ready j ∧ j.canReceive = true ∧ j.pool.held = some held8 ∧ (atImplied j (reportOf 2 10)).joinInstall = true) ∧
    (Ready k ∧ k.pool.agreement = .none ∧ (atImplied k (reportOf 2 10)).joinInstall = false) := by decide +kernel

/-- The statement's two orders: the coin of free values 0 and 1 is not known, so both states are given. A joiner with no held
snapshot, one that passes its test and one that fails, with two attempts and with three, below and at the wait count. -/
theorem test_meets_ResendImpliesMark :
    let s := holding run5 [recordOf 9 .collecting, recordOf 8 .folded]
    let j := fun (x : State) a w => { x with ctl := { x.ctl with joinAttempts := a, joinWait := w } }
    let passes := holding joining5 [recordOf 9 .collecting, recordOf 8 .folded]
    let fails := holding joining5 [recordOf 10 .collecting]
    Ready run5 ∧ run5.canReceive = true ∧ (reportOf 31 10).wf = true ∧ run5.ctl.leave ≠ .leaving ∧
    (reportOf 31 10).deltas.length = run5.ctl.profile.pools ∧ (reportOf 31 10).epoch = run5.clock.cur ∧
    run5.line.queue.length < 7 ∧ (reportOf 31 10).sender ≠ run5.own ∧
    (Ready s ∧ s.canReceive = true ∧ s.roster.reference ≠ some s.own ∧ s.pool.held = some held8) ∧
    (∀ x ∈ [joining5, passes, fails], ∀ a ∈ [2, 3], ∀ w ∈ [2, 3, 4], Ready (j x a w) ∧ (j x a w).canReceive = true ∧
      (j x a w).ctl.life = .joining) ∧
    (atImplied (j passes 3 4) (reportOf 2 10)).joinInstall = true ∧
    (atImplied (j fails 3 4) (reportOf 2 10)).joinInstall = false ∧
    (atImplied (j joining5 3 4) (reportOf 2 10)).joinInstall = false := by decide +kernel

/-- A REQUEST for an own pair with the station as target, AGREED with room, with a full queue and UNCERTAIN; one for another
target; JOINING and LISTEN; and the asked set: a pair twice and one held already, and the last of 32 places. -/
theorem test_meets_RequestsAreAnswered :
    let s := fun n => { run5With .collecting with
      line := { run5.line with queue := List.replicate n { key := .adjust 1, target := none, pairs := none } } }
    let p : Pair := { station := 5, epoch := 9 }
    let f : RequestFrame := { sender := 2, target := some 5, pairs := [p] }
    let full := List.replicate 31 ({ p with epoch := 3 } : Pair)
    (∀ n ∈ [0, 6, 8], Ready (s n) ∧ (s n).canReceive = true ∧ f.wf = true ∧ f.sender ≠ (s n).own) ∧
    (s 6).line.queue.length + f.pairs.length < 8 ∧ 8 ≤ (s 8).line.queue.length ∧
    f.target = some (stationByte (s 0).own) ∧ (s 0).pool.agreement = .agreed ∧
    (p.station = stationByte (s 0).own ∧ entry9 ∈ (s 0).builder.outbox) ∧
    Ready (station5 .run .uncertain) ∧ stationByte 9 ≠ stationByte run5.own ∧
    (Ready joining5 ∧ joining5.canReceive = true ∧ Ready listen5 ∧ listen5.canReceive = true) ∧
    addAsked [p] [p, { p with station := 6 }, { p with station := 6 }] = [p, { p with station := 6 }] ∧
    addAsked full [p, { p with station := 6 }] = full ++ [p] := by decide +kernel

theorem test_meets_SnapshotsAreHeld :
    let s := { station5 .run .resyncing with
      window := { records := [{ record9 .collecting with epoch := 9 }, { record9 .folded with epoch := 8 }], asked := [] } }
    let h := fun p => { s with pool := { s.pool with held := some { point := p, balances := [1], map := 0 } } }
    let f : SnapshotFrame := { sender := 2, point := 8, balances := [1], digest := balanceDigest 8 [1], map := 0 }
    (Ready s ∧ s.canReceive = true ∧ f.wf = true ∧ f.balances.length = s.ctl.profile.pools ∧ s.installable f = true) ∧
    (Ready (h 8) ∧ atOrAhead f.point 8 = true) ∧ (Ready (h 9) ∧ atOrAhead f.point 9 = false) ∧
    s.installable { f with point := 6 } = false ∧ s.oldest = some { record9 .folded with epoch := 8 } ∧
    (f.point + 1 - 8).toNat ≤ 32767 ∧ f.point = s.clock.cur - BitVec.ofNat 16 s.ctl.profile.foldLag ∧ (Ready run5 ∧ run5.pool.agreement ≠ .resyncing) ∧
    (Ready listen5 ∧ listen5.canReceive = true) := by decide +kernel

theorem test_meets_AdjustsAreJudged :
    let f : Epoch → AdjustFrame := fun e => { sender := 2, serial := 1, effective := e, pools := 1
                                              items := [{ pool := 0, kind := 1, value := 5 }] }
    let a : Adjustment := { originator := 3, serial := 1, effective := 12, items := [] }
    let four := { run5 with adjust := { run5.adjust with queue := [a, a, a, a] } }
    (Ready run5 ∧ run5.canReceive = true ∧ (f 10).wf = true ∧ (f 10).sender ≠ run5.own ∧
      (f 10).pools.toNat = run5.ctl.profile.pools) ∧
    (behind (f 10).effective run5.foldFloor = false ∧ run5.adjust.queue.length < 4) ∧
    ahead (f 14).effective (run5.clock.cur + BitVec.ofNat 16 run5.ctl.profile.lead + 1) = false ∧
    behind (f 9).effective run5.foldFloor = true ∧
    ahead (f 15).effective (run5.clock.cur + BitVec.ofNat 16 run5.ctl.profile.lead + 1) = true ∧
    (Ready four ∧ 4 ≤ four.adjust.queue.length) ∧ Ready joining5 ∧
    ((f 10).pools.toNat ≠ 2 ∧ run5.ctl.profile.pools ≤ (1#8).toNat ∧ 1 < (2#8).toNat) ∧
    (∃ x ∈ four.adjust.queue, x.originator = 3 ∧ x.serial = (f 10).serial) ∧
    insertAdj [a] { a with originator := 2 } = [{ a with originator := 2 }, a] ∧
    insertAdj [a] { a with serial := 2 } = [a, { a with serial := 2 }] ∧
    (run5.pool.foldPoint = none ∧ run5.window.records = [] ∧ run5.foldFloor = 10) ∧
    (run5With .settled).window.records.getLast? = some (record9 .settled) := by decide +kernel

theorem test_meets_JoinsAreHeard :
    let s := fun st => { run5 with roster := { run5.roster with
      entries := run5.roster.entries.set 2 { RosterEntry.blank with state := st }, reference := some 5 } }
    Ready (s .absent) ∧ Ready (s .gone) ∧ Ready (s .joining) ∧ Ready (s .missing) ∧ (s .present).canReceive = true ∧
    (s .absent).entry 2 = RosterEntry.blank ∧ (s .absent).roster.reference = some (s .absent).own ∧
    run5.roster.reference ≠ some run5.own := by decide +kernel

/-- An own-number JOIN and LEAVE at one and two conflicts, alone and under an overlap; an own-number MARK before and at the
eighth conflict-free mark, and one of another profile, in founding probation too. -/
theorem test_meets_OwnNumbersAreConflicts :
    let s := fun n free o => { run5 with
      roster := { run5.roster with conflicts := n, conflictFree := free }, line := { run5.line with overlap := o } }
    (∀ o ∈ [true, false], ∀ n ∈ [1, 2], Ready (s n 6 o) ∧ (s n 6 o).canReceive = true ∧ (s n 6 o).clock.probation = 0) ∧
    (Frame.leave { sender := 5 }).sender = run5.own ∧ (Frame.leave { sender := 5 }).good run5.ctl.profile.pools = true ∧
    (Frame.join { sender := 5, digest := 7 }).good run5.ctl.profile.pools = true ∧ (s 1 6 false).roster.conflictFree < 7 ∧
    (Ready (s 2 7 false) ∧ 7 ≤ (s 2 7 false).roster.conflictFree ∧ (markOf 5 11 7 0).epoch = run5.clock.cur + 1) ∧
    run5.ctl.digest ≠ some (markOf 5 11 8 0).digest ∧ run5.ctl.leave ≠ .leaving ∧
    Ready { run5 with clock := { run5.clock with probation := 1 } } ∧
    (Ready listen5 ∧ listen5.canReceive = true ∧ mapHas (markOf 5 11 7 0x20).map listen5.own = true ∧
      mapHas (markOf 5 11 7 0).map listen5.own = false) := by decide +kernel

/-- The own-number MARK of the next epoch, the present one and an unexpected one, with this number above, at and below the
pacing station's. -/
theorem test_meets_OwnNumbersAreConflicts_marks :
    let s := fun (x : State) (p : Station) => { x with clock := { x.clock with pacing := some p } }
    (∀ p ∈ [(4 : Station), 5, 6], Ready (s run5 p) ∧ (s run5 p).canReceive = true ∧ (s run5 p).roster.conflicts < 2) ∧
    (∀ p ∈ [(4 : Station), 5, 6], Ready (s joining5 p) ∧ (s joining5 p).canReceive = true ∧
      (s joining5 p).pool.held = none) ∧
    (markOf 5 10 7 0).epoch = run5.clock.cur ∧ (markOf 5 9 7 0).epoch ≠ run5.clock.cur ∧
    (markOf 5 11 7 0).epoch = run5.clock.cur + 1 ∧ (markOf 5 12 7 0).epoch ≠ run5.clock.cur + 1 ∧
    (4 : Station) < run5.own ∧ run5.own ≤ (5 : Station) := by decide +kernel

/-- A joiner with a held snapshot that passes its test, and one with a held snapshot that fails. -/
theorem test_meets_OwnNumbersAreConflicts_held :
    let j := holding joining5 [recordOf 9 .collecting, recordOf 8 .folded]
    let k := holding joining5 [recordOf 10 .collecting]
    (Ready j ∧ j.canReceive = true ∧ j.roster.conflicts < 2 ∧ j.pool.held = some held8 ∧ (at11 j).joinInstall = true) ∧
    (Ready k ∧ k.canReceive = true ∧ k.roster.conflicts < 2 ∧ k.pool.held = some held8 ∧
      (at11 k).joinInstall = false) := by decide +kernel

theorem test_meets_LeavesAreHeard :
    Ready (run5With .settled) ∧ (run5With .settled).canReceive = true ∧ (2 : Station) ≠ run5.own := by decide +kernel

/-- Channel 3's CNT pin rose at 0 against a low level: its change is due at 2,000, before and after the wire's instant. -/
theorem test_meets_FiltersFollowPins :
    let s := fun ws => { run5.setPin 3 .cnt { high := true, since := 0 } with wires := ws }
    let w := fun n => ({ dt := n, wire := .input 0 .gate true } : WireChange)
    let c : FilterChange := { due := 2000, ch := 3, pin := .cnt }
    (Ready (s []) ∧ (s []).pending = [] ∧ c ∈ (s []).filterChanges ∧ (s []).wires.head? = none) ∧
    (∀ d ∈ (s [w 1999]).filterChanges, (s []).now + (1999 : Nat) < d.due) ∧
    (c ∈ (s [w 2001]).filterChanges ∧ ∀ x ∈ (s [w 2001]).wires.head?, c.due < (s []).now + x.dt) ∧
    (run5.ctl.frozen = true ∧ config5.ctl.frozen = false) ∧
    (after (.hardwareReset 0) run5).ctl.inReset = true := by decide +kernel

/-- A width written in CONFIG is taken at the freeze: 8 steps of 0.5 µs, and 4 before it (R152, R170). -/
theorem test_width_at_freeze :
    let s := after (.writeProfile 0 16 8) config5
    s.filterWidth 0 = 2000 ∧ (after (.start 0) s).filterWidth 0 = 4000 := by decide +kernel

theorem test_meets_RisesAreCounted_spaced :
    let s := { run5 with channels := run5.channels.set 3 { Channel.reset with lastRise := some 0 } }
    (Ready s ∧ (s.channels.get 3).lastRise = some 0 ∧ s.now + (4999 : Nat) < 0 + 5000 ∧ 0 + 5000 ≤ s.now + (5000 : Nat)) ∧
    (Ready config5 ∧ config5.ctl.life = .config) ∧ (run5.channels.get 0).lastRise = none := by decide +kernel

theorem test_meets_RisesAreCounted :
    let cfg := fun m g => { run5 with ctl := { run5.ctl with profile := { run5.ctl.profile with
      channels := run5.ctl.profile.channels.set 0 { ChannelCfg.default m false with gateUse := g } } } }
    let ch := fun d v b => ({ Channel.reset with gateHigh := true, dirHigh := d, acc := v, batch := b } : Channel)
    let at0 := fun m d v b => { cfg m true with channels := run5.channels.set 0 (ch d v b) }
    Ready (cfg .pulse false) ∧ Ready (cfg .off false) ∧ Ready (cfg .pulse true) ∧
    Ready (at0 .pulse false 2147483647#32 0x7FFFFFFF#32) ∧ Ready (at0 .pulseDir true (-2147483647#32) 0x80000000#32) ∧
    Ready (at0 .pulse false 2147483646#32 0x7FFFFFFE#32) ∧ Ready (at0 .pulseDir true (-2147483646#32) 0x80000001#32) := by
  decide +kernel

theorem test_meets_GateEdges :
    let s := fun g => { run5 with
      ctl := { run5.ctl with profile := { run5.ctl.profile with
        channels := run5.ctl.profile.channels.set 0 { ChannelCfg.default .pulse false with gateUse := true } } }
      channels := run5.channels.set 0 { Channel.reset with gateHigh := g } }
    (Ready (s false) ∧ (s false).gateActs 0 = true) ∧ (Ready (s true) ∧ (s true).gateActs 0 = true) ∧
    (Ready run5 ∧ run5.gateActs 0 = false ∧ (run5.channels.get 0).gateHigh = false) ∧
    Ready { run5 with channels := run5.channels.set 0 { Channel.reset with gateHigh := true } } := by decide +kernel

theorem test_meets_DriveRuleMoves :
    let c : DriveCfg := { DriveCfg.default with pool := some 7, riseDwell := 0, fallDwell := 1 }
    c.high.toInt ≤ 1 ∧ 0 < c.high.toInt ∧ (0 : Int) ≤ c.low.toInt ∧ c.low.toInt < 1 ∧ [(1 : Int)].length = c.riseDwell + 1 ∧
    [(0 : Int), 0].length = c.fallDwell + 1 ∧
    ({ run5.ctl.profile with drives := run5.ctl.profile.drives.set 0 c }.drives.get 0).pool = some 7 := by decide +kernel

/-- A drive that passes to HOLD from the rule at its active level, from CONFIG, and within the uncertain action. -/
theorem test_meets_DrivePinsFollowTable :
    let c : DriveCfg := { DriveCfg.default with pool := some 0, activeHigh := false }
    let d := fun row => ({ Drive.reset with row := row, held := true } : Drive)
    (Life.listen ≠ .config ∧ c.pool ≠ none ∧ DriveCfg.default.pool = none) ∧
    (((d .rule).refreshed c .run .uncertain).row = .uncertain ∧ ((d .rule).refreshed c .run .uncertain).held = true) ∧
    ((d .config).refreshed c .listen .none).held = false ∧ ((d .uncertain).refreshed c .run .diverged).held = true ∧
    ((d .config).refreshed { c with action := .assert } .listen .none).pin = false := by decide +kernel

theorem test_meets_SetDriveForces :
    let s := { run5 with drives := { run5.drives with drives := Tbl.fill 4 { Drive.reset with row := .disabled } } }
    Ready run5 ∧ 4 ≤ (4#8).toNat ∧ 3 ≤ (3#8).toNat ∧ (3#8).toNat = (3 : Fin 4).val ∧
    DriveMode.ofCode 2 = some .forceOff ∧ DriveMode.ofCode 3 = none ∧
    (Ready s ∧ (s.drives.drives.get 3).row ≠ .uncertain ∧ (s.drives.drives.get 3).row ≠ .config) ∧
    pinRow .run .uncertain { DriveCfg.default with pool := some 0 } .auto = .uncertain := by decide +kernel

theorem test_meets_TransactionsAreClocked :
    let t := fun taken n => ({ shift := List.replicate n false, bytes := [], taken := taken, falls := 9 } : Txn)
    let s := fun x cs sck => { run5 with
      port := { run5.port with txn := x, reply := some { outcome := .done, result := [] } }
      inputs := { run5.inputs with cs := cs, sck := sck } }
    Ready (s none true false) ∧ Ready (s (some (t false 7)) false false) ∧ Ready (s (some (t false 6)) false false) ∧
    Ready (s (some (t true 0)) false true) ∧ (s none true false).pending = [] ∧ (s none true false).filterChanges = [] ∧
    (t false 6).shift.length < 7 ∧ (t false 7).shift.length = 7 ∧ commandOf [byteOf (List.replicate 8 false)] ≠ none ∧
    commandOf [0x02] = none ∧ (t true 0).falls = 8 * 1 + 0 + 1 := by decide +kernel

theorem test_meets_CommandBytesAreRead : Ready run5 ∧ 0x33#8 ∉ commandCodes ∧ ([] : List Byte).length < 5 ∧
    (List.replicate 4 0 : List Byte).length < 5 ∧ (List.replicate 4 { pool := 0, kind := 0, value := 0 } : List RawItem).length =
      postedItems 4 ∧ ([] : List RawItem).length = postedItems 0 ∧ (List.replicate 23 0 : List Byte).length < 6 * postedItems 4 := by
  decide +kernel

theorem test_meets_PortReads :
    let e : Event := { kind := .drive, epoch := 1, subject := none, value := 0 }
    let s := { run5 with port := { run5.port with events := [e], irq := true } }
    let d := { run5 with pool := { run5.pool with
      foldPoint := some 9, history := [{ point := 9, digest := 3, complete := true }] } }
    (Ready run5 ∧ run5.port.events = [] ∧ run5.pool.foldPoint = none) ∧ (Ready s ∧ s.port.events = e :: []) ∧
    (d.pool.foldPoint ≠ none ∧ (d.pool.history.getLast?).map (fun h => h.digest) = some 3) ∧
    (3#8).toNat = (3 : Fin 4).val ∧ 4 ≤ (4#8).toNat := by decide +kernel

theorem test_meets_PortReads_tables : Ready (run5With .settled) ∧ (7#8).toNat = (7 : Fin 8).val ∧ 8 ≤ (8#8).toNat ∧
    (31#8).toNat = (31 : Station).val ∧ 32 ≤ (32#8).toNat ∧
    (run5With .settled).window.records[(0#8).toNat]? = some (record9 .settled) ∧ (record9 .settled).applied.length ≤ 4 ∧
    (run5With .settled).builder.outbox.find? (fun e => e.epoch == 9) = some entry9 ∧
    run5.builder.outbox.find? (fun e => e.epoch == 9) = none ∧
    (run5With .settled).window.records[(7#8).toNat]? = none := by decide +kernel

theorem test_meets_ProfileIsWritten : Ready config5 ∧ config5.ctl.life = .config ∧
    (config5.ctl.profile.write 61 2).isSome = true ∧ config5.ctl.profile.write 61 3 = none ∧
    (config5.ctl.profile.write 1 2000).isSome = true ∧ config5.ctl.profile.write 1 2001 = none ∧
    config5.ctl.profile.write 1 19 = none ∧ config5.ctl.profile.write 62 0 = none ∧ Ready run5 ∧
    (7#32).toInt = ((7 : Fin 8).val : Int) ∧ 7 < (8#32).toInt ∧ (-1#32).toInt < 0 ∧ (-2#32).toInt < -1 := by decide +kernel

theorem test_meets_PostsAreTaken :
    let item : RawItem := { pool := 0, kind := 1, value := 5 }
    let a : Adjustment := { originator := 3, serial := 1, effective := 12, items := [] }
    let four := { run5 with adjust := { run5.adjust with queue := [a, a, a, a] } }
    let own := { run5 with adjust := { run5.adjust with queue := [{ a with originator := 5 }] } }
    Ready run5 ∧ [item].length = postedItems 1 ∧ [item, item, item, item].length = postedItems 4 ∧
    ([] : List RawItem).length = postedItems 0 ∧ ([] : List RawItem).length = postedItems 5 ∧
    item.pool.toNat < run5.ctl.profile.pools ∧ item.kind.toNat ≤ 1 ∧ run5.ctl.leave = .none ∧ run5.adjust.queue.length < 4 ∧
    (Ready joining5 ∧ joining5.ctl.life ≠ .run) ∧ (Ready four ∧ 4 ≤ four.adjust.queue.length) ∧
    (Ready own ∧ ∃ x ∈ own.adjust.queue, x.originator = own.own) ∧
    ¬({ item with pool := 1 } : RawItem).pool.toNat < run5.ctl.profile.pools ∧
    ¬({ item with kind := 2 } : RawItem).kind.toNat ≤ 1 := by decide +kernel

end Sys2Proof.Tests
end

section
/-! What an effect adds to the port: events on their way, and nothing else (R182). -/

namespace Sys2Proof.Machine

/-- The port of t is that of s but for the events that arose since. -/
def Raised (s t : State) : Prop := ∃ l, t.port = { s.port with arising := s.port.arising ++ l }

theorem Raised.of_port {s t : State} (h : t.port = s.port) : Raised s t := ⟨[], by simp [h]⟩

theorem Raised.refl (s : State) : Raised s s := .of_port rfl

theorem Raised.trans {a b c : State} (h : Raised a b) (k : Raised b c) : Raised a c := by
  obtain ⟨l, hl⟩ := h
  obtain ⟨m, hm⟩ := k
  exact ⟨l ++ m, by simp [hm, hl]⟩

/-- An update that leaves the port alone. -/
theorem Raised.keep {a b c : State} (h : Raised a b) (hp : c.port = b.port) : Raised a c := h.trans (.of_port hp)

theorem Raised.foldl {α : Type} (f : State → α → State) (h : ∀ s a, Raised s (f s a)) (l : List α) (s : State) :
    Raised s (l.foldl f s) := by
  induction l generalizing s with
  | nil => exact .refl s
  | cons a t ih => exact (h s a).trans (ih _)

theorem Raised.reply {s t : State} (h : Raised s t) : t.port.reply = s.port.reply := by
  obtain ⟨l, hl⟩ := h; rw [hl]

theorem Raised.txn {s t : State} (h : Raised s t) : t.port.txn = s.port.txn := by
  obtain ⟨l, hl⟩ := h; rw [hl]

/-- An event that arose is still on its way. -/
theorem Raised.mem {s t : State} (h : Raised s t) {x : Block × Event} (hx : x ∈ s.port.arising) : x ∈ t.port.arising := by
  obtain ⟨l, hl⟩ := h; rw [hl]; exact List.mem_append_left l hx

theorem State.raise_raised (s : State) (b : Block) (k : EventKind) (u : Option Station) (v : BitVec 16) :
    Raised s (s.raise b k u v) := ⟨_, rfl⟩

/-- A raised event is on its way. -/
theorem State.raise_mem (s : State) (b : Block) (k : EventKind) (u : Option Station) (v : BitVec 16) :
    (b, { kind := k, epoch := s.clock.cur, subject := u, value := v }) ∈ (s.raise b k u v).port.arising := by simp

/-! ### Flags, agreement and drives -/

theorem State.setLife_raised (s : State) (l : Life) (c : MuteCause) : Raised s (s.setLife l c) := State.raise_raised _ _ _ _ _

theorem State.setAgreementFor_raised (s : State) (u : Option Station) (a : Agreement) :
    Raised s (s.setAgreementFor u a) := by
  unfold State.setAgreementFor
  split
  · exact .refl s
  · exact State.raise_raised _ _ _ _ _

theorem State.setAgreement_raised (s : State) (a : Agreement) : Raised s (s.setAgreement a) :=
  s.setAgreementFor_raised _ a

theorem State.loseClean_raised (s : State) : Raised s s.loseClean := by
  unfold State.loseClean
  split
  · exact (Raised.of_port rfl : Raised s (s.setClean false)).trans (State.setAgreement_raised _ _)
  · exact .of_port rfl

theorem State.refreshDrive_raised (s : State) (ag : Agreement) (i : Fin 4) : Raised s (s.refreshDrive ag i) := by
  simp only [State.refreshDrive]
  split
  · exact .of_port rfl
  · exact State.raise_raised _ _ _ _ _

theorem State.refreshDrivesFor_raised (s : State) (ag : Agreement) : Raised s (s.refreshDrivesFor ag) :=
  Raised.foldl _ (fun s i => s.refreshDrive_raised ag i) _ s

theorem State.refreshDrives_raised (s : State) : Raised s s.refreshDrives := s.refreshDrivesFor_raised _

theorem State.agree_raised (s : State) (a : Agreement) : Raised s (s.agree a) :=
  (s.setAgreement_raised a).trans (State.refreshDrives_raised _)

theorem State.evaluateDrives_raised (s : State) : Raised s s.evaluateDrives := .of_port (by simp)

/-! ### Line and roster -/

theorem State.reportDiscarded_raised (s : State) : Raised s s.reportDiscarded := by
  unfold State.reportDiscarded
  split
  · exact .refl s
  · exact State.raise_raised _ _ _ _ _

theorem State.setEntry_raised (s : State) (n : Station) (e : RosterEntry) : Raised s (s.setEntry n e) := by
  simp only [State.setEntry]
  split
  · exact .of_port rfl
  · exact State.raise_raised _ _ _ _ _

theorem State.countMisses_raised (s : State) : Raised s s.countMisses := by
  unfold State.countMisses
  split
  · exact .refl s
  · exact Raised.foldl _ (fun s n => s.setEntry_raised n _) _ s

theorem State.lapseJoins_raised (s : State) : Raised s s.lapseJoins :=
  Raised.foldl _ (fun s n => s.setEntry_raised n _) _ s

/-! ### Folds -/

theorem State.addBalance_raised (s : State) (p : Fin 8) (v : BitVec 32) : Raised s (s.addBalance p v) := by
  simp only [State.addBalance]
  split
  · exact .of_port rfl
  · split
    · exact .of_port rfl
    · exact State.raise_raised _ _ _ _ _

theorem State.addEach_raised (l : List (BitVec 32)) (s : State) (i : Nat) : Raised s (s.addEach i l) := by
  induction l generalizing s i with
  | nil => exact .refl s
  | cons v t ih =>
    rw [State.addEach]
    refine Raised.trans ?_ (ih _ _)
    split
    · exact s.addBalance_raised _ v
    · exact .refl s

theorem State.applyItem_raised (s : State) (i : AdjItem) : Raised s (s.applyItem i) := by
  unfold State.applyItem
  split
  · split
    · exact .of_port rfl
    · exact s.addBalance_raised _ _
  · exact .refl s

theorem State.applyItems_raised (s : State) (a : Adjustment) : Raised s (s.applyItems a) :=
  Raised.foldl _ State.applyItem_raised _ s

theorem State.applyDue_raised (s : State) (a : Adjustment) : Raised s (s.applyDue a) :=
  (s.applyItems_raised a).trans (State.raise_raised _ _ _ _ _)

theorem State.replayRecord_raised (s : State) (r : Record) : Raised s (s.replayRecord r) :=
  (State.addEach_raised _ s 0).trans (Raised.foldl _ State.applyItems_raised _ _)

theorem State.openGaps_raised (s : State) (r : Record) : Raised s (s.openGaps r) := by
  simp only [State.openGaps]
  split
  · exact .of_port rfl
  · exact Raised.trans (State.raise_raised _ _ _ _ _) (State.loseClean_raised _)

theorem State.expireGaps_raised (s : State) (e : Epoch) : Raised s (s.expireGaps e) := by
  simp only [State.expireGaps]
  split
  · exact .refl s
  · refine Raised.trans ?_ (State.loseClean_raised _)
    exact Raised.trans (.of_port rfl) (Raised.foldl _ (fun (x : State) (g : Gap) => State.raise_raised x .pool .gapExpired (some g.station)
      g.epoch) _ _)

theorem State.applyDueAt_raised (s : State) (e : Epoch) : Raised s (s.applyDueAt e) := by
  refine Raised.keep ?_ (State.changeRecord_port _ _ _)
  exact Raised.trans (.of_port rfl) (Raised.foldl State.applyDue State.applyDue_raised _ _)

theorem State.foldRecord_raised (s : State) (r : Record) : Raised s (s.foldRecord r) := by
  refine Raised.keep ?_ (State.changeRecord_port _ _ _)
  exact ((State.addEach_raised r.sums s 0).trans (State.openGaps_raised _ r)).trans (State.applyDueAt_raised _ r.epoch)

theorem State.lateFold_raised (s : State) (skip : Option Epoch) : Raised s (s.lateFold skip) :=
  Raised.keep (Raised.foldl (fun (s : State) (r : Record) => s.addEach 0 r.late)
    (fun s _ => State.addEach_raised _ s 0) _ s) rfl

theorem State.foldAtMark_raised (s : State) : Raised s s.foldAtMark := by
  simp only [State.foldAtMark]
  split
  · split
    · exact s.lateFold_raised _
    · refine Raised.keep ?_ (State.recordDigest_port _ _)
      exact (s.foldRecord_raised _).trans (State.lateFold_raised _ _)
  · exact s.lateFold_raised _

theorem State.age_raised (s : State) : Raised s s.age := by
  unfold State.age
  split
  · exact .refl s
  · split
    · exact .refl s
    · exact Raised.trans (.of_port rfl) (State.expireGaps_raised _ _)

theorem State.windowMark_raised (s : State) (b : Bool) : Raised s (s.windowMark b) :=
  (s.foldAtMark_raised.trans (State.age_raised _)).keep rfl

theorem State.emergencyFold_raised (s : State) : Raised s s.emergencyFold :=
  ((Raised.foldl (fun (s : State) (r : Record) => s.addEach 0 r.sums) (fun s _ => State.addEach_raised _ s 0) _ s).trans
    (Raised.foldl (fun (s : State) (r : Record) => s.addEach 0 r.late) (fun s _ => State.addEach_raised _ s 0) _ _)).keep
    rfl

theorem State.install_raised (s : State) (h : HeldSnapshot) : Raised s (s.install h) := by
  have replayed := fun x : State => Raised.foldl State.replayRecord State.replayRecord_raised (s.replayed h.point) x
  have set : Raised s { s with pool := { s.pool with
      table := setBalances s.pool.table 0 (h.balances.take s.ctl.profile.pools) } } := .of_port rfl
  have base := set.trans (replayed _)
  unfold State.install
  refine Raised.keep ?_ rfl
  refine Raised.trans ?_ (State.setAgreement_raised _ .agreed)
  split
  · exact base.keep rfl
  · exact base.keep rfl

theorem State.installHeld_raised (s : State) (b : Bool) : Raised s (s.installHeld b) := by
  unfold State.installHeld
  split
  · exact .refl s
  · split
    · exact s.install_raised _
    · split <;> exact .of_port rfl

/-! ### Marks and the slot-phase end -/

theorem State.joinerRuns_raised (s : State) (b : Bool) : Raised s (s.joinerRuns b) := by
  unfold State.joinerRuns
  split
  · exact (s.setLife_raised .run .none).keep rfl
  · exact .refl s

theorem State.driveMark_raised (s : State) (ag : Agreement) : Raised s (s.driveMark ag) := by
  unfold State.driveMark
  split
  · exact ((Raised.of_port (by simp)).trans (State.refreshDrivesFor_raised _ _)).trans (State.refreshDrives_raised _)
  · split
    · exact Raised.trans (State.refreshDrives_raised s.draw)
        ((State.evaluateDrives_raised _).trans (State.refreshDrives_raised _))
    · exact s.refreshDrives_raised.trans ((State.evaluateDrives_raised _).trans (State.refreshDrives_raised _))

/-- A mark that takes a joiner into RUN is these responses one after another (R64, R99, R132). -/
theorem State.takeMark_enters (s : State) (d : Bool) (hi : s.installing = true) :
    s.takeMark d = (((((((s.reportDiscarded.conflictFreeMark).joinerRuns true).windowMark true).countMark).installHeld
      true).capture d).controllerMark true).driveMark s.pool.agreement := by
  have hr : (s.reportDiscarded.conflictFreeMark.joinerRuns true).ctl.life = .run := rfl
  simp only [State.takeMark, hi, Bool.not_true, Bool.and_false, Bool.false_eq_true, if_false, hr, beq_self_eq_true, if_true]

/-- A mark outside RUN at which no snapshot is installed: nothing is captured, and no drive rule is evaluated (R64, R99). -/
theorem State.takeMark_stays (s : State) (d : Bool) (hr : s.ctl.life ≠ .run) (hi : s.installing = false) :
    s.takeMark d = ((((if s.ctl.life = .joining then s.reportDiscarded.conflictFreeMark.dropHeld
      else s.reportDiscarded.conflictFreeMark).windowMark false).countMark).installHeld false).controllerMark false := by
  have hb : (s.ctl.life == .run) = false := by simp [hr]
  by_cases hj : s.ctl.life = .joining
  · simp only [State.takeMark, hi, State.joinerRuns]
    simp [hj]
    rfl
  · simp only [State.takeMark, hi, State.joinerRuns]
    simp [hj, hb]

/-- The responses of window, pool unit and drives to a mark in RUN, one after another. -/
theorem State.responses_raised (s : State) (i d : Bool) (ag : Agreement) :
    Raised s ((((((s.windowMark true).countMark).installHeld i).capture d).controllerMark i).driveMark ag) := by
  have held : Raised s ((s.windowMark true).countMark.installHeld i) :=
    Raised.trans ((s.windowMark_raised true).keep (by simp)) (State.installHeld_raised _ i)
  have captured : ∀ x : State, Raised x ((x.capture d).controllerMark i) := fun x => .of_port (by simp)
  exact (held.trans (captured _)).trans (State.driveMark_raised _ _)

/-- A mark's responses raise their events after the report of the discarded count and the conflict-free mark. -/
theorem State.takeMark_raised_after (s : State) (d : Bool) :
    Raised s.reportDiscarded.conflictFreeMark (s.takeMark d) := by
  by_cases hr : s.ctl.life = .run
  · rw [s.takeMark_run d hr]
    exact State.responses_raised _ _ _ _
  · by_cases hi : s.installing = true
    · rw [s.takeMark_enters d hi]
      exact (State.joinerRuns_raised _ _).trans (State.responses_raised _ _ _ _)
    · rw [s.takeMark_stays d hr (by simpa using hi)]
      have held : ∀ x : State, Raised x (((x.windowMark false).countMark.installHeld false).controllerMark false) :=
        fun x => (Raised.trans ((x.windowMark_raised false).keep (State.countMark_frame _).2.2.2.2.2.2.2.2.2.2.2.1)
          (State.installHeld_raised _ false)).keep (State.controllerMark_frame _ _).2.2.2.2.2.2.2.2.2.2.2.1
      refine Raised.trans ?_ (held _)
      split
      · exact .of_port rfl
      · exact .refl _

theorem State.takeMark_raised (s : State) (d : Bool) : Raised s (s.takeMark d) :=
  (s.reportDiscarded_raised.keep (by simp)).trans (s.takeMark_raised_after d)

theorem State.offerKey_raised (s : State) (k : QKey) : Raised s (s.offerKey k) := .of_port (by simp)

theorem State.offerResends_raised (s : State) (l : List OutEntry) : Raised s (s.offerResends l) := .of_port (by simp)

theorem State.offerPairs_raised (s : State) : Raised s s.offerPairs := .of_port (by simp)

theorem State.offerAdjust_raised (s : State) : Raised s s.offerAdjust := .of_port (by simp)

theorem State.offerSnapshotPart_raised (s : State) : Raised s s.offerSnapshotPart.1 := .of_port (by simp)

theorem State.requestSnapshot_raised (s : State) : Raised s s.requestSnapshot := by
  simp only [State.requestSnapshot]
  split
  · refine Raised.trans ?_ (State.agree_raised _ _)
    exact s.offerSnapshotPart_raised.keep rfl
  · exact s.offerSnapshotPart_raised

theorem State.compareWith_raised (s : State) (h : HistEntry) (d : Digest) (c : Bool) :
    Raised s (s.compareWith h d c) := by
  unfold State.compareWith
  split
  · refine Raised.trans ?_ (State.agree_raised _ _)
    exact .of_port rfl
  · split
    · exact .refl s
    · dsimp only
      split
      · refine Raised.trans ?_ (State.requestSnapshot_raised _)
        refine Raised.keep (b := State.agree { s with pool := { s.pool with noComparison := 0 } } .diverged) ?_ rfl
        refine Raised.trans ?_ (State.agree_raised _ _)
        exact .of_port rfl
      · exact .of_port rfl

theorem State.compare_raised (s : State) (f : ReportFrame) : Raised s (s.compare f) := by
  unfold State.compare
  split
  · split
    · exact .refl s
    · split
      · exact .refl s
      · exact s.compareWith_raised _ _ _
  · exact .refl s

theorem State.selfReference_raised (s : State) : Raised s s.selfReference := by
  unfold State.selfReference
  dsimp only
  split
  · refine Raised.trans ?_ (State.agree_raised _ _)
    exact .of_port rfl
  · split
    · refine Raised.trans ?_ (State.raise_raised _ _ _ _ _)
      refine Raised.trans ?_ (State.agree_raised _ _)
      refine Raised.keep (b := State.agree { s with pool := { s.pool with
        target := none, held := none, uncleanSelf := s.pool.uncleanSelf + 1 } } .uncertain) ?_ rfl
      refine Raised.trans ?_ (State.agree_raised _ _)
      exact .of_port rfl
    · refine Raised.trans ?_ (State.agree_raised _ _)
      exact .of_port rfl

theorem State.countNoComparison_raised (s : State) : Raised s s.countNoComparison := by
  unfold State.countNoComparison
  dsimp only
  split
  · refine Raised.trans ?_ (State.offerSnapshotPart_raised _)
    refine Raised.trans ?_ (State.agree_raised _ _)
    exact .of_port rfl
  · exact .of_port rfl

theorem State.poolPhaseEnd_raised (s : State) : Raised s s.poolPhaseEnd := by
  unfold State.poolPhaseEnd
  dsimp only
  split
  · exact s.selfReference_raised
  · have start : Raised s { s with pool := { s.pool with uncleanSelf := 0 } } := .of_port rfl
    split
    · exact start.trans (State.countNoComparison_raised _)
    · exact start.trans (State.requestSnapshot_raised _)
    · split
      · exact start.trans (State.offerSnapshotPart_raised _)
      · exact start
    · exact start
    · exact start

/-! ### Changes of life -/

theorem State.enterFrozen_raised (s : State) (l : Life) (c : MuteCause) : Raised s (s.enterFrozen l c) := by
  unfold State.enterFrozen
  refine Raised.trans ?_ (State.refreshDrives_raised _)
  refine Raised.trans ?_ (State.setAgreement_raised _ _)
  refine Raised.trans ?_ (State.setLife_raised _ _ _)
  exact (Raised.trans (.of_port rfl) (State.reportDiscarded_raised s.cutOff.withdrawAll.clearDesignation)).keep rfl

theorem State.restartPath_raised (s : State) : Raised s s.restartPath := by
  unfold State.restartPath
  refine Raised.trans ?_ (State.refreshDrives_raised _)
  refine Raised.trans ?_ (State.setLife_raised _ _ _)
  refine Raised.keep ?_ rfl
  refine Raised.trans ?_ (State.setAgreementFor_raised _ _ _)
  exact (Raised.trans (.of_port rfl) (State.reportDiscarded_raised s.draw.cutOff.withdrawAll)).keep rfl

theorem State.countConflict_raised (s : State) : Raised s s.countConflict := by
  have counted := Raised.trans (.of_port rfl : Raised s { s with roster := { s.roster with
    conflicts := s.roster.conflicts + 1, conflictFree := 0 } }) (State.raise_raised _ .roster .identityConflict
      (some s.own) (BitVec.ofNat 16 (s.roster.conflicts + 1)))
  unfold State.countConflict
  dsimp only
  split
  · exact counted.trans (State.enterFrozen_raised _ _ _)
  · exact counted

theorem State.enterJoining_raised (s : State) : Raised s s.enterJoining := by
  unfold State.enterJoining
  refine Raised.trans ?_ (State.refreshDrives_raised _)
  exact (Raised.trans (.of_port rfl) (State.setLife_raised _ .joining .none)).keep rfl

theorem State.phaseEnd_raised (s : State) : Raised s s.phaseEnd := by
  have counted : ∀ x : State, Raised x x.countMisses.lapseJoins.chooseReference := fun x =>
    (x.countMisses_raised.trans x.countMisses.lapseJoins_raised).keep (by simp)
  unfold State.phaseEnd
  dsimp only
  generalize hs : ({ s with clock := { s.clock with slotCount := 32, slotTimer := .window } } : State).linePhaseEnd = x
  have start : Raised s x := .of_port (by rw [← hs]; rfl)
  split
  · exact start
  · exact start
  · exact start
  · exact start.trans x.lapseJoins_raised
  · split
    · exact (start.trans (counted x)).trans (State.enterFrozen_raised _ _ _)
    · split
      · exact (start.trans (counted x)).keep (by simp)
      · exact start.trans (counted x)
  · have pool := fun l => ((((start.trans (counted x)).trans (State.offerResends_raised _ l)).trans
      (State.offerPairs_raised _)).trans (State.poolPhaseEnd_raised _)).trans (State.offerAdjust_raised _)
    split
    · exact (pool _).trans (State.offerKey_raised _ _)
    · exact pool _

/-! ### MARKs -/

theorem State.discontinuityResponses_raised (s : State) : Raised s s.discontinuityResponses := by
  have folded : Raised s (s.reportDiscarded.conflictFreeMark.dropEntry .request).emergencyFold :=
    (s.reportDiscarded_raised.keep (by simp)).trans (State.emergencyFold_raised _)
  unfold State.discontinuityResponses
  dsimp only
  split
  · refine Raised.trans ?_ (State.agree_raised _ _)
    exact folded.keep rfl
  · split
    · exact folded.keep rfl
    · exact folded.keep rfl

theorem State.takeDiscontinuity_raised (s : State) (x : Epoch) (n : Station) : Raised s (s.takeDiscontinuity x n) := by
  unfold State.takeDiscontinuity
  refine Raised.trans ?_ (State.discontinuityResponses_raised _)
  exact Raised.trans (.of_port (by simp)) (State.raise_raised _ _ _ _ _)

theorem State.acceptMark_raised (s : State) (f : MarkFrame) : Raised s (s.acceptMark f) :=
  Raised.trans (.of_port (by simp)) (State.takeMark_raised _ _)

theorem State.continuity_raised (s : State) (f : MarkFrame) : Raised s (s.continuity f) := by
  unfold State.continuity
  split
  · exact s.acceptMark_raised f
  · split
    · exact .refl s
    · split
      · exact s.takeDiscontinuity_raised _ _
      · exact s.raise_raised _ _ _ _

theorem State.listenMap_raised (s : State) (f : MarkFrame) : Raised s (s.listenMap f) := by
  unfold State.listenMap
  dsimp only
  split
  · exact Raised.trans (s.raise_raised _ _ _ _) (State.enterFrozen_raised _ _ _)
  · split
    · exact Raised.trans (.of_port rfl) (State.enterJoining_raised _)
    · exact .of_port rfl

theorem State.listenClock_raised (s : State) (f : MarkFrame) : Raised s (s.listenClock f) :=
  have begun : Raised s (s.beginEpoch f.epoch (some f.sender) s.now 0) := .of_port rfl
  (begun.trans (State.reportDiscarded_raised _)).keep (by simp [State.listenClock])

theorem State.clockMark_raised (s : State) (f : MarkFrame) : Raised s (s.clockMark f) := by
  unfold State.clockMark
  split
  · exact .refl s
  · exact .refl s
  · exact .refl s
  · split
    · exact (s.listenClock_raised f).trans (State.listenMap_raised _ f)
    · exact (s.raise_raised _ _ _ _).keep rfl
  · split
    · exact s.continuity_raised f
    · exact s.raise_raised _ _ _ _
  · split
    · split
      · unfold State.probationMark
        split
        · exact s.raise_raised _ _ _ _
        · exact s.restartPath_raised
      · exact s.continuity_raised f
    · exact s.raise_raised _ _ _ _

end Sys2Proof.Machine
end


section
/-! What the fold and the ageing of a mark read and write of the pool unit, the adjustment unit and the window. -/

namespace Sys2Proof.Machine

/-! ### What they leave alone -/

/-- t has the parts of the pool unit and the adjustment unit that no fold writes as s has them; the agreement state leaves
AGREED for UNCERTAIN at most (R86, R87). -/
structure FoldKeeps (s t : State) : Prop where
  target : t.pool.target = s.pool.target
  held : t.pool.held = s.pool.held
  holdBack : t.pool.holdBack = s.pool.holdBack
  wait : t.pool.wait = s.pool.wait
  noComparison : t.pool.noComparison = s.pool.noComparison
  uncleanSelf : t.pool.uncleanSelf = s.pool.uncleanSelf
  lastSerial : t.adjust.lastSerial = s.adjust.lastSerial
  agreement : t.pool.agreement = s.pool.agreement ∨ (s.pool.agreement = .agreed ∧ t.pool.agreement = .uncertain)

theorem FoldKeeps.of_same {s t : State} (hp : t.pool = s.pool) (ha : t.adjust.lastSerial = s.adjust.lastSerial) :
    FoldKeeps s t := by
  constructor <;> simp [hp, ha]

theorem FoldKeeps.refl (s : State) : FoldKeeps s s := .of_same rfl rfl

theorem FoldKeeps.trans {a b c : State} (h : FoldKeeps a b) (k : FoldKeeps b c) : FoldKeeps a c where
  target := k.target.trans h.target
  held := k.held.trans h.held
  holdBack := k.holdBack.trans h.holdBack
  wait := k.wait.trans h.wait
  noComparison := k.noComparison.trans h.noComparison
  uncleanSelf := k.uncleanSelf.trans h.uncleanSelf
  lastSerial := k.lastSerial.trans h.lastSerial
  agreement := by
    rcases h.agreement with h | ⟨ha, hb⟩ <;> rcases k.agreement with k | ⟨ka, kb⟩
    · exact .inl (k.trans h)
    · exact .inr ⟨h ▸ ka, kb⟩
    · exact .inr ⟨ha, k.trans hb⟩
    · rw [hb] at ka; cases ka

theorem FoldKeeps.keep {a b c : State} (h : FoldKeeps a b) (hp : c.pool = b.pool)
    (ha : c.adjust.lastSerial = b.adjust.lastSerial) : FoldKeeps a c := h.trans (.of_same hp ha)

theorem FoldKeeps.foldl {α : Type} (f : State → α → State) (h : ∀ s a, FoldKeeps s (f s a)) (l : List α) (s : State) :
    FoldKeeps s (l.foldl f s) := by
  induction l generalizing s with
  | nil => exact .refl s
  | cons a t ih => exact (h s a).trans (ih _)

/-- An agreement state other than AGREED stands at a fold. -/
theorem FoldKeeps.agreement_eq {s t : State} (h : FoldKeeps s t) (hn : s.pool.agreement ≠ .agreed) :
    t.pool.agreement = s.pool.agreement := h.agreement.resolve_right (fun k => hn k.1)

theorem FoldKeeps.resyncing_iff {s t : State} (h : FoldKeeps s t) :
    t.pool.agreement = .resyncing ↔ s.pool.agreement = .resyncing := by
  rcases h.agreement with h | ⟨ha, hb⟩
  · rw [h]
  · simp [ha, hb]

/-! ### What they are decided by -/

/-- a and b agree in what the fold, the ageing and an install read: the cur of their epoch clocks, the window, the adjustment
unit, the profile, the number, the roster's entries, and the pool unit but for the parts that FoldKeeps names. -/
structure FoldAlike (a b : State) : Prop where
  cur : a.clock.cur = b.clock.cur
  window : a.window = b.window
  adjust : a.adjust = b.adjust
  profile : a.ctl.profile = b.ctl.profile
  straps : a.ctl.straps = b.ctl.straps
  entries : a.roster.entries = b.roster.entries
  table : a.pool.table = b.pool.table
  foldPoint : a.pool.foldPoint = b.pool.foldPoint
  history : a.pool.history = b.pool.history
  gaps : a.pool.gaps = b.pool.gaps
  clean : a.pool.clean = b.pool.clean
  agreement : a.pool.agreement = b.pool.agreement

theorem FoldAlike.refl (s : State) : FoldAlike s s := ⟨rfl, rfl, rfl, rfl, rfl, rfl, rfl, rfl, rfl, rfl, rfl, rfl⟩

theorem FoldAlike.foldl {α : Type} (f : State → α → State) (h : ∀ a b x, FoldAlike a b → FoldAlike (f a x) (f b x))
    (l : List α) {a b : State} (hab : FoldAlike a b) : FoldAlike (l.foldl f a) (l.foldl f b) := by
  induction l generalizing a b with
  | nil => exact hab
  | cons x t ih => exact ih (h a b x hab)

/-- Two states alike whose pool units agree in the rest as well have the same pool unit. -/
theorem FoldAlike.pool_eq {a b : State} (h : FoldAlike a b) (ht : a.pool.target = b.pool.target)
    (hh : a.pool.held = b.pool.held) (hb : a.pool.holdBack = b.pool.holdBack) (hw : a.pool.wait = b.pool.wait)
    (hn : a.pool.noComparison = b.pool.noComparison) (hu : a.pool.uncleanSelf = b.pool.uncleanSelf) : a.pool = b.pool := by
  obtain ⟨-, -, -, -, -, -, h1, h2, h3, h4, h5, h6⟩ := h
  generalize a.pool = p at *
  generalize b.pool = q at *
  cases p
  cases q
  simp_all

/-- t differs from s in the pool unit and the port alone, as far as FoldAlike reads. -/
structure PoolOnly (s t : State) : Prop where
  clock : t.clock = s.clock
  window : t.window = s.window
  adjust : t.adjust = s.adjust
  ctl : t.ctl = s.ctl
  roster : t.roster = s.roster

theorem FoldAlike.ofPool {a b c d : State} (h : FoldAlike a b) (hc : PoolOnly a c) (hd : PoolOnly b d)
    (table : c.pool.table = d.pool.table) (foldPoint : c.pool.foldPoint = d.pool.foldPoint)
    (history : c.pool.history = d.pool.history) (gaps : c.pool.gaps = d.pool.gaps) (clean : c.pool.clean = d.pool.clean)
    (agreement : c.pool.agreement = d.pool.agreement) : FoldAlike c d where
  cur := by rw [hc.clock, hd.clock, h.cur]
  window := by rw [hc.window, hd.window, h.window]
  adjust := by rw [hc.adjust, hd.adjust, h.adjust]
  profile := by rw [hc.ctl, hd.ctl, h.profile]
  straps := by rw [hc.ctl, hd.ctl, h.straps]
  entries := by rw [hc.roster, hd.roster, h.entries]
  table := table
  foldPoint := foldPoint
  history := history
  gaps := gaps
  clean := clean
  agreement := agreement

theorem FoldAlike.raise {a b : State} (h : FoldAlike a b) (x y : Block) (k l : EventKind) (u w : Option Station)
    (v z : BitVec 16) : FoldAlike (a.raise x k u v) (b.raise y l w z) :=
  ⟨h.cur, h.window, h.adjust, h.profile, h.straps, h.entries, h.table, h.foldPoint, h.history, h.gaps, h.clean, h.agreement⟩

/-- States alike hold the same record of an epoch. -/
theorem FoldAlike.record {a b : State} (h : FoldAlike a b) (e : Epoch) : a.record e = b.record e := by
  rw [State.record, State.record, h.window]

theorem FoldAlike.entry {a b : State} (h : FoldAlike a b) (n : Station) : a.entry n = b.entry n := by
  rw [State.entry, State.entry, h.entries]

/-! ### Additions and items -/

theorem State.addBalance_table (s : State) (p : Fin 8) (v : BitVec 32) :
    (s.addBalance p v).pool.table = s.pool.table.set p ((s.pool.table.get p).stepped (.add v)) :=
  Tbl.ext_get (fun q => by rw [State.addBalance_entry, Tbl.get_set])

theorem State.addBalance_keeps (s : State) (p : Fin 8) (v : BitVec 32) : FoldKeeps s (s.addBalance p v) := by
  constructor
  case lastSerial => simp
  all_goals rw [State.addBalance_pool]
  exact .inl rfl

theorem FoldAlike.addBalance {a b : State} (h : FoldAlike a b) (p : Fin 8) (v : BitVec 32) :
    FoldAlike (a.addBalance p v) (b.addBalance p v) := by
  apply h.ofPool (by constructor <;> simp) (by constructor <;> simp)
  case table => rw [State.addBalance_table, State.addBalance_table, h.table]
  all_goals rw [State.addBalance_pool, State.addBalance_pool b]
  · exact h.foldPoint
  · exact h.history
  · exact h.gaps
  · exact h.clean
  · exact h.agreement

theorem State.addEach_keeps_fold (l : List (BitVec 32)) (s : State) (i : Nat) : FoldKeeps s (s.addEach i l) := by
  induction l generalizing s i with
  | nil => exact .refl s
  | cons v t ih =>
    rw [State.addEach]
    refine FoldKeeps.trans ?_ (ih _ _)
    split
    · exact s.addBalance_keeps _ v
    · exact .refl s

theorem FoldAlike.addEach (l : List (BitVec 32)) {a b : State} (h : FoldAlike a b) (i : Nat) :
    FoldAlike (a.addEach i l) (b.addEach i l) := by
  induction l generalizing a b i with
  | nil => exact h
  | cons v t ih =>
    rw [State.addEach, State.addEach]
    apply ih
    split
    · exact h.addBalance _ v
    · exact h

theorem State.applyItem_keeps (s : State) (i : AdjItem) : FoldKeeps s (s.applyItem i) := by
  unfold State.applyItem
  split
  · split
    · exact ⟨rfl, rfl, rfl, rfl, rfl, rfl, rfl, .inl rfl⟩
    · exact s.addBalance_keeps _ _
  · exact .refl s

theorem FoldAlike.applyItem {a b : State} (h : FoldAlike a b) (i : AdjItem) : FoldAlike (a.applyItem i) (b.applyItem i) := by
  unfold State.applyItem
  split
  · split
    · exact h.ofPool ⟨rfl, rfl, rfl, rfl, rfl⟩ ⟨rfl, rfl, rfl, rfl, rfl⟩ (by simp only [h.table]) h.foldPoint h.history
        h.gaps h.clean h.agreement
    · exact h.addBalance _ _
  · exact h

theorem State.applyItems_keeps (s : State) (a : Adjustment) : FoldKeeps s (s.applyItems a) :=
  FoldKeeps.foldl _ State.applyItem_keeps _ s

theorem FoldAlike.applyItems {a b : State} (h : FoldAlike a b) (x : Adjustment) :
    FoldAlike (a.applyItems x) (b.applyItems x) := FoldAlike.foldl _ (fun _ _ i k => k.applyItem i) _ h

theorem State.applyDue_keeps (s : State) (a : Adjustment) : FoldKeeps s (s.applyDue a) :=
  (s.applyItems_keeps a).trans (.of_same rfl rfl)

theorem FoldAlike.applyDue {a b : State} (h : FoldAlike a b) (x : Adjustment) : FoldAlike (a.applyDue x) (b.applyDue x) :=
  (h.applyItems x).raise _ _ _ _ _ _ _ _

theorem FoldAlike.replayRecord {a b : State} (h : FoldAlike a b) (r : Record) :
    FoldAlike (a.replayRecord r) (b.replayRecord r) :=
  FoldAlike.foldl _ (fun _ _ i k => k.applyItems i) _ (FoldAlike.addEach _ h 0)

theorem State.replayRecord_keeps (s : State) (r : Record) : FoldKeeps s (s.replayRecord r) :=
  (State.addEach_keeps_fold _ s 0).trans (FoldKeeps.foldl _ State.applyItems_keeps _ _)

/-! ### Gaps -/

/-- Losing the clean flag moves AGREED to UNCERTAIN and no other agreement state (R86, R87, R108). -/
theorem State.loseClean_pool (s : State) : s.loseClean.pool = { s.pool with
    clean := false, agreement := if s.pool.agreement = .agreed then .uncertain else s.pool.agreement } := by
  unfold State.loseClean State.setAgreement State.setAgreementFor
  by_cases h : s.pool.agreement = .agreed
  · simp [h]
  · simp [h]

theorem State.loseClean_keeps (s : State) : FoldKeeps s s.loseClean := by
  constructor
  case lastSerial => simp
  case agreement =>
    rw [State.loseClean_pool]
    by_cases h : s.pool.agreement = .agreed
    · exact .inr ⟨h, if_pos h⟩
    · exact .inl (if_neg h)
  all_goals rw [State.loseClean_pool]

theorem FoldAlike.loseClean {a b : State} (h : FoldAlike a b) : FoldAlike a.loseClean b.loseClean := by
  apply h.ofPool (by constructor <;> simp) (by constructor <;> simp)
  all_goals rw [State.loseClean_pool, State.loseClean_pool]
  · exact h.table
  · exact h.foldPoint
  · exact h.history
  · exact h.gaps
  · simp only [h.agreement]

theorem FoldAlike.gapsOf {a b : State} (h : FoldAlike a b) (r : Record) : a.gapsOf r = b.gapsOf r := by
  simp only [State.gapsOf, h.entry]

/-- The pool unit with other gaps. -/
theorem State.setGaps_keeps (s : State) (g : List Gap) : FoldKeeps s { s with pool := { s.pool with gaps := g } } :=
  ⟨rfl, rfl, rfl, rfl, rfl, rfl, rfl, .inl rfl⟩

theorem FoldAlike.setGaps {a b : State} (h : FoldAlike a b) {g k : List Gap} (hg : g = k) :
    FoldAlike { a with pool := { a.pool with gaps := g } } { b with pool := { b.pool with gaps := k } } :=
  h.ofPool ⟨rfl, rfl, rfl, rfl, rfl⟩ ⟨rfl, rfl, rfl, rfl, rfl⟩ h.table h.foldPoint h.history hg h.clean h.agreement

theorem State.openGaps_keeps (s : State) (r : Record) : FoldKeeps s (s.openGaps r) := by
  unfold State.openGaps
  dsimp only
  split
  · exact s.setGaps_keeps _
  · refine FoldKeeps.trans ?_ (State.loseClean_keeps _)
    refine (s.setGaps_keeps (enterGaps s.pool.gaps 0 (s.gapsOf r)).1).trans ?_
    exact .of_same rfl rfl

theorem FoldAlike.openGaps {a b : State} (h : FoldAlike a b) (r : Record) : FoldAlike (a.openGaps r) (b.openGaps r) := by
  unfold State.openGaps
  rw [h.gaps, h.gapsOf r]
  dsimp only
  split
  · exact h.setGaps rfl
  · exact ((h.setGaps rfl).raise _ _ _ _ _ _ _ _).loseClean

theorem State.expireGaps_keeps (s : State) (e : Epoch) : FoldKeeps s (s.expireGaps e) := by
  unfold State.expireGaps
  dsimp only
  split
  · exact .refl s
  · refine FoldKeeps.trans ?_ (State.loseClean_keeps _)
    refine (s.setGaps_keeps (s.pool.gaps.filter (fun g => g.epoch != e))).trans ?_
    exact FoldKeeps.foldl (fun (s : State) (g : Gap) => s.raise .pool .gapExpired (some g.station) g.epoch)
      (fun s g => .of_same rfl rfl) _ _

theorem FoldAlike.expireGaps {a b : State} (h : FoldAlike a b) (e : Epoch) : FoldAlike (a.expireGaps e) (b.expireGaps e) := by
  unfold State.expireGaps
  rw [h.gaps]
  dsimp only
  split
  · exact h
  · exact (FoldAlike.foldl _ (fun _ _ _ k => k.raise _ _ _ _ _ _ _ _) _ (h.setGaps rfl)).loseClean

/-! ### Folds -/

theorem FoldAlike.changeRecord {a b : State} (h : FoldAlike a b) (e : Epoch) (f : Record → Record) :
    FoldAlike (a.changeRecord e f) (b.changeRecord e f) :=
  ⟨h.cur, by simp only [State.changeRecord, h.window], h.adjust, h.profile, h.straps, h.entries, h.table, h.foldPoint,
    h.history, h.gaps, h.clean, h.agreement⟩

theorem State.applyDueAt_keeps (s : State) (e : Epoch) : FoldKeeps s (s.applyDueAt e) := by
  have start : FoldKeeps s { s with adjust := { s.adjust with
      queue := s.adjust.queue.filter (fun a => a.effective != e) } } := .of_same rfl rfl
  exact (start.trans (FoldKeeps.foldl State.applyDue State.applyDue_keeps _ _)).keep rfl rfl

theorem FoldAlike.applyDueAt {a b : State} (h : FoldAlike a b) (e : Epoch) : FoldAlike (a.applyDueAt e) (b.applyDueAt e) := by
  unfold State.applyDueAt
  rw [h.adjust]
  refine (FoldAlike.foldl _ (fun _ _ x k => k.applyDue x) _ ?_).changeRecord _ _
  exact ⟨h.cur, h.window, rfl, h.profile, h.straps, h.entries, h.table, h.foldPoint, h.history, h.gaps, h.clean, h.agreement⟩

theorem State.foldRecord_keeps (s : State) (r : Record) : FoldKeeps s (s.foldRecord r) := by
  have due := ((State.addEach_keeps_fold r.sums s 0).trans (State.openGaps_keeps _ r)).trans
    (State.applyDueAt_keeps _ r.epoch)
  exact due.keep rfl rfl

theorem FoldAlike.foldRecord {a b : State} (h : FoldAlike a b) (r : Record) :
    FoldAlike (a.foldRecord r) (b.foldRecord r) :=
  (((FoldAlike.addEach _ h 0).openGaps r).applyDueAt _).changeRecord _ _

theorem State.lateFold_keeps (s : State) (skip : Option Epoch) : FoldKeeps s (s.lateFold skip) := by
  have late := FoldKeeps.foldl (fun (s : State) (r : Record) => s.addEach 0 r.late)
    (fun s r => State.addEach_keeps_fold r.late s 0)
    (s.window.records.filter (fun r => r.state == .folded && some r.epoch != skip)).reverse s
  exact late.keep rfl rfl

theorem FoldAlike.lateFold {a b : State} (h : FoldAlike a b) (skip : Option Epoch) :
    FoldAlike (a.lateFold skip) (b.lateFold skip) := by
  have late := FoldAlike.foldl (fun s (r : Record) => s.addEach 0 r.late) (fun _ _ r k => FoldAlike.addEach r.late k 0)
    (b.window.records.filter (fun r => r.state == .folded && some r.epoch != skip)).reverse h
  unfold State.lateFold
  rw [h.window]
  exact ⟨late.cur, by simp only [late.window], late.adjust, late.profile, late.straps, late.entries, late.table,
    late.foldPoint, late.history, late.gaps, late.clean, late.agreement⟩

theorem State.recordDigest_keeps (s : State) (e : Epoch) : FoldKeeps s (s.recordDigest e) :=
  ⟨rfl, rfl, rfl, rfl, rfl, rfl, rfl, .inl rfl⟩

theorem FoldAlike.recordDigest {a b : State} (h : FoldAlike a b) (e : Epoch) :
    FoldAlike (a.recordDigest e) (b.recordDigest e) :=
  h.ofPool ⟨rfl, rfl, rfl, rfl, rfl⟩ ⟨rfl, rfl, rfl, rfl, rfl⟩ h.table rfl
    (by simp only [State.recordDigest, State.digestAt, State.balances, h.history, h.gaps, h.table, h.profile]) h.gaps h.clean
    h.agreement

theorem State.foldAtMark_keeps (s : State) : FoldKeeps s s.foldAtMark := by
  unfold State.foldAtMark
  dsimp only
  split
  · split
    · exact s.lateFold_keeps _
    · exact ((s.foldRecord_keeps _).trans (State.lateFold_keeps _ _)).trans (State.recordDigest_keeps _ _)
  · exact s.lateFold_keeps _

theorem FoldAlike.foldAtMark {a b : State} (h : FoldAlike a b) : FoldAlike a.foldAtMark b.foldAtMark := by
  unfold State.foldAtMark
  rw [h.cur, h.profile]
  dsimp only
  rw [h.record]
  split
  · split
    · exact h.lateFold _
    · exact ((h.foldRecord _).lateFold _).recordDigest _
  · exact h.lateFold _

theorem State.age_keeps (s : State) : FoldKeeps s s.age := by
  unfold State.age
  split
  · exact .refl s
  · split
    · exact .refl s
    · refine FoldKeeps.trans ?_ (State.expireGaps_keeps _ _)
      exact .of_same rfl rfl

theorem FoldAlike.age {a b : State} (h : FoldAlike a b) : FoldAlike a.age b.age := by
  unfold State.age State.oldest
  rw [h.window]
  split
  · exact h
  · split
    · exact h
    · apply FoldAlike.expireGaps
      exact ⟨h.cur, rfl, h.adjust, h.profile, h.straps, h.entries, h.table, h.foldPoint, h.history, h.gaps, h.clean,
        h.agreement⟩

/-! ### The window's response to a mark -/

theorem State.windowMark_keeps (s : State) (b : Bool) : FoldKeeps s (s.windowMark b) := by
  exact (s.foldAtMark_keeps.trans (State.age_keeps _)).keep rfl rfl

theorem FoldAlike.windowMark {a b : State} (h : FoldAlike a b) (i : Bool) : FoldAlike (a.windowMark i) (b.windowMark i) := by
  have k := h.foldAtMark.age
  refine ⟨k.cur, ?_, k.adjust, k.profile, k.straps, k.entries, k.table, k.foldPoint, k.history, k.gaps, k.clean, k.agreement⟩
  have expected : a.foldAtMark.age.expectedNow i = b.foldAtMark.age.expectedNow i := by
    simp only [State.expectedNow, State.own, k.entry, k.straps]
  simp only [State.windowMark, State.createRecord, expected, k.cur, k.profile, k.window]

end Sys2Proof.Machine
end


section
/-! What an install, a capture and the drive rules do at a mark. -/

namespace Sys2Proof.Machine

/-! ### The pool unit -/

theorem State.setAgreementFor_pool (s : State) (u : Option Station) (a : Agreement) :
    (s.setAgreementFor u a).pool = { s.pool with agreement := a } := by
  unfold State.setAgreementFor
  split
  · rename_i h; rw [← h]
  · rfl

theorem State.setAgreement_pool (s : State) (a : Agreement) : (s.setAgreement a).pool = { s.pool with agreement := a } :=
  s.setAgreementFor_pool _ a

@[simp] theorem State.agree_pool (s : State) (a : Agreement) : (s.agree a).pool = { s.pool with agreement := a } := by
  rw [State.agree, (State.refreshDrives_frame _).2.2.2.2.2.2.2.1, State.setAgreement_pool]

/-- An install's outcome in the pool unit is decided by what FoldAlike names, and by the count it leaves alone (R99). -/
theorem FoldAlike.install_pool {a b : State} (h : FoldAlike a b) (hu : a.pool.uncleanSelf = b.pool.uncleanSelf)
    (x : HeldSnapshot) : (a.install x).pool = (b.install x).pool := by
  have hset : FoldAlike
      { a with pool := { a.pool with table := setBalances a.pool.table 0 (x.balances.take a.ctl.profile.pools) } }
      { b with pool := { b.pool with table := setBalances b.pool.table 0 (x.balances.take b.ctl.profile.pools) } } :=
    h.ofPool ⟨rfl, rfl, rfl, rfl, rfl⟩ ⟨rfl, rfl, rfl, rfl, rfl⟩ (by simp only [h.table, h.profile]) h.foldPoint h.history
      h.gaps h.clean h.agreement
  have hrep : a.replayed x.point = b.replayed x.point := by rw [State.replayed, State.replayed, h.window]
  have hr := FoldAlike.foldl State.replayRecord (fun _ _ r k => k.replayRecord r) (b.replayed x.point) hset
  have hua := (FoldKeeps.foldl State.replayRecord State.replayRecord_keeps (b.replayed x.point)
    { a with pool := { a.pool with table := setBalances a.pool.table 0 (x.balances.take a.ctl.profile.pools) } }).uncleanSelf
  have hub := (FoldKeeps.foldl State.replayRecord State.replayRecord_keeps (b.replayed x.point)
    { b with pool := { b.pool with table := setBalances b.pool.table 0 (x.balances.take b.ctl.profile.pools) } }).uncleanSelf
  unfold State.install
  rw [hrep]
  dsimp only at hua hub ⊢
  generalize List.foldl State.replayRecord
    { a with pool := { a.pool with table := setBalances a.pool.table 0 (x.balances.take a.ctl.profile.pools) } }
    (b.replayed x.point) = ra at *
  generalize List.foldl State.replayRecord
    { b with pool := { b.pool with table := setBalances b.pool.table 0 (x.balances.take b.ctl.profile.pools) } }
    (b.replayed x.point) = rb at *
  rw [hr.foldPoint]
  cases hp : rb.pool.foldPoint <;>
    simp only [State.setAgreement_pool, State.recordDigest, State.digestAt, State.balances, hr.table, hr.gaps, hr.profile,
      hua, hub, hu]

/-- A mark's counts write nothing of what FoldAlike names (R94, R95). -/
theorem State.countMark_alike (s : State) : FoldAlike s.countMark s := by
  unfold State.countMark
  split
  · exact ⟨rfl, rfl, rfl, rfl, rfl, rfl, rfl, rfl, rfl, rfl, rfl, rfl⟩
  · split
    · split <;> exact ⟨rfl, rfl, rfl, rfl, rfl, rfl, rfl, rfl, rfl, rfl, rfl, rfl⟩
    · exact .refl s

theorem State.countMark_counts (s : State) : s.countMark.pool.held = s.pool.held ∧
    s.countMark.pool.holdBack = s.pool.holdBack - 1 ∧ s.countMark.pool.noComparison = s.pool.noComparison ∧
    s.countMark.pool.uncleanSelf = s.pool.uncleanSelf := by
  unfold State.countMark
  split
  · exact ⟨rfl, rfl, rfl, rfl⟩
  · have hz : s.pool.holdBack = s.pool.holdBack - 1 := by omega
    split
    · split <;> exact ⟨rfl, hz, rfl, rfl⟩
    · exact ⟨rfl, hz, rfl, rfl⟩

/-- Elsewhere than in RESYNCING at hold-back count 0 with no snapshot held, only the hold-back count falls (R94, R95). -/
theorem State.countMark_pool (s : State)
    (h : s.pool.agreement ≠ .resyncing ∨ 0 < s.pool.holdBack ∨ s.pool.held ≠ none) :
    s.countMark.pool = { s.pool with holdBack := s.pool.holdBack - 1 } := by
  unfold State.countMark
  split
  · rfl
  · rename_i hb
    rw [if_neg (by rintro ⟨ha, hh⟩; rcases h with h | h | h <;> contradiction)]
    have hz : s.pool.holdBack - 1 = s.pool.holdBack := by omega
    rw [hz]

theorem State.countMark_waits (s : State) (ha : s.pool.agreement = .resyncing) (hb : s.pool.holdBack = 0)
    (hh : s.pool.held = none) :
    s.countMark.pool.wait = (if s.pool.wait < 2 then s.pool.wait + 1 else 0) ∧
    s.countMark.pool.target = (if s.pool.wait < 2 then s.pool.target else s.roster.reference) := by
  unfold State.countMark
  rw [if_neg (by omega), if_pos ⟨ha, hh⟩]
  by_cases hw : s.pool.wait < 2
  · rw [if_neg (by omega), if_pos hw, if_pos hw]; exact ⟨rfl, rfl⟩
  · rw [if_pos (by omega), if_neg hw, if_neg hw]; exact ⟨rfl, rfl⟩

/-! ### The capture -/

/-- The carries after a capture: of the pools in use what the clamped delta leaves, of the others what stood (R54). -/
theorem State.captureCarry_get (s : State) (p : Fin 8) : s.captureCarry.get p =
    if p.val < s.ctl.profile.pools then (clampDelta (s.captureTotal p)).2 else s.builder.carry.get p := by
  unfold State.captureCarry
  induction s.ctl.profile.pools with
  | zero => simp
  | succ n ih =>
    rw [List.range_succ, List.foldl_append, List.foldl_cons, List.foldl_nil]
    by_cases hn : n < 8
    · rw [dif_pos hn, Tbl.get_set]
      by_cases hp : p = ⟨n, hn⟩
      · subst hp; simp
      · have hne : p.val ≠ n := fun e => hp (Fin.ext e)
        rw [if_neg hp, ih]
        simp only [show p.val < n + 1 ↔ p.val < n by omega]
    · rw [dif_neg hn, ih]
      have hp := p.isLt
      rw [if_pos (by omega), if_pos (by omega)]

/-- The entry that a capture pushes out of a full outbox is withdrawn if it is untransmitted (R55). -/
theorem makeRoom_carry (b : Builder) (p : Fin 8) :
    (makeRoom b).carry.get p = b.carry.get p + displacedDelta b.outbox p := by
  unfold makeRoom displacedDelta
  split
  · simp
  · cases hb : b.outbox with
    | nil => simp
    | cons e t =>
      dsimp only
      split
      · simp
      · rw [addDeltas_get]; simp

theorem State.capture_builder (s : State) (d : Bool) : (s.capture d).builder =
    placeReport { s.builder with carry := s.captureCarry } (s.clock.cur - 1) s.captureDeltas d := by
  simp only [State.capture]
  split
  · rfl
  · rw [(State.offerKey_frame _ _).2.2.2.2.1]

theorem State.capture_carry (s : State) (d : Bool) (p : Fin 8) : (s.capture d).builder.carry.get p =
    (if p.val < s.ctl.profile.pools then (clampDelta (s.captureTotal p)).2 else s.builder.carry.get p) +
      displacedDelta s.builder.outbox p := by
  rw [State.capture_builder]
  simp only [placeReport]
  rw [makeRoom_carry, State.captureCarry_get]

/-- After a capture at an implied mark no entry is designated (R57). -/
theorem State.capture_undesignated (s : State) : ∀ e ∈ (s.capture false).builder.outbox, e.designated = false := by
  rw [State.capture_builder]
  intro e he
  simp only [placeReport, List.mem_append, List.mem_map, List.mem_singleton] at he
  rcases he with ⟨x, -, rfl⟩ | rfl <;> rfl

/-! ### The drives -/

/-- Evaluation moves each enabled drive's rule state once (R155, R156). -/
theorem State.evaluateDrives_rule (s : State) (i : Fin 4) : (s.evaluateDrives.drives.drives.get i).rule =
    match (s.ctl.profile.drives.get i).pool with
    | none => (s.drives.drives.get i).rule
    | some p => (s.drives.drives.get i).rule.next (s.ctl.profile.drives.get i) (s.pool.table.get p).balance.toInt := by
  have one : ∀ (x : State) (j : Fin 4), ((x.evaluateDrive j).drives.drives.get i).rule =
      if i = j then
        match (x.ctl.profile.drives.get i).pool with
        | none => (x.drives.drives.get i).rule
        | some p => (x.drives.drives.get i).rule.next (x.ctl.profile.drives.get i) (x.pool.table.get p).balance.toInt
      else (x.drives.drives.get i).rule := by
    intro x j
    cases hp : (x.ctl.profile.drives.get j).pool with
    | none =>
      rw [x.evaluateDrive_disabled j hp]
      by_cases h : i = j
      · subst h; simp [hp]
      · rw [if_neg h]
    | some p =>
      rw [x.evaluateDrive_get j i p hp]
      by_cases h : i = j
      · subst h; simp [hp]
      · rw [if_neg h, if_neg h]
  simp only [State.evaluateDrives, indexes4, List.foldl_cons, List.foldl_nil, one, State.evaluateDrive_frame]
  rcases fin4_cases i with rfl | rfl | rfl | rfl <;> simp

theorem State.evaluateDrives_mode (s : State) (i : Fin 4) :
    (s.evaluateDrives.drives.drives.get i).mode = (s.drives.drives.get i).mode := by
  simp only [State.evaluateDrives, indexes4, List.foldl_cons, List.foldl_nil, (State.evaluateDrive_rest _ _ _).1]

theorem State.refreshDrivesFor_rule (s : State) (ag : Agreement) (i : Fin 4) :
    ((s.refreshDrivesFor ag).drives.drives.get i).rule = (s.drives.drives.get i).rule ∧
    ((s.refreshDrivesFor ag).drives.drives.get i).mode = (s.drives.drives.get i).mode := by
  rw [State.refreshDrivesFor_get]; exact Drive.refreshed_rule _ _ _ _

theorem State.refreshDrives_rule (s : State) (i : Fin 4) :
    (s.refreshDrives.drives.drives.get i).rule = (s.drives.drives.get i).rule ∧
    (s.refreshDrives.drives.drives.get i).mode = (s.drives.drives.get i).mode := s.refreshDrivesFor_rule _ i

theorem State.agree_rule (s : State) (a : Agreement) (i : Fin 4) :
    ((s.agree a).drives.drives.get i).rule = (s.drives.drives.get i).rule ∧
    ((s.agree a).drives.drives.get i).mode = (s.drives.drives.get i).mode := by
  rw [State.agree]
  simpa using (s.setAgreement a).refreshDrives_rule i

/-- The drive unit at a mark in RUN: every enabled rule moves once, the modes stand, and the pins follow (R155, R158). -/
theorem State.driveMark_drives (s : State) (ag : Agreement) :
    RulesMoved s (s.driveMark ag) ∧ PinsFollow (s.driveMark ag) ∧
    ∀ i : Fin 4, ((s.driveMark ag).drives.drives.get i).mode = (s.drives.drives.get i).mode := by
  have rules : ∀ i : Fin 4, ((s.driveMark ag).drives.drives.get i).rule = (s.evaluateDrives.drives.drives.get i).rule ∧
      ((s.driveMark ag).drives.drives.get i).mode = (s.drives.drives.get i).mode := by
    intro i
    unfold State.driveMark
    split
    · simp [State.refreshDrives_rule, State.refreshDrivesFor_rule, State.evaluateDrives_rule, State.evaluateDrives_mode]
    · split <;> simp [State.refreshDrives_rule, State.evaluateDrives_rule, State.evaluateDrives_mode]
  refine ⟨fun i => ?_, ?_, fun i => (rules i).2⟩
  · rw [(rules i).1, State.evaluateDrives_rule]
    simp only [State.driveMark_frame]
    cases (s.ctl.profile.drives.get i).pool <;> simp
  · unfold State.driveMark
    split
    · exact State.refreshDrives_follow _
    · split <;> exact State.refreshDrives_follow _

end Sys2Proof.Machine
end


section
/-! What a mark of R64 does, in RUN, taking a joiner into RUN, and in JOINING (R64, R99, R127, R132). -/

namespace Sys2Proof.Machine

/-! ### Conflicts and the discarded count -/

theorem State.conflictFreeMark_counts (s : State) : ConflictFree s s.conflictFreeMark := by
  unfold State.conflictFreeMark
  by_cases hc : s.roster.conflicts = 0
  · simp [ConflictFree, hc]
  · by_cases hf : s.roster.conflictFree < 7
    · rw [if_neg hc, if_neg (by omega)]
      simp [ConflictFree, hc, hf]
    · rw [if_neg hc, if_pos (by omega)]
      simp [ConflictFree, hc, hf]

theorem State.takeMark_roster (s : State) (d : Bool) : (s.takeMark d).roster = s.reportDiscarded.conflictFreeMark.roster := by
  by_cases hr : s.ctl.life = .run
  · rw [s.takeMark_run d hr]; simp
  · by_cases hi : s.installing = true
    · rw [s.takeMark_enters d hi]; simp
    · rw [s.takeMark_stays d hr (by simpa using hi)]
      split <;> simp

theorem State.reportDiscarded_conflictFree (s : State) : ConflictFree s s.reportDiscarded.conflictFreeMark := by
  have h := s.reportDiscarded.conflictFreeMark_counts
  simpa [ConflictFree] using h

/-- A mark counts toward the end of conflicts (R50). -/
theorem State.takeMark_conflictFree (s : State) (d : Bool) : ConflictFree s (s.takeMark d) := by
  have h := s.reportDiscarded_conflictFree
  simpa only [ConflictFree, State.takeMark_roster] using h

/-- A discarded count above 0 is reported (R24). -/
theorem State.reportDiscarded_mem (s : State) (h : 0 < s.line.discarded) :
    (Block.line, { kind := .lineError, epoch := s.clock.cur, subject := none
                   value := BitVec.ofNat 16 s.line.discarded }) ∈ s.reportDiscarded.port.arising := by
  unfold State.reportDiscarded
  rw [if_neg (by omega)]
  simp

theorem State.takeMark_lineError (s : State) (d : Bool) (h : 0 < s.line.discarded) :
    (Block.line, { kind := .lineError, epoch := s.clock.cur, subject := none
                   value := BitVec.ofNat 16 s.line.discarded }) ∈ (s.takeMark d).port.arising :=
  (s.takeMark_raised_after d).mem (by simpa using s.reportDiscarded_mem h)

/-! ### The pool unit and the window -/

/-- Ageing expires gaps and leaves table, fold point and history (R64, R73, R87). -/
theorem State.age_balances (s : State) : s.age.pool.table = s.pool.table ∧ s.age.pool.foldPoint = s.pool.foldPoint ∧
    s.age.pool.history = s.pool.history := by
  have raised : ∀ (l : List Gap) (x : State),
      (l.foldl (fun s g => s.raise .pool .gapExpired (some g.station) g.epoch) x).pool = x.pool :=
    fun l x => foldl_keeps State.pool (fun (s : State) (g : Gap) => s.raise .pool .gapExpired (some g.station) g.epoch)
      (fun _ _ => rfl) l x
  unfold State.age
  split
  · exact ⟨rfl, rfl, rfl⟩
  · split
    · exact ⟨rfl, rfl, rfl⟩
    · unfold State.expireGaps
      dsimp only
      split
      · exact ⟨rfl, rfl, rfl⟩
      · rw [State.loseClean_pool, raised]
        exact ⟨rfl, rfl, rfl⟩

/-- A state alike to the one after the window's response has the pool unit of the fold and the ageing. -/
theorem FoldedFrom.of_alike {m t : State} {b : Bool} (h : FoldAlike t (m.windowMark b))
    (hb : t.pool.holdBack = m.pool.holdBack - 1) : FoldedFrom m t := by
  obtain ⟨ht, hf, hh⟩ := m.foldAtMark.age_balances
  refine ⟨h.table.trans ht, h.foldPoint.trans hf, h.history.trans hh, ?_, h.gaps, h.clean, h.agreement, hb⟩
  rw [h.adjust]
  exact congrArg Adjuster.queue (State.age_frame _).2.2.2.2.2.2.1

theorem FoldedFrom.congr {m t u : State} (h : FoldedFrom m t) (hp : u.pool = t.pool)
    (ha : u.adjust.queue = t.adjust.queue) : FoldedFrom m u := by
  rw [FoldedFrom, hp, ha]; exact h

theorem PoolAtMark.congr {m t u : State} (h : PoolAtMark m t) (hp : u.pool = t.pool)
    (ha : u.adjust.queue = t.adjust.queue) : PoolAtMark m u := by
  rw [PoolAtMark]
  simp only [FoldedFrom, InstalledAtMark, DiscardedAtMark, hp, ha]
  exact h

/-- An install leaves the station clean and AGREED, with no snapshot held and no target (R99). -/
theorem State.install_settled (s : State) (h : HeldSnapshot) : (s.install h).pool.agreement = .agreed ∧
    (s.install h).pool.clean = true ∧ (s.install h).pool.held = none ∧ (s.install h).pool.target = none := by
  unfold State.install
  dsimp only
  split
  · rw [State.setAgreement_pool]; exact ⟨rfl, rfl, rfl, rfl⟩
  · rw [State.setAgreement_pool]; exact ⟨rfl, rfl, rfl, rfl⟩

/-- The counts of a mark change nothing of what an install comes to (R94, R95, R99). -/
theorem State.countMark_install (s : State) (h : HeldSnapshot) : (s.countMark.install h).pool = (s.install h).pool ∧
    (s.countMark.install h).window = (s.install h).window := by
  refine ⟨s.countMark_alike.install_pool s.countMark_counts.2.2.2 h, ?_⟩
  rw [State.install_window, State.install_window, s.countMark_alike.window]

theorem State.installHeld_none (s : State) (b : Bool) (h : s.pool.held = none) : s.installHeld b = s := by
  simp [State.installHeld, h]

theorem State.installHeld_some (s : State) (b : Bool) {h : HeldSnapshot} (hh : s.pool.held = some h)
    (hr : s.ctl.life = .run) : s.installHeld b =
      if b || installTest h.point s.oldest s.pool.foldPoint then s.install h else s.dropHeld := by
  simp [State.installHeld, hh, hr]

/-- The pool unit and the window after the window's response, the counts and a held snapshot's test at a mark in RUN that
m stands at (R64, R94, R95, R99). -/
theorem State.responses_run (m : State) (hr : m.ctl.life = .run) :
    PoolAtMark m ((m.windowMark true).countMark.installHeld false) ∧
    ((m.windowMark true).countMark.installHeld false).window = m.windowInRun := by
  have keeps := m.windowMark_keeps true
  obtain ⟨hheld, hback, -, -⟩ := (m.windowMark true).countMark_counts
  rw [keeps.held] at hheld
  rw [keeps.holdBack] at hback
  cases hh : m.pool.held with
  | none =>
    rw [State.installHeld_none _ _ (hheld.trans hh)]
    refine ⟨⟨fun _ => ⟨.of_alike (State.countMark_alike _) hback, hheld.trans hh, ?_, ?_⟩, fun h k => ?_⟩, ?_⟩
    · rintro ⟨ha, hb⟩
      have h := (m.windowMark true).countMark_waits (keeps.resyncing_iff.mpr ha) (keeps.holdBack.trans hb) (keeps.held.trans hh)
      rw [keeps.wait, keeps.target] at h
      simpa using h
    · intro h
      rw [State.countMark_pool]
      · exact ⟨keeps.wait, keeps.target⟩
      · rw [Ne, keeps.resyncing_iff, keeps.holdBack]
        exact h.imp id .inl
    · rw [hh] at k; cases k
    · rw [State.windowInRun, hh]; simp
  | some h =>
    have hpool : (m.windowMark true).countMark.pool =
        { (m.windowMark true).pool with holdBack := m.pool.holdBack - 1 } := by
      rw [State.countMark_pool _ (.inr (.inr (by rw [keeps.held, hh]; simp))), keeps.holdBack]
    rw [State.installHeld_some _ _ (hheld.trans hh) (by simp [hr])]
    have hold : (m.windowMark true).countMark.oldest = (m.windowMark true).oldest := by
      rw [State.oldest, State.oldest, (State.countMark_alike _).window]
    rw [hold, (State.countMark_alike _).foldPoint, Bool.false_or]
    by_cases ht : installTest h.point (m.windowMark true).oldest (m.windowMark true).pool.foldPoint = true
    · obtain ⟨hp, hw⟩ := (m.windowMark true).countMark_install h
      rw [if_pos ht]
      refine ⟨⟨fun k => absurd (hh.symm.trans k) (by simp), fun x hx => ?_⟩, ?_⟩
      · obtain rfl := Option.some.inj (hh.symm.trans hx)
        refine ⟨fun _ => ⟨hp, ?_, State.install_settled _ _⟩, fun hf => by rw [ht] at hf; cases hf⟩
        simp
      · rw [State.windowInRun, hh, hw]
        simp [ht]
    · rw [if_neg ht]
      refine ⟨⟨fun k => absurd (hh.symm.trans k) (by simp), fun x hx => ?_⟩, ?_⟩
      · obtain rfl := Option.some.inj (hh.symm.trans hx)
        refine ⟨fun k => absurd k ht, fun _ => ⟨?_, by simp⟩⟩
        rw [State.dropHeld_pool, hpool]
      · rw [State.windowInRun, hh]
        simp [ht]

/-! ### The capture and the drives -/

/-- The capture and the drives at a mark, where builder, channels, profile and drives are a's. -/
theorem CapturedAtMark.of_responses {a x : State} (d i : Bool) (ag : Agreement) (hc : x.clock.cur = a.clock.cur)
    (hb : x.builder = a.builder) (hh : x.channels = a.channels) (hp : x.ctl.profile = a.ctl.profile)
    (hd : x.drives = a.drives) :
    CapturedAtMark a (((x.capture d).controllerMark i).driveMark ag) a.clock.cur d := by
  obtain ⟨rules, pins, modes⟩ := ((x.capture d).controllerMark i).driveMark_drives ag
  have hprofile : ((x.capture d).controllerMark i).ctl.profile = x.ctl.profile := by
    unfold State.controllerMark
    split
    · simp
    · split <;> simp
  have hdrives : ((x.capture d).controllerMark i).drives = a.drives := by simp [hd]
  have htotal : ∀ p, x.captureTotal p = a.captureTotal p := by
    intro p; simp only [State.captureTotal, State.handedOver, hb, hh, hp]
  refine ⟨?_, fun p => ?_, fun c => ?_, ?_, pins, fun c => ?_⟩
  · simp only [State.driveMark_frame, State.controllerMark_frame, State.capture_last, hc,
      State.captureDeltas_congr hb hh hp]
  · simp only [State.driveMark_frame, State.controllerMark_frame, State.capture_carry, htotal, hb, hp]
  · simp only [State.driveMark_frame, State.controllerMark_frame, State.capture_channels, State.captureChannels_get, hh, hp]
  · intro c
    have r := rules c
    rw [hprofile, hp, hdrives] at r
    exact r
  · rw [modes, hdrives]

/-- What a mark in RUN does to the outbox, the channels and the drives (R54, R55, R144, R155). -/
theorem State.takeMark_captured (a : State) (d : Bool) (hr : a.ctl.life = .run ∨ a.installing = true) :
    CapturedAtMark a (a.takeMark d) a.clock.cur d := by
  by_cases h : a.ctl.life = .run
  · rw [a.takeMark_run d h]
    exact .of_responses _ _ _ (by simp) (by simp) (by simp) (by simp) (by simp)
  · have hi := hr.resolve_left h
    rw [a.takeMark_enters d hi]
    have hj : ∀ x : State, (x.joinerRuns true).clock.cur = x.clock.cur ∧ (x.joinerRuns true).ctl.profile = x.ctl.profile :=
      fun x => ⟨rfl, rfl⟩
    exact .of_responses _ _ _ (by simp [hj]) (by simp) (by simp) (by simp [hj]) (by simp)

/-- What a mark in RUN does to the pool unit and the window, the state m standing at it (R64, R94, R95, R99). -/
theorem State.takeMark_pool_run (a : State) (d : Bool) (hr : a.ctl.life = .run) :
    PoolAtMark a.reportDiscarded.conflictFreeMark (a.takeMark d) ∧
    (a.takeMark d).window = a.reportDiscarded.conflictFreeMark.windowInRun := by
  obtain ⟨hp, hw⟩ := a.reportDiscarded.conflictFreeMark.responses_run (by simp [hr])
  rw [a.takeMark_run d hr]
  exact ⟨hp.congr (by simp) (by simp), by simpa using hw⟩

/-! ### A joiner enters RUN -/

theorem State.installing_iff (s : State) : s.installing = true ↔ s.ctl.life = .joining ∧ s.joinInstall = true := by
  simp [State.installing]

/-- An install that is decided has a snapshot to install (R99). -/
theorem State.joinInstall_held (s : State) (h : s.joinInstall = true) : ∃ x, s.pool.held = some x := by
  unfold State.joinInstall at h
  cases hh : s.pool.held with
  | none => simp [hh] at h
  | some x => exact ⟨x, rfl⟩

theorem State.joinInstall_congr {a b : State} (hc : a.clock.cur = b.clock.cur) (hw : a.window = b.window)
    (hp : a.pool = b.pool) (hf : a.ctl.profile = b.ctl.profile) : a.joinInstall = b.joinInstall := by
  unfold State.joinInstall State.record
  rw [hc, hw, hp, hf]

theorem State.controllerMark_joined (s : State) (h : s.ctl.life = .run) : (s.controllerMark true).ctl = s.ctl := by
  simp [State.controllerMark, h]

/-- The controller and the mark timer of a joiner that a mark takes into RUN (R116, R132). -/
theorem State.takeMark_ctl_enters (a : State) (d : Bool) (hi : a.installing = true) :
    (a.takeMark d).ctl = { a.ctl with life := .run, cause := .none, silence := none } ∧
    (a.takeMark d).clock = { a.clock with timer := .running (a.now + a.markInterval) } ∧
    (Block.controller, { kind := .state, epoch := a.clock.cur, subject := none, value := 0x0300 }) ∈
      (a.takeMark d).port.arising := by
  have hctl : (a.reportDiscarded.conflictFreeMark.joinerRuns true).ctl =
      { a.ctl with life := .run, cause := .none, silence := none } := by
    simp [State.joinerRuns]
  have hclock : (a.reportDiscarded.conflictFreeMark.joinerRuns true).clock =
      { a.clock with timer := .running (a.now + a.markInterval) } := by
    simp [State.joinerRuns, State.markInterval, State.period, State.bits, State.own]
  rw [a.takeMark_enters d hi]
  refine ⟨?_, by simp [hclock], (State.responses_raised _ _ _ _).mem ?_⟩
  · simp only [State.driveMark_frame]
    rw [State.controllerMark_joined _ (by simp [hctl])]
    simp [hctl]
  · simp [State.joinerRuns, Life.code, MuteCause.code]

/-- What a mark that takes a joiner into RUN does to the pool unit and the window (R99). -/
theorem State.takeMark_pool_enters (a : State) (d : Bool) (hi : a.installing = true) {h : HeldSnapshot}
    (hh : a.pool.held = some h) :
    InstalledAtMark a.reportDiscarded.conflictFreeMark (a.takeMark d) h true ∧
    (a.takeMark d).window = ((a.reportDiscarded.conflictFreeMark.windowMark true).install h).window := by
  have alike : FoldAlike (a.reportDiscarded.conflictFreeMark.joinerRuns true) a.reportDiscarded.conflictFreeMark :=
    ⟨rfl, rfl, rfl, rfl, rfl, rfl, rfl, rfl, rfl, rfl, rfl, rfl⟩
  have marked := alike.windowMark true
  have unclean : ((a.reportDiscarded.conflictFreeMark.joinerRuns true).windowMark true).pool.uncleanSelf =
      (a.reportDiscarded.conflictFreeMark.windowMark true).pool.uncleanSelf := by
    rw [(State.windowMark_keeps _ _).uncleanSelf, (State.windowMark_keeps _ _).uncleanSelf]; rfl
  have held : ((a.reportDiscarded.conflictFreeMark.joinerRuns true).windowMark true).countMark.pool.held = some h := by
    rw [(State.countMark_counts _).1, (State.windowMark_keeps _ _).held]; simpa using hh
  obtain ⟨hp, hw⟩ := ((a.reportDiscarded.conflictFreeMark.joinerRuns true).windowMark true).countMark_install h
  rw [a.takeMark_enters d hi, State.installHeld_some _ _ held (by simp [State.joinerRuns])]
  simp only [Bool.true_or, if_true, InstalledAtMark, State.driveMark_frame, State.controllerMark_frame, State.capture_frame]
  refine ⟨⟨?_, ?_, State.install_settled _ _⟩, ?_⟩
  · rw [hp, marked.install_pool unclean]
  · rw [(State.install_frame _ _).2.2.2.2.2.2.1, (State.countMark_frame _).2.2.2.2.2.2.2.1, marked.adjust]
  · rw [hw, State.install_window, State.install_window, marked.window]

/-! ### A joiner stays -/

/-- What a mark does in JOINING where no snapshot is installed: a held one is discarded, the wait count rises, and nothing
is captured (R64, R99, R127, R130). -/
theorem State.takeMark_joining (a : State) (d : Bool) (hj : a.ctl.life = .joining) (hi : a.joinInstall = false) :
    FoldedFrom a.reportDiscarded.conflictFreeMark (a.takeMark d) ∧ (a.takeMark d).pool.held = none ∧
    (a.pool.agreement = .none → DiscardedAtMark a.reportDiscarded.conflictFreeMark (a.takeMark d) false ∧
      (a.takeMark d).pool.agreement = .none) ∧
    (a.takeMark d).window = (a.reportDiscarded.conflictFreeMark.windowMark false).window ∧
    (a.takeMark d).adjust = (a.reportDiscarded.conflictFreeMark.windowMark false).adjust ∧
    (a.takeMark d).ctl = { a.ctl with joinWait := if a.ctl.joinWait < 4 then a.ctl.joinWait + 1 else 4
                                      silence := some (a.now + a.listenSpan) } ∧
    (a.takeMark d).clock = a.clock ∧ (a.takeMark d).line = { a.line with discarded := 0 } ∧
    (a.takeMark d).builder = a.builder ∧ (a.takeMark d).channels = a.channels ∧ (a.takeMark d).drives = a.drives := by
  set m := a.reportDiscarded.conflictFreeMark with hm
  have alike : FoldAlike m.dropHeld m := ⟨rfl, rfl, rfl, rfl, rfl, rfl, rfl, rfl, rfl, rfl, rfl, rfl⟩
  have marked := alike.windowMark false
  have kept := m.dropHeld.windowMark_keeps false
  have keptm := m.windowMark_keeps false
  obtain ⟨hheld, hback, -, -⟩ := (m.dropHeld.windowMark false).countMark_counts
  have held : (m.dropHeld.windowMark false).countMark.pool.held = none := hheld.trans kept.held
  have back : (m.dropHeld.windowMark false).countMark.pool.holdBack = m.pool.holdBack - 1 := by
    rw [hback, kept.holdBack]; rfl
  have counted := (m.dropHeld.windowMark false).countMark_alike
  have alike' : FoldAlike (m.dropHeld.windowMark false).countMark (m.windowMark false) :=
    ⟨counted.cur.trans marked.cur, counted.window.trans marked.window, counted.adjust.trans marked.adjust,
      counted.profile.trans marked.profile, counted.straps.trans marked.straps, counted.entries.trans marked.entries,
      counted.table.trans marked.table, counted.foldPoint.trans marked.foldPoint, counted.history.trans marked.history,
      counted.gaps.trans marked.gaps, counted.clean.trans marked.clean, counted.agreement.trans marked.agreement⟩
  have hpool : (a.takeMark d).pool = (m.dropHeld.windowMark false).countMark.pool := by
    rw [a.takeMark_stays d (by simp [hj]) (by simp [State.installing, hi]), if_pos hj, ← hm,
      State.installHeld_none _ _ held]
    simp
  have hadjust : (a.takeMark d).adjust = (m.dropHeld.windowMark false).countMark.adjust := by
    rw [a.takeMark_stays d (by simp [hj]) (by simp [State.installing, hi]), if_pos hj, ← hm,
      State.installHeld_none _ _ held]
    simp
  refine ⟨(FoldedFrom.of_alike alike' back).congr hpool (by rw [hadjust]), by rw [hpool, held], fun ha => ?_, ?_,
    by rw [hadjust, alike'.adjust], ?_, ?_, ?_, ?_, ?_, ?_⟩
  · have hmark : (m.windowMark false).pool.agreement = .none := by
      rw [keptm.agreement_eq (by simp [hm, ha])]; simp [hm, ha]
    have hdrop : (m.dropHeld.windowMark false).pool.agreement = .none := marked.agreement.trans hmark
    refine ⟨⟨?_, by rw [hadjust, alike'.adjust]⟩, by rw [hpool, alike'.agreement, hmark]⟩
    rw [hpool]
    have hc := (m.dropHeld.windowMark false).countMark_pool (.inl (by simp [hdrop]))
    have hd : FoldAlike (m.dropHeld.windowMark false) { m.windowMark false with pool := { (m.windowMark false).pool with
        held := none } } := ⟨marked.cur, marked.window, marked.adjust, marked.profile, marked.straps, marked.entries,
          marked.table, marked.foldPoint, marked.history, marked.gaps, marked.clean, marked.agreement⟩
    rw [hc, hd.pool_eq (kept.target.trans keptm.target.symm) kept.held (kept.holdBack.trans keptm.holdBack.symm)
      (kept.wait.trans keptm.wait.symm) (kept.noComparison.trans keptm.noComparison.symm)
      (kept.uncleanSelf.trans keptm.uncleanSelf.symm)]
    simp only [keptm.holdBack]
  all_goals
    rw [a.takeMark_stays d (by simp [hj]) (by simp [State.installing, hi]), if_pos hj, ← hm,
      State.installHeld_none _ _ held]
  · simpa using alike'.window
  · simp [State.controllerMark, hm, hj, State.listenSpan, State.period, State.bits]
  · simp [hm]
  · simp [hm, State.reportDiscarded_line]
  · simp [hm]
  · simp [hm]
  · simp [hm]

/-! ### The rest of a mark -/

theorem State.takeMark_line_direct (a : State) : (a.takeMark true).line = { a.line with discarded := 0 } := by
  by_cases hr : a.ctl.life = .run
  · rw [a.takeMark_run true hr]; simp [State.reportDiscarded_line]
  · by_cases hi : a.installing = true
    · rw [a.takeMark_enters true hi]; simp [State.reportDiscarded_line]
    · rw [a.takeMark_stays true hr (by simpa using hi)]
      split <;> simp [State.reportDiscarded_line]

/-- After a mark no discarded frame is counted (R24). -/
theorem State.takeMark_discarded (a : State) (d : Bool) : (a.takeMark d).line.discarded = 0 := by
  cases d with
  | true => rw [State.takeMark_line_direct]
  | false =>
    have captured : ∀ x : State, (x.capture false).line.discarded = x.line.discarded := fun x =>
      (State.offerKey_line _ _).2.2.2.1
    by_cases hr : a.ctl.life = .run
    · rw [a.takeMark_run false hr]; simp [captured, State.reportDiscarded_line]
    · by_cases hi : a.installing = true
      · rw [a.takeMark_enters false hi]; simp [captured, State.reportDiscarded_line]
      · rw [a.takeMark_stays false hr (by simpa using hi)]
        split <;> simp [State.reportDiscarded_line]

/-- After an implied mark in RUN the own report waits as a RESEND (R57). -/
theorem State.takeMark_offers (a : State) (hr : a.ctl.life = .run ∨ a.installing = true)
    (hq : a.line.queue.length < 8) : ∃ q ∈ (a.takeMark false).line.queue, q.key = .resend (a.clock.cur - 1) := by
  have captured : ∀ x : State, x.ctl.life = .run → x.clock.cur = a.clock.cur → x.line.queue = a.line.queue →
      ∃ q ∈ (x.capture false).line.queue, q.key = .resend (a.clock.cur - 1) := by
    intro x hl hc hx
    rw [← hc]
    refine (State.offer_waits _ _ _ _ ?_ ?_).2
    · simp [acceptsOffer, hl]
    · simpa [hx] using hq
  by_cases h : a.ctl.life = .run
  · rw [a.takeMark_run false h]
    simp only [State.driveMark_frame, State.controllerMark_frame]
    exact captured _ (by simp [h]) (by simp) (by simp [State.reportDiscarded_line])
  · rw [a.takeMark_enters false (hr.resolve_left h)]
    simp only [State.driveMark_frame, State.controllerMark_frame]
    exact captured _ (by simp [State.joinerRuns]) (by simp [State.joinerRuns]) (by simp [State.reportDiscarded_line])

theorem State.takeMark_lastSerial (a : State) (d : Bool) : (a.takeMark d).adjust.lastSerial = a.adjust.lastSerial := by
  have marked : ∀ (x : State) (b : Bool), (x.windowMark b).adjust.lastSerial = x.adjust.lastSerial :=
    fun x b => (x.windowMark_keeps b).lastSerial
  by_cases hr : a.ctl.life = .run
  · rw [a.takeMark_run d hr]; simp [marked]
  · by_cases hi : a.installing = true
    · rw [a.takeMark_enters d hi]; simp [marked]
    · rw [a.takeMark_stays d hr (by simpa using hi)]
      split <;> simp [marked]

end Sys2Proof.Machine
end


section
/-! What a step's end shows, drive pins found afresh with their events, and the entry into MUTE or QUIET and into LISTEN. -/

namespace Sys2Proof.Machine

/-! ### A step's end -/

/-- t shows what u holds but for the conflict counts, the draws and FAULT: t's fields are u's, and every event that arose in u
is reported (R182). -/
structure Shows (u t : State) : Prop where
  now : t.now = u.now
  clock : t.clock = u.clock
  line : t.line = u.line
  entries : t.roster.entries = u.roster.entries
  reference : t.roster.reference = u.roster.reference
  builder : t.builder = u.builder
  window : t.window = u.window
  pool : t.pool = u.pool
  adjust : t.adjust = u.adjust
  ctl : t.ctl = u.ctl
  channels : t.channels = u.channels
  drives : t.drives.drives = u.drives.drives
  reply : t.port.reply = u.port.reply
  txn : t.port.txn = u.port.txn
  inputs : t.inputs = u.inputs
  pending : t.pending = u.pending
  reported : ∀ (b : Block) (e : Event), (b, e) ∈ u.port.arising → Reported t e

theorem State.finish_shows (s : State) : Shows s s.finish :=
  ⟨rfl, rfl, rfl, rfl, rfl, rfl, rfl, rfl, rfl, rfl, rfl, rfl, rfl, rfl, rfl, rfl, fun _ _ h => s.finish_reported h⟩

/-- The conflict counts are none of what Shows asks for. -/
theorem Shows.withConflicts {u t : State} (h : Shows u t) (a b : Nat) : Shows u (t.withConflicts a b) :=
  ⟨h.now, h.clock, h.line, h.entries, h.reference, h.builder, h.window, h.pool, h.adjust, h.ctl, h.channels, h.drives,
    h.reply, h.txn, h.inputs, h.pending, h.reported⟩

@[simp] theorem State.finish_fault (s : State) (h : s.ctl.inReset = false) : s.finish.drives.fault = s.faultWanted := by
  simp [State.finish, h]

/-! ### Frames at the blocks -/

/-- A good frame that the receiver takes goes to the blocks, heard, with its overlap indication (R19, R22, R23). -/
theorem State.frameIn_outside (s : State) (dt : Nat) (f : Frame) (blocks : Bool → State → State) (h : Ready s)
    (hc : s.canReceive = true) (hg : f.good s.ctl.profile.pools = true) :
    s.outside dt (fun s => s.frameIn f blocks) = .next (blocks s.line.overlap (s.heard dt)).finish := by
  rw [s.outside_eq dt _ h.1]
  have hr : (s.later dt).canReceive = true := hc
  simp only [State.frameIn, hr, if_true, State.later_ctl, hg, State.lineIdle_later, State.later_line]

theorem exec_markReceived (s : State) (dt : Nat) (f : MarkFrame) (h : Ready s) (hc : s.canReceive = true) :
    exec (.markReceived dt f) s = .next ((s.heard dt).markIn f s.line.overlap).finish :=
  s.frameIn_outside dt (.mark f) (fun overlap s => s.markIn f overlap) h hc rfl

/-- A frame that is only heard leaves a ready state ready. -/
theorem Ready.heard {s : State} (h : Ready s) (dt : Nat) : Ready (s.heard dt) := h

/-- The receiver takes frames only while this station sends none (R23). -/
theorem State.canReceive_tx {s : State} (h : s.canReceive = true) : s.line.tx = none := by
  simp only [State.canReceive, Bool.and_eq_true, Option.isNone_iff_eq_none] at h
  exact h.1.2

theorem State.canReceive_life {s : State} (h : s.canReceive = true) :
    s.ctl.life = .listen ∨ s.ctl.life = .joining ∨ s.ctl.life = .run := by
  simp only [State.canReceive, State.listening, Bool.and_eq_true, Bool.or_eq_true, beq_iff_eq] at h
  rcases h.1.1 with (h | h) | h
  · exact .inl h
  · exact .inr (.inl h)
  · exact .inr (.inr h)

/-- A MARK that ends no departure and is no conflict goes to the epoch clock (R11, R49, R133). -/
theorem State.markIn_clock (s : State) (f : MarkFrame) (overlap : Bool) (hl : s.inLeavingEpoch = false ∨ s.wouldTake f = false)
    (hn : f.sender ≠ s.own ∨ overlap = true) : s.markIn f overlap = s.clockMark f := by
  unfold State.markIn
  rw [if_neg (by rcases hl with h | h <;> simp [h]), if_neg (by rcases hn with h | h <;> simp [h])]

theorem State.inLeavingEpoch_false {s : State} (h : s.ctl.life ≠ .run ∨ s.ctl.leave ≠ .leaving) : s.inLeavingEpoch = false := by
  unfold State.inLeavingEpoch
  rcases h with h | h <;> simp [h]

/-! ### Drive pins found afresh -/

/-- A drive whose pin changes as it is found afresh has its event on its way (R161). -/
theorem State.refreshDrive_mem (s : State) (ag : Agreement) (i : Fin 4)
    (h : ((s.refreshDrive ag i).drives.drives.get i).pin ≠ (s.drives.drives.get i).pin) :
    (Block.drive, driveEvent s.clock.cur i (s.ctl.profile.drives.get i) ((s.refreshDrive ag i).drives.drives.get i)) ∈
      (s.refreshDrive ag i).port.arising := by
  rw [State.refreshDrive_get, if_pos rfl] at h ⊢
  simp only [State.refreshDrive]
  rw [if_neg h]
  simp [driveEvent]

theorem mem_indexes4 : ∀ i : Fin 4, i ∈ indexes4 := by decide

/-- Every drive's change of level is reported as all are found afresh (R161). -/
theorem State.refreshDrivesFor_mem (s : State) (ag : Agreement) (i : Fin 4)
    (h : ((s.refreshDrivesFor ag).drives.drives.get i).pin ≠ (s.drives.drives.get i).pin) :
    (Block.drive, driveEvent s.clock.cur i (s.ctl.profile.drives.get i) ((s.refreshDrivesFor ag).drives.drives.get i)) ∈
      (s.refreshDrivesFor ag).port.arising := by
  have later : ∀ (l : List (Fin 4)) (x : State), x.clock = s.clock → x.ctl = s.ctl → i ∈ l → l.Nodup →
      x.drives.drives.get i = s.drives.drives.get i →
      (Block.drive, driveEvent s.clock.cur i (s.ctl.profile.drives.get i) ((s.refreshDrivesFor ag).drives.drives.get i)) ∈
        (l.foldl (fun s i => s.refreshDrive ag i) x).port.arising := by
    intro l
    induction l with
    | nil => intro x _ _ hi; cases hi
    | cons j t ih =>
      intro x hclock hctl hi hnd hx
      rw [List.foldl_cons]
      by_cases hj : i = j
      · subst hj
        have hget : (x.refreshDrive ag i).drives.drives.get i = (s.refreshDrivesFor ag).drives.drives.get i := by
          rw [State.refreshDrive_get, if_pos rfl, State.refreshDrivesFor_get, hx, hctl]
        have hm := x.refreshDrive_mem ag i (by rw [hget, hx]; exact h)
        rw [hget, hclock, hctl] at hm
        exact (Raised.foldl _ (fun s i => s.refreshDrive_raised ag i) t _).mem hm
      · refine ih _ (by simp [hclock]) (by simp [hctl]) ((List.mem_cons.mp hi).resolve_left hj) (List.nodup_cons.mp hnd).2 ?_
        rw [State.refreshDrive_get, if_neg hj, hx]
  exact later indexes4 s rfl rfl (mem_indexes4 i) (by decide) rfl

/-- The drives of x found afresh follow, with their events, in every state that shows them (R158, R161). -/
theorem DrivesFollow.of_refresh {s x t : State} (ag : Agreement) (hd : x.drives.drives = s.drives.drives)
    (hp : x.ctl.profile = s.ctl.profile) (ht : Shows (x.refreshDrivesFor ag) t) :
    DrivesFollow s t x.clock.cur x.ctl.life ag := by
  intro i
  rw [ht.drives, ← hd, ← hp]
  exact ⟨State.refreshDrivesFor_get _ _ _, fun h => ht.reported _ _ (x.refreshDrivesFor_mem ag i h)⟩

/-! ### MUTE, QUIET, and the path of RESTART -/

/-- The blocks' parts of the entry into MUTE or QUIET before its events of state and agreement, and before the pins (R134). -/
def State.frozenBlocks (s : State) : State :=
  let s1 := s.cutOff.withdrawAll.clearDesignation.reportDiscarded
  { s1 with
    clock := s1.clock.frozen
    pool := s1.pool.frozen
    ctl := { s1.ctl with leave := .none, listenTimer := none, silence := none } }

theorem State.enterFrozen_eq (s : State) (l : Life) (c : MuteCause) : s.enterFrozen l c =
    ((s.frozenBlocks.setLife l c).setAgreement .none).refreshDrives := rfl

/-- Every field that the entry into MUTE or QUIET writes (R134, R135). -/
theorem State.enterFrozen_fields (s : State) (l : Life) (c : MuteCause) :
    (s.enterFrozen l c).ctl = { s.ctl with life := l, cause := c, leave := .none, listenTimer := none, silence := none } ∧
    (s.enterFrozen l c).clock = s.clock.frozen ∧
    (s.enterFrozen l c).line = { s.line with
      tx := none, overlap := false, queue := [], slotWaiting := none, taken := false, discarded := 0 } ∧
    (s.enterFrozen l c).builder = s.withdrawAll.clearDesignation.builder ∧
    (s.enterFrozen l c).pool = { s.pool.frozen with agreement := .none } := by
  rw [State.enterFrozen_eq]
  refine ⟨?_, ?_, ?_, ?_, ?_⟩
  · simp [State.frozenBlocks]
  · simp [State.frozenBlocks, Clock.frozen]
  · simp [State.frozenBlocks, State.reportDiscarded_line]
  · simp only [State.refreshDrives_frame, State.setAgreement_frame, State.setLife_builder, State.frozenBlocks,
      State.reportDiscarded_frame]
    rfl
  · simp only [State.refreshDrives_frame, State.setAgreement_pool, State.setLife_pool, State.frozenBlocks,
      State.reportDiscarded_frame]
    rfl

/-- The STATE event of the entry into MUTE or QUIET is on its way (R116). -/
theorem State.enterFrozen_mem (s : State) (l : Life) (c : MuteCause) :
    (Block.controller, { kind := .state, epoch := s.clock.cur, subject := none, value := l.code ++ c.code }) ∈
      (s.enterFrozen l c).port.arising := by
  rw [State.enterFrozen_eq]
  have h : (Block.controller, ({ kind := .state, epoch := s.clock.cur, subject := none
                                 value := l.code ++ c.code } : Event)) ∈ (s.frozenBlocks.setLife l c).port.arising := by
    simp [State.frozenBlocks, Clock.frozen]
  exact ((State.setAgreement_raised _ _).trans (State.refreshDrives_raised _)).mem h

theorem State.enterFrozen_drives {s t : State} (l : Life) (c : MuteCause) (ht : Shows (s.enterFrozen l c) t) :
    DrivesFollow s t s.clock.cur l .none := by
  rw [State.enterFrozen_eq, State.refreshDrives, State.setAgreement_pool] at ht
  have h := DrivesFollow.of_refresh (s := s) .none (by simp [State.frozenBlocks]) (by simp [State.frozenBlocks]) ht
  simpa [State.frozenBlocks, Clock.frozen] using h

/-- A withdrawal with the designations cleared, as MUTE and QUIET take it (R56, R57). -/
theorem State.withdrawAll_cleared (s : State) : s.withdrawAll.clearDesignation.builder.outbox =
      (s.builder.outbox.filter (fun e => e.transmitted)).map (fun e => { e with designated := false }) ∧
    ∀ p : Fin 8, s.withdrawAll.clearDesignation.builder.carry.get p =
      s.builder.carry.get p + withdrawnSum s.builder.outbox p :=
  ⟨rfl, s.withdrawAll_builder.2⟩

/-- The station at the end of the step in which it enters MUTE or QUIET (R134, R135). -/
theorem State.enterFrozen_finish (s : State) (l : Life) (c : MuteCause) (hl : l = .mute ∨ l = .quiet)
    (hr : s.ctl.inReset = false) : FrozenFrom s (s.enterFrozen l c).finish l c := by
  obtain ⟨hctl, hclock, hline, hbuilder, hpool⟩ := s.enterFrozen_fields l c
  obtain ⟨hout, hcarry⟩ := s.withdrawAll_cleared
  have shows := (s.enterFrozen l c).finish_shows
  have raised := s.enterFrozen_raised l c
  have fault : (s.enterFrozen l c).finish.drives.fault = (l == .mute) := by
    rw [State.finish_fault _ (by rw [hctl]; exact hr), State.faultWanted, hctl]
    rcases hl with rfl | rfl <;> rfl
  simp only [FrozenFrom, State.finish_frame, hctl, hclock, hline, hbuilder, hpool, hout, State.enterFrozen_frame,
    Clock.frozen, Pool.frozen, true_and]
  exact ⟨hcarry, State.enterFrozen_drives l c shows, fault, raised.reply, raised.txn,
    shows.reported _ _ (s.enterFrozen_mem l c)⟩

end Sys2Proof.Machine
end


section
/-! The path of RESTART, conflicts, and the discontinuity, as a step's end shows them. -/

namespace Sys2Proof.Machine

/-! ### The path of RESTART -/

/-- The blocks' parts of the path of RESTART before its agreement change, its event of state and the pins (R136). -/
def State.restartBlocks (s : State) : State :=
  let s1 := s.draw.cutOff.withdrawAll.reportDiscarded
  { s1 with
    clock := s1.clock.restarted
    line := { s1.line with state := .idle s1.now }
    roster := .restarted s1.own
    builder := { s1.builder with outbox := [] }
    window := .reset
    adjust := { s1.adjust with queue := [] }
    ctl := s1.ctl.restarted (s1.now + s1.listenSpan)
    drives := s1.drives.ruleOff }

/-- The station in LISTEN on the path of RESTART, its pins not yet found afresh (R136). -/
def State.restartListens (s : State) : State :=
  ({ s.restartBlocks.setAgreementFor s.restartSubject .none with pool := .reset }).setLife .listen .none

theorem State.restartPath_eq (s : State) : s.restartPath = s.restartListens.refreshDrives := rfl

theorem State.restartListens_fields (s : State) :
    s.restartListens.now = s.now ∧
    s.restartListens.ctl = { s.ctl with
      life := .listen, cause := .none, autoTimer := none, listenTimer := some (s.now + s.listenSpan), matching := 0
      mismatched := 0, joinWait := 0, joinAttempts := 0, silence := none, leave := .none } ∧
    s.restartListens.clock = { Clock.reset with cur := s.clock.cur } ∧
    s.restartListens.line = { s.line with
      tx := none, overlap := false, queue := [], slotWaiting := none, taken := false, discarded := 0, state := .idle s.now } ∧
    s.restartListens.roster = Roster.restarted s.own ∧
    s.restartListens.builder = { s.withdrawAll.builder with outbox := [] } ∧
    s.restartListens.window = .reset ∧ s.restartListens.pool = .reset ∧
    s.restartListens.adjust = { s.adjust with queue := [] } ∧ s.restartListens.channels = s.channels ∧
    s.restartListens.drives = s.drives.ruleOff ∧ s.restartListens.inputs = s.inputs ∧
    s.restartListens.pending = s.pending := by
  refine ⟨?_, ?_, ?_, ?_, ?_, ?_, ?_, rfl, ?_, ?_, ?_, ?_, ?_⟩
  · simp [State.restartListens, State.restartBlocks]
  · simp [State.restartListens, State.restartBlocks, Controller.restarted, State.listenSpan, State.period, State.bits]
  · simp [State.restartListens, State.restartBlocks, Clock.restarted]
  · simp [State.restartListens, State.restartBlocks, State.reportDiscarded_line]
  · simp [State.restartListens, State.restartBlocks, State.own]
  · simp only [State.restartListens, State.setLife_builder, State.setAgreementFor_frame, State.restartBlocks,
      State.reportDiscarded_frame]
    rfl
  · simp [State.restartListens, State.restartBlocks]
  · simp [State.restartListens, State.restartBlocks]
  · simp [State.restartListens, State.restartBlocks]
  · simp [State.restartListens, State.restartBlocks]
  · simp [State.restartListens, State.restartBlocks]
  · simp [State.restartListens, State.restartBlocks]

theorem State.restartPath_mem (s : State) :
    (Block.controller, { kind := .state, epoch := s.clock.cur, subject := none, value := 0x0100 }) ∈
      s.restartPath.port.arising := by
  refine (State.refreshDrives_raised _).mem ?_
  simp [Clock.restarted, Life.code, MuteCause.code]

/-- The station on whose conflict counts and FAULT pin nothing bears but this path (R136). -/
theorem RestartedFrom.of_shows {s t : State} (ht : Shows s.restartPath t) (hc : t.roster.conflicts = 0)
    (hf : t.roster.conflictFree = 0) (hp : t.drives.fault = false) : RestartedFrom s t s.now := by
  obtain ⟨hnow, hctl, hclock, hline, hroster, hbuilder, hwindow, hpool, hadjust, hchannels, hdrives, hinputs, hpending⟩ :=
    s.restartListens_fields
  have raised := s.restartPath_raised
  have follow : DrivesFollow { s with drives := s.drives.ruleOff } t s.clock.cur .listen .none := by
    have h := DrivesFollow.of_refresh (s := { s with drives := s.drives.ruleOff }) (x := s.restartListens) .none
      (by rw [hdrives]) (by rw [hctl]) (by rw [State.restartPath_eq, State.refreshDrives, hpool] at ht; exact ht)
    simpa [hclock, hctl] using h
  have entries : t.roster.entries = (Roster.restarted s.own).entries := by
    rw [ht.entries, State.restartPath_eq, (State.refreshDrives_frame _).2.2.2.2.1, hroster]
  have reported := ht.reported _ _ s.restartPath_mem
  have rules : ∀ i : Fin 4, (t.drives.drives.get i).rule = .off ∧
      (t.drives.drives.get i).mode = (s.drives.drives.get i).mode := by
    intro i
    rw [(follow i).1]
    simp [DriveUnit.ruleOff]
  simp only [RestartedFrom, ht.now, ht.ctl, ht.clock, ht.line, ht.reference, ht.builder, ht.window, ht.pool, ht.adjust,
    ht.channels, ht.txn, ht.inputs, ht.pending, hc, hf, hp, raised.txn]
  simp only [State.restartPath_eq, State.refreshDrives_frame, hnow, hctl, hclock, hline, hroster, hbuilder, hwindow, hpool,
    hadjust, hchannels, hinputs, hpending, true_and]
  refine ⟨rfl, fun n => ?_, rfl, fun p => s.withdrawAll_builder.2 p, rfl, rfl, rules, follow, reported⟩
  rw [State.entry, entries]
  simp only [Roster.restarted, Roster.reset, Tbl.get_set, Tbl.get_fill]
  split <;> rfl

/-! ### The discontinuity -/

/-- Additions of an emergency fold, record by record, are the additions of the values they bring to the pool (R77, R80). -/
theorem foldl_addEach_balance (f : Record → List (BitVec 32)) (l : List Record) (s : State) (p : Fin 8) :
    ((l.foldl (fun s r => s.addEach 0 (f r)) s).pool.table.get p).balance =
      (l.filterMap (fun r => (f r)[p.val]?)).foldl (fun b v => (satAdd b v).1) (s.pool.table.get p).balance := by
  induction l generalizing s with
  | nil => rfl
  | cons r t ih =>
    rw [List.foldl_cons, ih, State.addEach_entry]
    cases hr : (f r)[p.val]? with
    | none => simp [hr]
    | some v => simp [hr, PoolEntry.stepped]

/-- The emergency fold adds what R77 says, in its order (R77, R80). -/
theorem State.emergencyFold_balance (s : State) (p : Fin 8) : (s.emergencyFold.pool.table.get p).balance =
    (emergencyAdditions s.window.records p).foldl (fun b v => (satAdd b v).1) (s.pool.table.get p).balance := by
  simp only [State.emergencyFold, emergencyAdditions, List.foldl_append]
  rw [foldl_addEach_balance (fun r => r.late), foldl_addEach_balance (fun r => r.sums)]

theorem State.emergencyFold_window (s : State) : s.emergencyFold.window = .reset := rfl

theorem State.emergencyFold_keeps (s : State) : FoldKeeps s s.emergencyFold :=
  ((FoldKeeps.foldl (fun (s : State) (r : Record) => s.addEach 0 r.sums) (fun s r => State.addEach_keeps_fold r.sums s 0)
    (s.window.records.reverse.filter (fun r => r.state != .folded)) s).trans
    (FoldKeeps.foldl (fun (s : State) (r : Record) => s.addEach 0 r.late) (fun s r => State.addEach_keeps_fold r.late s 0)
      (s.window.records.reverse.filter (fun r => r.state == .folded)) _)).keep rfl rfl

/-- The blocks' parts of a discontinuity that RUN and JOINING share (R12, R34, R50, R61, R77, R95, R113). -/
def State.discontinuityBlocks (s : State) : State :=
  let s1 := (s.reportDiscarded.conflictFreeMark.dropEntry .request).emergencyFold.withdrawAll
  { s1 with
    pool := s1.pool.discontinued s1.ctl.profile.foldLag
    adjust := { s1.adjust with queue := [] }
    builder := { s1.builder with outbox := [] } }

theorem State.discontinuityResponses_eq (s : State) : s.discontinuityResponses =
    if s.discontinuityBlocks.ctl.life = .run then
      ({ s.discontinuityBlocks with pool := { s.discontinuityBlocks.pool with
        target := s.discontinuityBlocks.roster.reference } } : State).agree .resyncing
    else if s.discontinuityBlocks.ctl.life = .joining then
      ({ s.discontinuityBlocks with ctl := { s.discontinuityBlocks.ctl with
        joinWait := 0, joinAttempts := 0 } } : State).reloadSilence
    else s.discontinuityBlocks := rfl

theorem State.discontinuityBlocks_fields (s : State) :
    s.discontinuityBlocks.now = s.now ∧ s.discontinuityBlocks.clock = s.clock ∧ s.discontinuityBlocks.ctl = s.ctl ∧
    s.discontinuityBlocks.line = { s.line with discarded := 0, queue := s.line.queue.filter (fun e => e.key != .request) } ∧
    s.discontinuityBlocks.roster = s.reportDiscarded.conflictFreeMark.roster ∧ s.discontinuityBlocks.window = .reset ∧
    s.discontinuityBlocks.builder = { s.withdrawAll.builder with outbox := [] } ∧
    s.discontinuityBlocks.adjust = { s.adjust with queue := [] } ∧ s.discontinuityBlocks.channels = s.channels ∧
    s.discontinuityBlocks.drives = s.drives ∧ s.discontinuityBlocks.inputs = s.inputs ∧
    s.discontinuityBlocks.pending = s.pending := by
  refine ⟨?_, ?_, ?_, ?_, ?_, ?_, ?_, ?_, ?_, ?_, ?_, ?_⟩
  case refine_7 =>
    simp only [State.discontinuityBlocks, State.withdrawAll, State.emergencyFold_frame, State.dropEntry_builder,
      State.conflictFreeMark_frame, State.reportDiscarded_frame]
  all_goals simp [State.discontinuityBlocks, State.reportDiscarded_line, State.emergencyFold_window]

theorem State.emergencyFold_agreement (s : State) : s.emergencyFold.pool.agreement = s.pool.agreement := by
  have added : ∀ (l : List (BitVec 32)) (x : State), (x.addEach 0 l).pool.agreement = x.pool.agreement := fun l x =>
    State.addEach_keeps (fun s => s.pool.agreement) (fun s p v => by rw [State.addBalance_pool]) l x 0
  have folded : ∀ (f : Record → List (BitVec 32)) (l : List Record) (x : State),
      (l.foldl (fun s r => s.addEach 0 (f r)) x).pool.agreement = x.pool.agreement := fun f l x =>
    foldl_keeps (fun s : State => s.pool.agreement) _ (fun b r => added (f r) b) l x
  exact (folded (fun r => r.late) _ _).trans (folded (fun r => r.sums) _ _)

/-- The pool unit of a discontinuity: the balances of the emergency fold, the rest afresh (R77, R95). -/
theorem State.discontinuityBlocks_pool (s : State) :
    (∀ p : Fin 8, (s.discontinuityBlocks.pool.table.get p).balance =
      (emergencyAdditions s.window.records p).foldl (fun b v => (satAdd b v).1) (s.pool.table.get p).balance) ∧
    s.discontinuityBlocks.pool = { s.pool with
      table := s.discontinuityBlocks.pool.table, gaps := [], history := [], foldPoint := none, held := none, clean := false
      wait := 0, noComparison := 0, uncleanSelf := 0, holdBack := s.ctl.profile.foldLag } := by
  have keeps := (s.reportDiscarded.conflictFreeMark.dropEntry .request).emergencyFold_keeps
  have balances := fun p => (s.reportDiscarded.conflictFreeMark.dropEntry .request).emergencyFold_balance p
  refine ⟨fun p => ?_, ?_⟩
  · have h := balances p
    simp only [State.dropEntry_pool, State.dropEntry_window, State.conflictFreeMark_frame, State.reportDiscarded_frame] at h
    exact h
  · have ht := keeps.target
    have ha := (s.reportDiscarded.conflictFreeMark.dropEntry .request).emergencyFold_agreement
    simp only [State.dropEntry_pool, State.conflictFreeMark_frame, State.reportDiscarded_frame] at ht ha
    simp [State.discontinuityBlocks, Pool.discontinued, ht, ha]

end Sys2Proof.Machine
end


section
/-! Hardware reset, slot starts and frames lost. -/

namespace Sys2Proof.Machine

theorem Profile.default_channels : ∀ i : Fin 4, Profile.default.channels.get i =
    { mode := if i.val < 2 then .pulse else .off, gateUse := false, width := 4, pool := 0, negative := i == 1 } := by
  decide

/-- Settles O11: hardware reset writes the fields of the outputs one by one, and its end is State.atReset, whose fields are
the reset values of the chapters. -/
theorem hardwareResets : Obligations.HardwareResets := by
  unfold Obligations.HardwareResets
  refine ⟨fun dt s => ⟨_, rfl, rfl, rfl, rfl, fun i => by simp, rfl, rfl, rfl, rfl, State.sdo_released _ rfl, rfl, rfl, rfl,
    rfl, rfl, rfl, rfl, rfl, rfl⟩, fun dt id rate auto s h => ?_⟩
  refine ⟨State.atReset (s.now + dt) s.free { id := id, rate := rate, auto := auto } s.inputs s.wires s.pending,
    congrArg Host.Outcome.next (if_pos h), ?_⟩
  refine ⟨rfl, rfl, rfl, rfl, rfl, fun n => ?_, rfl, rfl, rfl, fun p => ?_, rfl, rfl, fun p => ?_, rfl, rfl, rfl, rfl, rfl,
    rfl, rfl, rfl, rfl, rfl, rfl, rfl, rfl, rfl, rfl, rfl, rfl, rfl, rfl, rfl, rfl, rfl, rfl, rfl, rfl, rfl, rfl, rfl, rfl, rfl,
    rfl, fun p => ?_, fun i => ?_, fun i => ?_, fun i => ?_, fun i => ?_, rfl, rfl, fun i x => ?_, rfl, rfl, rfl, rfl⟩
  · exact Tbl.get_fill _ _
  · exact Tbl.get_fill _ _
  · exact Tbl.get_fill _ _
  · exact Tbl.get_fill _ _
  · exact Profile.default_channels i
  · exact Tbl.get_fill _ _
  · exact Tbl.get_fill _ _
  · have hd : (State.atReset (s.now + dt) s.free { id := id, rate := rate, auto := auto } s.inputs s.wires
        s.pending).drives.drives.get i = .reset := Tbl.get_fill _ _
    rw [hd]
    exact ⟨rfl, rfl, rfl, rfl⟩
  · simp only [State.pin, State.atReset, Inputs.filtersFrom, Tbl.get_map]
    cases x <;> rfl

/-! ### Slot starts -/

/-- With a designated untransmitted entry this slot's REPORT is handed over (R57). -/
theorem State.handOver_report (s : State) (e : OutEntry) (h : s.builder.outbox.find? (fun x => x.designated) = some e)
    (ht : e.transmitted = false) :
    s.handOver = { s.clearDesignation with line := { s.line with slotWaiting := some (s.buildReport e) } } := by
  simp [State.handOver, h, ht]

/-- With none the slot stays empty (R57). -/
theorem State.handOver_empty (s : State)
    (h : ∀ e : OutEntry, s.builder.outbox.find? (fun x => x.designated) = some e → e.transmitted = true) :
    s.handOver = s := by
  unfold State.handOver
  cases hf : s.builder.outbox.find? (fun x => x.designated) with
  | none => rfl
  | some e => simp [h e hf]

/-- What a hand-over leaves alone. -/
theorem State.handOver_frame (s : State) : s.handOver.now = s.now ∧ s.handOver.clock = s.clock ∧
    s.handOver.roster = s.roster ∧ s.handOver.window = s.window ∧ s.handOver.pool = s.pool ∧
    s.handOver.adjust = s.adjust ∧ s.handOver.ctl = s.ctl ∧ s.handOver.channels = s.channels ∧
    s.handOver.drives = s.drives ∧ s.handOver.port = s.port := by
  unfold State.handOver
  split
  · exact ⟨rfl, rfl, rfl, rfl, rfl, rfl, rfl, rfl, rfl, rfl⟩
  · split <;> exact ⟨rfl, rfl, rfl, rfl, rfl, rfl, rfl, rfl, rfl, rfl⟩

/-- The state at the start of the next slot, before a REPORT is handed over (R8). -/
def State.slotStarted (s : State) (o : Instant) : State :=
  { s.until (o + s.bits (320 * (s.clock.slotCount : Int))) with clock := { s.clock with slotCount := s.clock.slotCount + 1 } }

theorem State.nextSlot_eq (s : State) (o : Instant) (ho : s.clock.origin = some o) (ht : s.clock.slotTimer = .slots)
    (hc : s.clock.slotCount < 32) : s.nextSlot =
      if s.ctl.life = .run ∧ s.clock.slotCount = s.own.val then (s.slotStarted o).handOver else s.slotStarted o := by
  unfold State.nextSlot
  rw [ho]
  exact if_pos ⟨ht, hc⟩

/-- Settles O16: at the own slot in RUN the hand-over has its two cases, an entry that is designated and untransmitted, and
none; elsewhere the slot start moves clock and instant alone. -/
theorem slotStarts : Obligations.SlotStarts := by
  unfold Obligations.SlotStarts
  intro s o h ho ht hc
  have hnow : (s.slotStarted o).now = s.due (o + s.bits (320 * (s.clock.slotCount : Int))) := State.until_now _ _
  have ready : Ready (s.slotStarted o) := h
  by_cases hown : s.ctl.life = .run ∧ s.clock.slotCount = s.own.val
  · have heq : s.nextSlot = (s.slotStarted o).handOver := by rw [s.nextSlot_eq o ho ht hc, if_pos hown]
    obtain ⟨fnow, fclock, froster, fwindow, fpool, fadjust, fctl, fchannels, fdrives, fport⟩ := (s.slotStarted o).handOver_frame
    have hready : Ready s.nextSlot := by
      rw [heq]
      exact ready.of_same (by rw [fctl]) (by rw [fctl]) fport (by rw [fpool]) (by rw [fdrives])
    refine ⟨_, s.inside_ready _ h.1 hready, ?_⟩
    rw [heq]
    refine ⟨fnow.trans hnow, fclock, fun hn => ?_, fun e _ _ he het => ?_, fun hn => ?_, froster, fwindow, fpool, fadjust,
      fctl, fchannels, fdrives, fport⟩
    · rcases hn with hn | hn
      · exact absurd hown.1 hn
      · exact absurd hown.2 hn
    · rw [(s.slotStarted o).handOver_report e he het]
      exact ⟨rfl, rfl⟩
    · rw [(s.slotStarted o).handOver_empty hn]
      exact ⟨rfl, rfl⟩
  · have heq : s.nextSlot = s.slotStarted o := by rw [s.nextSlot_eq o ho ht hc, if_neg hown]
    refine ⟨_, s.inside_ready _ h.1 (by rw [heq]; exact ready), ?_⟩
    rw [heq]
    exact ⟨hnow, rfl, fun _ => ⟨rfl, rfl⟩, fun e hl hn => absurd ⟨hl, hn⟩ hown, fun _ => ⟨rfl, rfl⟩, rfl, rfl, rfl, rfl, rfl,
      rfl, rfl, rfl⟩

/-! ### Frames lost -/

/-- A frame that loses arbitration has left the line to the one that won (R23, R25). -/
def State.outbid (s : State) : State := { s with line := { s.line with tx := none, state := .busy, overlap := true } }

theorem State.arbitrationLost_other (s : State) (x : Tx) (h : s.line.tx = some x) (ho : ∀ e : Epoch, x.owner ≠ .slot e) :
    s.arbitrationLost = s.outbid := by
  unfold State.arbitrationLost
  rw [h]
  dsimp only
  split
  · rename_i e he; exact absurd he (ho e)
  · rfl
  · rfl

theorem State.arbitrationLost_slot (s : State) (x : Tx) (e : Epoch) (h : s.line.tx = some x) (ho : x.owner = .slot e) :
    s.arbitrationLost = (s.outbid.offerKey (.resend e)).countConflict := by
  unfold State.arbitrationLost
  rw [h]
  dsimp only
  rw [ho]
  rfl

/-- An offer of a RESEND in RUN waits in the queue if there is room (R32, R58). -/
theorem State.offerKey_waits (s : State) (k : QKey) (hr : s.ctl.life = .run) (hq : s.line.queue.length < 8) :
    ∃ q ∈ (s.offerKey k).line.queue, q.key = k := (s.offer_waits k none none (by simp [acceptsOffer, hr]) hq).2

/-- A conflict is counted with its event, whether or not it mutes (R50). -/
theorem State.countConflict_mem (s : State) : (Block.roster, { kind := .identityConflict, epoch := s.clock.cur
                                                               subject := some s.own
                                                               value := BitVec.ofNat 16 (s.roster.conflicts + 1) }) ∈
    s.countConflict.port.arising := by
  by_cases hc : s.roster.conflicts < 2
  · rw [s.countConflict_counts hc]; exact State.raise_mem _ _ _ _ _
  · rw [s.countConflict_mutes (by omega)]
    exact (State.enterFrozen_raised _ _ _).mem (State.raise_mem _ _ _ _ _)

/-- What counting a conflict leaves alone, muting or not. -/
theorem State.countConflict_frame (s : State) : s.countConflict.now = s.now ∧ s.countConflict.free = s.free ∧
    s.countConflict.roster = { s.roster with conflicts := s.roster.conflicts + 1, conflictFree := 0 } ∧
    s.countConflict.window = s.window ∧ s.countConflict.adjust = s.adjust ∧ s.countConflict.channels = s.channels ∧
    s.countConflict.inputs = s.inputs ∧ s.countConflict.wires = s.wires ∧ s.countConflict.pending = s.pending := by
  by_cases hc : s.roster.conflicts < 2
  · rw [s.countConflict_counts hc]; exact ⟨rfl, rfl, rfl, rfl, rfl, rfl, rfl, rfl, rfl⟩
  · rw [s.countConflict_mutes (by omega)]; simp

/-- The frame in transmission has met a drive fault: the line is released, and the fault is counted (R24, R25). -/
def State.faulted (s : State) : State := s.endTx.countDiscarded.lineIdle s.now

theorem State.faulted_line (s : State) : s.faulted.line.tx = none ∧
    s.faulted.line.discarded = (if s.line.discarded < 65535 then s.line.discarded + 1 else 65535) ∧
    s.faulted.line.queue = s.line.queue := ⟨rfl, rfl, rfl⟩

theorem State.faulted_offered (s : State) (e : Epoch) :
    (s.faulted.offerKey (.resend e)).now = s.now ∧ (s.faulted.offerKey (.resend e)).clock = s.clock ∧
    (s.faulted.offerKey (.resend e)).roster = s.roster ∧ (s.faulted.offerKey (.resend e)).builder = s.builder ∧
    (s.faulted.offerKey (.resend e)).window = s.window ∧ (s.faulted.offerKey (.resend e)).pool = s.pool ∧
    (s.faulted.offerKey (.resend e)).adjust = s.adjust ∧ (s.faulted.offerKey (.resend e)).ctl = s.ctl ∧
    (s.faulted.offerKey (.resend e)).channels = s.channels ∧ (s.faulted.offerKey (.resend e)).drives = s.drives ∧
    (s.faulted.offerKey (.resend e)).port = s.port := by
  simp [State.faulted]

theorem State.driveFault_slot (s : State) (x : Tx) (e : Epoch) (h : s.line.tx = some x) (ho : x.owner = .slot e) :
    s.driveFault = s.faulted.offerKey (.resend e) := by
  unfold State.driveFault
  rw [h]
  dsimp only
  rw [ho]
  rfl

theorem State.driveFault_other (s : State) (x : Tx) (h : s.line.tx = some x) (ho : ∀ e : Epoch, x.owner ≠ .slot e) :
    ∃ taken : Bool, s.driveFault = { s with line := { s.faulted.line with taken := taken } } := by
  unfold State.driveFault
  rw [h]
  dsimp only
  split
  · rename_i e he; exact absurd he (ho e)
  · exact ⟨_, rfl⟩
  · exact ⟨_, rfl⟩

/-- The entry into MUTE or QUIET reads no more of the state it is made on than these fields (R134, R135). -/
theorem FrozenFrom.of_alike {s u t : State} {l : Life} {c : MuteCause} (h : FrozenFrom u t l c) (hctl : u.ctl = s.ctl)
    (hclock : u.clock = s.clock) (hroster : u.roster = s.roster) (hbuilder : u.builder = s.builder)
    (hwindow : u.window = s.window) (hadjust : u.adjust = s.adjust) (hchannels : u.channels = s.channels)
    (hpool : u.pool = s.pool) (hdrives : u.drives = s.drives) (hreply : u.port.reply = s.port.reply)
    (htxn : u.port.txn = s.port.txn) (hinputs : u.inputs = s.inputs) (hpending : u.pending = s.pending) :
    FrozenFrom s t l c := by
  simpa only [FrozenFrom, DrivesFollow, hctl, hclock, hroster, hbuilder, hwindow, hadjust, hchannels, hpool, hdrives,
    hreply, htxn, hinputs, hpending] using h

/-- One conflict more, with its event; the third mutes (R50). -/
def State.conflictCounted (s : State) : State :=
  { s with roster := { s.roster with conflicts := s.roster.conflicts + 1, conflictFree := 0 } }.raise .roster
    .identityConflict (some s.own) (BitVec.ofNat 16 (s.roster.conflicts + 1))

theorem State.countConflict_eq (s : State) : s.countConflict =
    if 2 ≤ s.roster.conflicts then s.conflictCounted.enterFrozen .mute .identity else s.conflictCounted := by
  by_cases h : 2 ≤ s.roster.conflicts
  · rw [if_pos h]; exact s.countConflict_mutes h
  · rw [if_neg h]; exact s.countConflict_counts (by omega)

/-- A third conflict mutes with its event at the step's end (R50, R134). -/
theorem State.countConflict_third (s : State) (h : 2 ≤ s.roster.conflicts) (hr : s.ctl.inReset = false) :
    FrozenFrom (s.withConflicts (s.roster.conflicts + 1) 0) s.countConflict.finish .mute .identity := by
  have frozen : FrozenFrom s.conflictCounted (s.conflictCounted.enterFrozen .mute .identity).finish .mute .identity :=
    s.conflictCounted.enterFrozen_finish .mute .identity (.inl rfl) hr
  rw [s.countConflict_eq, if_pos h]
  exact frozen.of_alike rfl rfl rfl rfl rfl rfl rfl rfl rfl rfl rfl rfl rfl

/-- A frame that is no slot REPORT loses arbitration and leaves its sender's books alone (R25, R26). -/
theorem arbitrationLost_of_other (s : State) (dt : Nat) (x : Tx) (h : Ready s) (hx : s.line.tx = some x)
    (ho : ∀ e : Epoch, x.owner ≠ .slot e) : exec (.arbitrationLost dt) s = .next
      { s.later dt with line := { s.line with tx := none, state := .busy, overlap := true } } := by
  have heq := (s.later dt).arbitrationLost_other x hx ho
  refine (s.outside_ready dt _ h.1 ?_).trans ?_
  · rw [heq]; exact h
  · rw [heq]; rfl

/-- What the loss of a slot REPORT comes to before it counts as a conflict: a RESEND is offered (R26, R58). -/
theorem State.outbid_offered (s : State) (e : Epoch) :
    (s.outbid.offerKey (.resend e)).clock = s.clock ∧ (s.outbid.offerKey (.resend e)).roster = s.roster ∧
    (s.outbid.offerKey (.resend e)).ctl = s.ctl ∧ (s.outbid.offerKey (.resend e)).builder = s.builder ∧
    (s.outbid.offerKey (.resend e)).window = s.window ∧ (s.outbid.offerKey (.resend e)).adjust = s.adjust ∧
    (s.outbid.offerKey (.resend e)).channels = s.channels ∧ (s.outbid.offerKey (.resend e)).port = s.port ∧
    (s.outbid.offerKey (.resend e)).line.tx = none ∧ (s.outbid.offerKey (.resend e)).line.state = .busy ∧
    (s.outbid.offerKey (.resend e)).line.overlap = true := by
  obtain ⟨tx, state, overlap, -, -⟩ := s.outbid.offerKey_line (.resend e)
  rw [tx, state, overlap]
  simp [State.outbid]

/-- A slot REPORT that loses arbitration waits as a RESEND and counts as an identity conflict (R26, R48, R50, R58). -/
theorem arbitrationLost_of_slot (s : State) (dt : Nat) (x : Tx) (e : Epoch) (h : Ready s) (hx : s.line.tx = some x)
    (ho : x.owner = .slot e) : ∃ t, exec (.arbitrationLost dt) s = .next t ∧ t.line.tx = none ∧
      t.roster.conflicts = s.roster.conflicts + 1 ∧ t.roster.conflictFree = 0 ∧ t.roster.entries = s.roster.entries ∧
      Reported t { kind := .identityConflict, epoch := s.clock.cur, subject := some s.own
                   value := BitVec.ofNat 16 (s.roster.conflicts + 1) } ∧
      (s.roster.conflicts < 2 → t.line.overlap = true ∧ t.line.state = .busy ∧ t.ctl = s.ctl ∧ t.builder = s.builder ∧
        t.clock = s.clock ∧
        (s.ctl.life = .run → s.line.queue.length < 8 → ∃ q ∈ t.line.queue, q.key = .resend e)) ∧
      (2 ≤ s.roster.conflicts → t.ctl.life = .mute ∧ t.ctl.cause = .identity ∧ t.drives.fault = true ∧
        t.line.queue = []) ∧
      t.window = s.window ∧ t.adjust = s.adjust ∧ t.channels = s.channels ∧ t.port.reply = s.port.reply := by
  have heq := (s.later dt).arbitrationLost_slot x e hx ho
  have offered := (s.later dt).outbid_offered e
  have waits := (s.later dt).outbid.offerKey_waits (.resend e)
  generalize (s.later dt).outbid.offerKey (.resend e) = lost at heq offered waits
  obtain ⟨fclock, froster, fctl, fbuilder, fwindow, fadjust, fchannels, fport, ftx, fstate, foverlap⟩ := offered
  obtain ⟨-, -, croster, cwindow, cadjust, cchannels, -, -, -⟩ := lost.countConflict_frame
  have event := State.finish_reported _ lost.countConflict_mem
  rw [fclock, froster, State.own, fctl] at event
  rw [froster] at croster
  have third : 2 ≤ s.roster.conflicts → FrozenFrom (lost.withConflicts (lost.roster.conflicts + 1) 0)
      lost.countConflict.finish .mute .identity := fun hc =>
    lost.countConflict_third (by rw [froster]; exact hc) (by rw [fctl]; exact h.1)
  have counts : s.roster.conflicts < 2 → lost.countConflict.line = lost.line ∧ lost.countConflict.ctl = lost.ctl ∧
      lost.countConflict.builder = lost.builder ∧ lost.countConflict.clock = lost.clock := fun hc => by
    rw [lost.countConflict_counts (by rw [froster]; exact hc)]; exact ⟨rfl, rfl, rfl, rfl⟩
  refine ⟨lost.countConflict.finish, (s.outside_eq dt _ h.1).trans (congrArg (fun u => Host.Outcome.next u.finish) heq), ?_,
    congrArg Roster.conflicts croster, congrArg Roster.conflictFree croster, (congrArg Roster.entries croster : _), event,
    fun hc => ?_, fun hc => ?_, cwindow.trans fwindow, cadjust.trans fadjust, cchannels.trans fchannels,
    lost.countConflict_raised.reply.trans (congrArg Port.reply fport)⟩
  · by_cases hc : s.roster.conflicts < 2
    · exact (congrArg Line.tx (counts hc).1).trans ftx
    · obtain ⟨-, -, -, -, -, -, -, -, -, htx, -⟩ := third (by omega)
      exact htx
  · obtain ⟨cline, cctl, cbuilder, cclock⟩ := counts hc
    refine ⟨(congrArg Line.overlap cline).trans foverlap, (congrArg Line.state cline).trans fstate, cctl.trans fctl,
      cbuilder.trans fbuilder, cclock.trans fclock, fun hr hq => ?_⟩
    obtain ⟨q, hm, hk⟩ := waits hr hq
    exact ⟨q, (congrArg Line.queue cline).symm ▸ hm, hk⟩
  · obtain ⟨flife, fcause, -, -, -, -, -, -, -, -, fqueue, -, -, -, -, -, -, -, -, -, -, ffault, -⟩ := third hc
    exact ⟨flife, fcause, ffault, fqueue⟩

/-- A drive fault with the line released, whoever owned the frame (R24, R25). -/
theorem driveFault_of_line (s : State) (dt : Nat) (h : Ready s) {l : Line} (heq : (s.later dt).driveFault =
    { s.later dt with line := l }) : exec (.driveFault dt) s = .next { s.later dt with line := l } := by
  refine (s.outside_ready dt _ h.1 (by rw [heq]; exact h)).trans ?_
  rw [heq]

/-- Settles O26, by the owner of the frame that is lost: only a slot REPORT is offered as a RESEND, and only by losing
arbitration is it a conflict. -/
theorem framesAreLost : Obligations.FramesAreLost := by
  unfold Obligations.FramesAreLost
  intro s dt x h hx
  refine ⟨arbitrationLost_of_other s dt x h hx, fun e => arbitrationLost_of_slot s dt x e h hx, ?_⟩
  have released := (s.later dt).faulted_line
  by_cases ho : ∃ e : Epoch, x.owner = .slot e
  · obtain ⟨e, ho⟩ := ho
    have heq := (s.later dt).driveFault_slot x e hx ho
    have line := (s.later dt).faulted.offerKey_line (.resend e)
    have offered := (s.later dt).faulted_offered e
    have waits := (s.later dt).faulted.offerKey_waits (.resend e)
    generalize (s.later dt).faulted.offerKey (.resend e) = lost at heq line offered waits
    obtain ⟨ltx, -, -, ldiscarded, -⟩ := line
    obtain ⟨lnow, lclock, lroster, lbuilder, lwindow, lpool, ladjust, lctl, lchannels, ldrives, lport⟩ := offered
    have ready : Ready lost := h.of_same (by rw [lctl]; rfl) (by rw [lctl]; rfl) lport (by rw [lpool]; rfl) (by rw [ldrives]; rfl)
    refine ⟨lost, (s.outside_ready dt _ h.1 (by rw [heq]; exact ready)).trans (congrArg _ heq), lnow, ltx.trans released.1,
      ldiscarded.trans released.2.1, fun hn => absurd ho (hn e), fun e' ho' hr hq => ?_, lclock, lroster, lbuilder, lwindow,
      lpool, ladjust, lctl, lchannels, ldrives, lport⟩
    obtain rfl : e = e' := by injection ho.symm.trans ho'
    exact waits hr hq
  · have hn : ∀ e : Epoch, x.owner ≠ .slot e := fun e k => ho ⟨e, k⟩
    obtain ⟨taken, heq⟩ := (s.later dt).driveFault_other x hx hn
    exact ⟨_, driveFault_of_line s dt h heq, rfl, released.1, released.2.1, fun _ => released.2.2,
      fun e ho' => absurd ho' (hn e), rfl, rfl, rfl, rfl, rfl, rfl, rfl, rfl, rfl, rfl⟩

end Sys2Proof.Machine
end


section
/-! A MARK at the epoch clock: the epoch it begins, what it is taken as, and the marks that are set aside (R3, R10, R11). -/

namespace Sys2Proof.Machine

/-! ### A state on the books of another -/

/-- u stands on the books of s: clock, line state, conflict counts, draws and events on their way may differ, and what a
mark's responses read or leave alone may not. -/
structure SameBooks (s u : State) : Prop where
  window : u.window = s.window
  pool : u.pool = s.pool
  adjust : u.adjust = s.adjust
  ctl : u.ctl = s.ctl
  entries : u.roster.entries = s.roster.entries
  reference : u.roster.reference = s.roster.reference
  builder : u.builder = s.builder
  channels : u.channels = s.channels
  drives : u.drives = s.drives
  discarded : u.line.discarded = s.line.discarded
  queue : u.line.queue = s.line.queue
  reply : u.port.reply = s.port.reply
  pending : u.pending = s.pending

theorem SameBooks.trans {a b c : State} (h : SameBooks a b) (k : SameBooks b c) : SameBooks a c :=
  ⟨k.window.trans h.window, k.pool.trans h.pool, k.adjust.trans h.adjust, k.ctl.trans h.ctl, k.entries.trans h.entries,
    k.reference.trans h.reference, k.builder.trans h.builder, k.channels.trans h.channels, k.drives.trans h.drives,
    k.discarded.trans h.discarded, k.queue.trans h.queue, k.reply.trans h.reply, k.pending.trans h.pending⟩

theorem State.heard_books (s : State) (dt : Nat) : SameBooks s (s.heard dt) :=
  ⟨rfl, rfl, rfl, rfl, rfl, rfl, rfl, rfl, rfl, rfl, rfl, rfl, rfl⟩

theorem State.draw_books (s : State) : SameBooks s s.draw :=
  ⟨rfl, rfl, rfl, rfl, rfl, rfl, rfl, rfl, rfl, rfl, rfl, rfl, rfl⟩

theorem State.conflictCounted_books (s : State) : SameBooks s s.conflictCounted :=
  ⟨rfl, rfl, rfl, rfl, rfl, rfl, rfl, rfl, rfl, rfl, rfl, rfl, rfl⟩

theorem State.raise_books (s : State) (b : Block) (k : EventKind) (n : Option Station) (v : BitVec 16) :
    SameBooks s (s.raise b k n v) :=
  ⟨rfl, rfl, rfl, rfl, rfl, rfl, rfl, rfl, rfl, rfl, rfl, rfl, rfl⟩

/-! ### The epoch a MARK begins -/

/-- The epoch clock's own part as it takes epoch x from station n at the present instant (R4, R11, R12). -/
def State.tookEpoch (s : State) (x : Epoch) (n : Station) : State :=
  (s.beginEpoch x (some n) s.now 0).reloadInRun s.now

theorem State.acceptMark_eq (s : State) (f : MarkFrame) : s.acceptMark f = (s.tookEpoch f.epoch f.sender).takeMark true := rfl

theorem State.takeDiscontinuity_eq (s : State) (x : Epoch) (n : Station) : s.takeDiscontinuity x n =
    ((s.tookEpoch x n).raise .clock .discontinuity (some n) s.clock.cur).discontinuityResponses := by
  unfold State.takeDiscontinuity State.tookEpoch State.reloadInRun
  split <;> rfl

theorem State.tookEpoch_clock (s : State) (x : Epoch) (n : Station) :
    (s.tookEpoch x n).clock = s.clockTook x n s.now s.ctl.life := by
  unfold State.tookEpoch State.reloadInRun State.clockTook
  split
  next h =>
    rw [if_pos (by simpa using h)]
    simp [State.reloadMarkTimer_clock, State.markInterval, State.period, State.bits, State.own, add_assoc]
  next h => rw [if_neg (by simpa using h)]; rfl

theorem State.tookEpoch_frame (s : State) (x : Epoch) (n : Station) : (s.tookEpoch x n).now = s.now ∧
    (s.tookEpoch x n).line = { s.line with slotWaiting := none } ∧ (s.tookEpoch x n).port = s.port ∧
    (s.tookEpoch x n).roster = s.roster := by
  unfold State.tookEpoch State.reloadInRun
  split <;> exact ⟨rfl, rfl, rfl, rfl⟩

theorem State.tookEpoch_books (s : State) (x : Epoch) (n : Station) : SameBooks s (s.tookEpoch x n) := by
  unfold State.tookEpoch State.reloadInRun
  split <;> exact ⟨rfl, rfl, rfl, rfl, rfl, rfl, rfl, rfl, rfl, rfl, rfl, rfl, rfl⟩

/-! ### What a MARK is taken as -/

/-- A MARK that would be neither accepted nor a discontinuity ends no departure (R133). -/
theorem State.wouldTake_false {s : State} {f : MarkFrame} (h : 0 < s.clock.probation ∨ s.ctl.digest ≠ some f.digest ∨
    f.epoch = s.clock.cur ∨ (f.epoch ≠ s.clock.cur + 1 ∧ s.atOrBelowPacing f.sender = false)) : s.wouldTake f = false := by
  unfold State.wouldTake
  rcases h with h | h | h | ⟨h, k⟩
  · simp [Nat.ne_of_gt h]
  · simp [h]
  · simp [h]
  · simp [k, show ¬f.epoch = s.clock.cur + 1#16 from h]

/-- In JOINING, and in RUN past the probation, a matching MARK goes by the continuity table (R10, R11). -/
theorem State.clockMark_continuity (s : State) (f : MarkFrame) (hl : s.ctl.life = .run ∨ s.ctl.life = .joining)
    (hd : s.ctl.digest = some f.digest) (hp : s.ctl.life = .run → s.clock.probation = 0) : s.clockMark f = s.continuity f := by
  unfold State.clockMark
  rcases hl with h | h
  · simp [h, hd, hp h]
  · simp [h, hd]

/-- In JOINING and RUN a mismatched MARK is set aside with its event (R10). -/
theorem State.clockMark_mismatched (s : State) (f : MarkFrame) (hl : s.ctl.life = .run ∨ s.ctl.life = .joining)
    (hd : s.ctl.digest ≠ some f.digest) : s.clockMark f = s.profileConflict f := by
  unfold State.clockMark
  rcases hl with h | h <;> simp [h, hd]

theorem State.continuity_next (s : State) (f : MarkFrame) (h : f.epoch = s.clock.cur + 1) :
    s.continuity f = s.acceptMark f := if_pos h

theorem State.continuity_repeated (s : State) (f : MarkFrame) (h : f.epoch = s.clock.cur) : s.continuity f = s := by
  unfold State.continuity
  rw [if_neg (by rw [h]; simp), if_pos h]

theorem State.atOrBelowPacing_some {s : State} {p : Station} (h : s.clock.pacing = some p) (n : Station) :
    s.atOrBelowPacing n = decide (n ≤ p) := by
  simp [State.atOrBelowPacing, h]

theorem State.continuity_unexpected (s : State) (f : MarkFrame) (hc : f.epoch ≠ s.clock.cur) (hn : f.epoch ≠ s.clock.cur + 1)
    {p : Station} (hp : s.clock.pacing = some p) (hs : f.sender ≤ p) :
    s.continuity f = s.takeDiscontinuity f.epoch f.sender := by
  unfold State.continuity
  rw [if_neg hn, if_neg hc, s.atOrBelowPacing_some hp, if_pos (by simpa using hs)]

theorem State.continuity_foreign (s : State) (f : MarkFrame) (hc : f.epoch ≠ s.clock.cur) (hn : f.epoch ≠ s.clock.cur + 1)
    {p : Station} (hp : s.clock.pacing = some p) (hs : p < f.sender) : s.continuity f = s.foreignMark f := by
  unfold State.continuity
  rw [if_neg hn, if_neg hc, s.atOrBelowPacing_some hp, if_neg (by simpa using hs)]

/-! ### Marks set aside -/

/-- One event on a ready state is all that the step's end shows. -/
theorem Ready.finish_raise {s : State} (h : Ready s) (b : Block) (k : EventKind) (n : Option Station) (v : BitVec 16) :
    (s.raise b k n v).finish = { s with port := s.port.took { kind := k, epoch := s.clock.cur, subject := n, value := v } } := by
  obtain ⟨hr, ha, -, -, hf⟩ := h
  have hone : (s.raise b k n v).port.arising = [(b, { kind := k, epoch := s.clock.cur, subject := n, value := v })] := by
    simp [State.raise, ha]
  rw [(s.raise b k n v).finish_one hr hone (hf.trans (by rw [hr]; rfl))]
  simp only [State.raise, Port.took, ← ha]

/-- Settles O30: a repeated MARK, one foreign to the continuity table and one of another profile would end no departure, and
each leaves the epoch clock with at most an event. -/
theorem otherMarksAreIgnored : Obligations.OtherMarksAreIgnored := by
  unfold Obligations.OtherMarksAreIgnored
  intro s dt f h hc hl hn
  have ready := h.heard dt
  have aside : ∀ hw : (s.heard dt).wouldTake f = false, exec (.markReceived dt f) s = .next ((s.heard dt).clockMark f).finish :=
    fun hw => by rw [exec_markReceived s dt f h hc, State.markIn_clock _ _ _ (.inr hw) hn]
  refine ⟨fun hk hcur => ?_, fun p hk hcur hnext hp hlt => ?_, fun hd => ?_⟩
  · rw [aside (State.wouldTake_false (.inr (.inr (.inl hcur)))), (s.heard dt).clockMark_continuity f hl hk.1 hk.2,
      (s.heard dt).continuity_repeated f hcur, ready.finish]
  · have above : (s.heard dt).atOrBelowPacing f.sender = false := by
      rw [(s.heard dt).atOrBelowPacing_some hp]; simpa using hlt
    rw [aside (State.wouldTake_false (.inr (.inr (.inr ⟨hnext, above⟩)))), (s.heard dt).clockMark_continuity f hl hk.1 hk.2,
      (s.heard dt).continuity_foreign f hcur hnext hp hlt, State.foreignMark, ready.finish_raise]
    rfl
  · rw [aside (State.wouldTake_false (.inr (.inl hd))), (s.heard dt).clockMark_mismatched f hl hd, State.profileConflict,
      ready.finish_raise]
    rfl

end Sys2Proof.Machine
end


section
/-! Marks as they are taken in RUN and in JOINING (R6, R11, R64, R99, R127). -/

namespace Sys2Proof.Machine

/-! ### A mark in RUN -/

/-- What a mark captured stays, where outbox, carries, channels, rules, modes and balances stay and the pins follow. -/
theorem CapturedAtMark.congr {s a u t : State} {x : Epoch} {d : Bool} (h : CapturedAtMark a u x d)
    (hp : a.ctl.profile = s.ctl.profile) (hb : a.builder = s.builder) (hc : a.channels = s.channels)
    (hd : ∀ i : Fin 4, (a.drives.drives.get i).rule = (s.drives.drives.get i).rule ∧
      (a.drives.drives.get i).mode = (s.drives.drives.get i).mode) (tb : t.builder = u.builder) (tc : t.channels = u.channels)
    (td : ∀ i : Fin 4, (t.drives.drives.get i).rule = (u.drives.drives.get i).rule ∧
      (t.drives.drives.get i).mode = (u.drives.drives.get i).mode)
    (tt : t.pool.table = u.pool.table) (pins : PinsFollow t) : CapturedAtMark s t x d := by
  obtain ⟨last, carry, channels, rules, -, modes⟩ := h
  have total : ∀ p, a.captureTotal p = s.captureTotal p := by
    intro p; simp only [State.captureTotal, State.handedOver, hp, hb, hc]
  refine ⟨?_, fun p => ?_, fun i => ?_, fun i => ?_, pins, fun i => ?_⟩
  · rw [tb, last, State.captureDeltas_congr hb hc hp]
  · rw [tb, carry, total, hp, hb]
  · rw [tc, channels, hp, hc]
  · have r := rules i
    rw [hp, (hd i).1] at r
    rw [(td i).1, tt]
    exact r
  · rw [(td i).2, modes, (hd i).2]

theorem PinsFollow.congr {u t : State} (h : PinsFollow u) (hc : t.ctl = u.ctl)
    (ha : t.pool.agreement = u.pool.agreement) (hd : t.drives.drives = u.drives.drives) : PinsFollow t := by
  rw [PinsFollow, hc, ha, hd]; exact h

theorem CapturedAtMark.of_shows {s a u t : State} {x : Epoch} {d : Bool} (h : CapturedAtMark a u x d) (hs : SameBooks s a)
    (ht : Shows u t) : CapturedAtMark s t x d := by
  have pins : PinsFollow u := h.2.2.2.2.1
  exact h.congr (by rw [hs.ctl]) hs.builder hs.channels (fun i => by rw [hs.drives]; exact ⟨rfl, rfl⟩) ht.builder ht.channels
    (fun i => by rw [ht.drives]; exact ⟨rfl, rfl⟩) (by rw [ht.pool]) (pins.congr ht.ctl (by rw [ht.pool]) ht.drives)

/-- What every mark on the books of s does to its counts (R24, R50). -/
theorem CountedAtMark.of_shows {s a t : State} {d : Bool} (hs : SameBooks s a) (ht : Shows (a.takeMark d) t)
    (hf : ConflictFree s t) : CountedAtMark s t a.clock.cur := by
  refine ⟨by rw [ht.line, State.takeMark_discarded], fun hd => ?_, hf⟩
  have h := ht.reported _ _ (a.takeMark_lineError d (by rw [hs.discarded]; exact hd))
  rwa [hs.discarded] at h

/-- The state at a mark, its counts and events on their way but for which it is a. -/
theorem SameBooks.atMark {s a : State} (hs : SameBooks s a) : AtMark s a.reportDiscarded.conflictFreeMark a.clock.cur := by
  simp [AtMark, hs.window, hs.pool, hs.adjust, hs.ctl, hs.entries, hs.reference]

theorem State.takeMark_reply (s : State) (d : Bool) : (s.takeMark d).port.reply = s.port.reply :=
  (s.takeMark_raised d).reply

/-- A mark on the books of s, taken in RUN, as every state shows it that ends its step (R64). -/
theorem MarkedInRun.of_shows {s a t : State} (hs : SameBooks s a) (hr : s.ctl.life = .run) (ht : Shows (a.takeMark true) t)
    (hf : ConflictFree s t) : MarkedInRun s t a.clock.cur := by
  have har : a.ctl.life = .run := by rw [hs.ctl, hr]
  obtain ⟨head, asked, -, -, -, -, ctl, -⟩ := a.takeMark_run_spec true har
  obtain ⟨pool, window⟩ := a.takeMark_pool_run true har
  obtain ⟨-, entries, reference, -, -, pending⟩ := a.takeMark_frame true
  refine ⟨?_, ht.window ▸ asked, (a.takeMark_captured true (.inl har)).of_shows hs ht, .of_shows hs ht hf, ?_, ?_, ?_, ?_, ?_, ?_,
    a.reportDiscarded.conflictFreeMark, hs.atMark, pool.congr ht.pool (by rw [ht.adjust]), ht.window.trans window⟩
  · rw [ht.window, head]
    simp only [State.entry, State.own, hs.entries, hs.ctl]
  · rw [ht.ctl, ctl, hs.ctl]
  · rw [ht.entries, entries, hs.entries]
  · rw [ht.reference, reference, hs.reference]
  · rw [ht.adjust, State.takeMark_lastSerial, hs.adjust]
  · rw [ht.reply, State.takeMark_reply, hs.reply]
  · rw [ht.pending, pending, hs.pending]

/-- The epoch clock in RUN past its own part: neither it nor the line's queue is the blocks' to move (R64). -/
theorem State.takeMark_run_clock (a : State) (hr : a.ctl.life = .run) : (a.takeMark true).clock = a.clock :=
  (a.takeMark_run_spec true hr).2.2.2.2.2.2.2

theorem ConflictFree.of_books {s a t : State} (h : ConflictFree a t) (hr : a.roster = s.roster) : ConflictFree s t := by
  rw [ConflictFree, ← hr]; exact h

/-- Settles O29: the accepted MARK takes its epoch, and the mark's responses are those of any mark in RUN. -/
theorem nextMarkIsAccepted : Obligations.NextMarkIsAccepted := by
  unfold Obligations.NextMarkIsAccepted
  intro s dt f h hc hr hd hp hl hn he
  set a := (s.heard dt).tookEpoch f.epoch f.sender with ha
  have books : SameBooks s a := (s.heard_books dt).trans ((s.heard dt).tookEpoch_books _ _)
  obtain ⟨anow, aline, -, aroster⟩ := (s.heard dt).tookEpoch_frame f.epoch f.sender
  have aclock : a.clock = s.clockTook f.epoch f.sender (s.now + dt) .run := by
    rw [ha, State.tookEpoch_clock, State.heard_ctl, hr]; rfl
  have har : a.ctl.life = .run := by rw [books.ctl, hr]
  have exec_eq : exec (.markReceived dt f) s = .next (a.takeMark true).finish := by
    rw [exec_markReceived s dt f h hc, (s.heard dt).markIn_clock f _ (.inl (State.inLeavingEpoch_false (.inr hl))) hn,
      (s.heard dt).clockMark_continuity f (.inl hr) hd (fun _ => hp), (s.heard dt).continuity_next f he, State.acceptMark_eq]
  have shows := (a.takeMark true).finish_shows
  have line : (a.takeMark true).finish.line = { s.line with
      state := .idle (s.now + dt), overlap := false, taken := false, slotWaiting := none, discarded := 0 } := by
    rw [shows.line, State.takeMark_line_direct, aline]; rfl
  have counts : ConflictFree s (a.takeMark true).finish :=
    ConflictFree.of_books (a := a) (a.takeMark_conflictFree true) aroster
  have marked := MarkedInRun.of_shows books hr shows counts
  rw [show a.clock.cur = s.clock.cur + 1 by rw [aclock]; exact he] at marked
  refine ⟨_, exec_eq, ?_, ?_, ?_, ?_, ?_, marked⟩
  · rw [shows.now, (a.takeMark_frame true).1, anow]; rfl
  · rw [shows.clock, a.takeMark_run_clock har, aclock]
    simp [State.clockTook, hp, he]
  · rw [line]; exact State.canReceive_tx hc
  · rw [line]
  · rw [line]

/-! ### The station's own mark -/

/-- The state in which this station's own MARK has gone out whole and its epoch is taken (R6). -/
def State.ownMarkTook (s : State) (x : Tx) : State :=
  let out := s.frameOut x
  let took := (out.beginEpoch (out.clock.cur + 1) (some out.own) out.now 0).reloadMarkTimer out.now
  { took with clock := { took.clock with probation := took.clock.probation - 1 } }

theorem State.ownMark_eq (s : State) (x : Tx) (h : s.line.tx = some x) (ho : x.owner = .mark) (hr : s.ctl.life = .run) :
    s.ownMark = (s.ownMarkTook x).takeMark true := by
  unfold State.ownMark
  rw [h]
  exact if_pos ⟨ho, hr⟩

theorem State.ownMarkTook_books (s : State) (x : Tx) : SameBooks s (s.ownMarkTook x) :=
  ⟨rfl, rfl, rfl, rfl, rfl, rfl, rfl, rfl, rfl, rfl, rfl, rfl, rfl⟩

theorem State.ownMarkTook_frame (s : State) (x : Tx) : (s.ownMarkTook x).now = s.due (s.txEnd x) ∧
    (s.ownMarkTook x).clock =
      { cur := s.clock.cur + 1, pacing := some s.own
        timer := .running (s.due (s.txEnd x) + s.period + s.bits (64 * (s.own.val : Int)))
        pending := false, origin := some (s.due (s.txEnd x)), slotTimer := .slots, slotCount := 0
        probation := s.clock.probation - 1 } ∧
    (s.ownMarkTook x).line = { s.line with
      tx := none, state := .idle (s.due (s.txEnd x)), overlap := false, taken := false, slotWaiting := none } ∧
    (s.ownMarkTook x).roster = s.roster := by
  have now : (s.frameOut x).now = s.due (s.txEnd x) := State.until_now _ _
  refine ⟨now, ?_, ?_, rfl⟩
  · simp only [← now, add_assoc]; rfl
  · rw [← now]; rfl

/-- Settles O28: the expiry makes the MARK pending, its beginning builds it, and its end takes the epoch and makes the mark's
responses, which are those of any mark in RUN. -/
theorem ownMarkIsTaken : Obligations.OwnMarkIsTaken := by
  unfold Obligations.OwnMarkIsTaken
  intro s h hr
  refine ⟨fun x hx => ?_, fun x hp htx hi => ?_, fun x hx ho => ?_⟩
  · have heq : s.markExpiry = { s with now := s.due x, clock := { s.clock with timer := .expired, pending := true } } := by
      simp [State.markExpiry, hx, hr]
    refine (s.inside_ready _ h.1 ?_).trans (congrArg _ heq)
    rw [heq]; exact h
  · have heq : s.markBegins = { s.until (x + s.bits 12) with line := { s.line with
        state := .busy
        tx := some { frame := .mark (s.until (x + s.bits 12)).buildMark, began := (s.until (x + s.bits 12)).now
                     owner := .mark, changed := false } } } := by
      unfold State.markBegins
      rw [hi]
      exact if_pos ⟨hr, hp, htx⟩
    refine (s.inside_ready _ h.1 ?_).trans (congrArg _ (heq.trans ?_))
    · rw [heq]; exact h
    · rw [State.until_eq]; rfl
  · obtain ⟨anow, aclock, aline, aroster⟩ := s.ownMarkTook_frame x
    have books := s.ownMarkTook_books x
    have har : (s.ownMarkTook x).ctl.life = .run := by rw [books.ctl, hr]
    have shows := ((s.ownMarkTook x).takeMark true).finish_shows
    have line : ((s.ownMarkTook x).takeMark true).finish.line = { s.line with
        tx := none, state := .idle (s.due (s.txEnd x)), overlap := false, taken := false, slotWaiting := none
        discarded := 0 } := by
      rw [shows.line, State.takeMark_line_direct, aline]
    have counts : ConflictFree s ((s.ownMarkTook x).takeMark true).finish :=
      ConflictFree.of_books (a := s.ownMarkTook x) (State.takeMark_conflictFree _ true) aroster
    have marked := MarkedInRun.of_shows books hr shows counts
    rw [show (s.ownMarkTook x).clock.cur = s.clock.cur + 1 by rw [aclock]] at marked
    refine ⟨_, ?_, ?_, ?_, by rw [line], by rw [line], by rw [line], marked⟩
    · rw [← s.ownMark_eq x hx ho hr]
      exact s.inside_eq State.ownMark h.1
    · rw [shows.now, (State.takeMark_frame _ true).1, anow]
    · rw [shows.clock, State.takeMark_run_clock _ har, aclock]

end Sys2Proof.Machine
end


section
/-! Discontinuities, and the marks that JOINING takes (R11, R12, R77, R95, R127, R131). -/

namespace Sys2Proof.Machine

/-! ### Discontinuities -/

/-- In RUN and JOINING the blocks' responses leave the shared part of a discontinuity but for agreement state and target, the
controller's counts and timer, and the drives (R95, R130, R131, R158). -/
theorem State.discontinuityResponses_blocks (s : State) : ∃ (ag : Agreement) (tg : Option Station),
    s.discontinuityResponses.now = s.now ∧ s.discontinuityResponses.clock = s.clock ∧
    s.discontinuityResponses.line = { s.line with
      discarded := 0, queue := s.line.queue.filter (fun e => e.key != .request) } ∧
    s.discontinuityResponses.roster = s.reportDiscarded.conflictFreeMark.roster ∧
    s.discontinuityResponses.window = .reset ∧
    s.discontinuityResponses.builder = { s.withdrawAll.builder with outbox := [] } ∧
    s.discontinuityResponses.adjust = { s.adjust with queue := [] } ∧ s.discontinuityResponses.channels = s.channels ∧
    s.discontinuityResponses.pending = s.pending ∧
    s.discontinuityResponses.pool = { s.discontinuityBlocks.pool with agreement := ag, target := tg } := by
  obtain ⟨now, clock, -, line, roster, window, builder, adjust, channels, -, -, pending⟩ := s.discontinuityBlocks_fields
  rw [State.discontinuityResponses_eq]
  split
  · refine ⟨.resyncing, s.discontinuityBlocks.roster.reference, ?_⟩
    simp [now, clock, line, roster, window, builder, adjust, channels, pending]
  · split
    · refine ⟨s.discontinuityBlocks.pool.agreement, s.discontinuityBlocks.pool.target, ?_⟩
      simp [State.reloadSilence, now, clock, line, roster, window, builder, adjust, channels, pending]
    · exact ⟨s.discontinuityBlocks.pool.agreement, s.discontinuityBlocks.pool.target, now, clock, line, roster, window,
        builder, adjust, channels, pending, rfl⟩

/-- The state in which the epoch of a discontinuity is taken and its event raised, the blocks' responses to come (R12). -/
def State.discontinued (s : State) (x : Epoch) (n : Station) : State :=
  (s.tookEpoch x n).raise .clock .discontinuity (some n) s.clock.cur

theorem State.discontinued_books (s : State) (x : Epoch) (n : Station) : SameBooks s (s.discontinued x n) :=
  (s.tookEpoch_books x n).trans (State.raise_books _ _ _ _ _)

theorem State.discontinued_frame (s : State) (x : Epoch) (n : Station) : (s.discontinued x n).now = s.now ∧
    (s.discontinued x n).clock = s.clockTook x n s.now s.ctl.life ∧ (s.discontinued x n).roster = s.roster :=
  ⟨(s.tookEpoch_frame x n).1, s.tookEpoch_clock x n, (s.tookEpoch_frame x n).2.2.2⟩

theorem State.discontinued_mem (s : State) (x : Epoch) (n : Station) :
    (Block.clock, { kind := .discontinuity, epoch := x, subject := some n, value := s.clock.cur }) ∈
      (s.discontinued x n).port.arising := by
  have h := State.raise_mem (s.tookEpoch x n) .clock .discontinuity (some n) s.clock.cur
  rw [s.tookEpoch_clock] at h
  exact h

/-- What a mark counts toward the end of conflicts is decided by the roster alone (R50). -/
theorem State.conflictFreeMark_roster_congr {a b : State} (h : a.roster = b.roster) :
    a.conflictFreeMark.roster = b.conflictFreeMark.roster := by
  unfold State.conflictFreeMark
  rw [h]
  split
  · exact h
  · split
    · rfl
    · rfl

/-- The clock and the instant of a discontinuity are the epoch clock's own part (R12). -/
theorem State.takeDiscontinuity_frame (s : State) (x : Epoch) (n : Station) : (s.takeDiscontinuity x n).now = s.now ∧
    (s.takeDiscontinuity x n).clock = s.clockTook x n s.now s.ctl.life ∧
    (s.takeDiscontinuity x n).roster = s.reportDiscarded.conflictFreeMark.roster := by
  obtain ⟨-, -, now, clock, -, roster, -⟩ := (s.discontinued x n).discontinuityResponses_blocks
  obtain ⟨fnow, fclock, froster⟩ := s.discontinued_frame x n
  refine ⟨now.trans fnow, clock.trans fclock, roster.trans (State.conflictFreeMark_roster_congr ?_)⟩
  simp [froster]

/-- A discontinuity on the books of s, as every state shows it that ends its step (R12, R34, R50, R61, R77, R95, R113). -/
theorem Discontinued.of_shows {s u t : State} {f : MarkFrame} (hs : SameBooks s u) (hc : u.clock.cur = s.clock.cur)
    (ht : Shows (u.takeDiscontinuity f.epoch f.sender) t) (hf : ConflictFree s t) : Discontinued s t f := by
  set a := u.discontinued f.epoch f.sender with ha
  have books : SameBooks s a := hs.trans (u.discontinued_books _ _)
  obtain ⟨ag, tg, -, -, line, roster, window, builder, adjust, channels, -, pool⟩ := a.discontinuityResponses_blocks
  obtain ⟨balances, blocks⟩ := a.discontinuityBlocks_pool
  have raised := a.discontinuityResponses_raised
  have mem := u.discontinued_mem f.epoch f.sender
  rw [State.takeDiscontinuity_eq, ← State.discontinued, ← ha] at ht
  have carry := a.withdrawAll_builder.2
  have entries := congrArg Roster.entries roster
  have reference := congrArg Roster.reference roster
  rw [(books.atMark).2.2.2.2.2.1] at entries
  rw [(books.atMark).2.2.2.2.2.2] at reference
  have reply := raised.reply.trans books.reply
  have event := ht.reported _ _ (raised.mem mem)
  have tpool := ht.pool.trans pool
  rw [blocks] at tpool
  refine ⟨fun p => ?_, hf, ht.window.trans window, ?_, fun i => ?_, ?_, ?_, ?_, ?_, ?_, ?_, ?_, ?_, ?_, ?_, ?_, ?_, ?_, ?_⟩
  · rw [tpool, ← books.window, ← books.pool]; exact balances p
  · rw [ht.builder, builder]
  · rw [ht.builder, builder, ← books.builder]; exact carry i
  · rw [tpool]
  · rw [tpool]
  · rw [tpool]
  · rw [tpool]
  · rw [tpool]
  · rw [tpool, books.ctl]
  · rw [ht.adjust, adjust, books.adjust]
  · rw [ht.line, line, books.queue]
  · rw [ht.line, line]
  · rw [ht.channels, channels, books.channels]
  · rw [ht.entries, entries]
  · rw [ht.reference, reference]
  · rw [ht.reply, reply]
  · rw [← hc]; exact event

theorem State.discontinuityResponses_run (s : State) (h : s.ctl.life = .run) :
    s.discontinuityResponses = ({ s.discontinuityBlocks with pool := { s.discontinuityBlocks.pool with
      target := s.discontinuityBlocks.roster.reference } } : State).agree .resyncing := by
  rw [State.discontinuityResponses_eq, if_pos (by rw [s.discontinuityBlocks_fields.2.2.1, h])]

theorem State.discontinuityResponses_joining (s : State) (h : s.ctl.life = .joining) :
    s.discontinuityResponses = ({ s.discontinuityBlocks with ctl := { s.discontinuityBlocks.ctl with
      joinWait := 0, joinAttempts := 0 } } : State).reloadSilence := by
  rw [State.discontinuityResponses_eq, if_neg (by rw [s.discontinuityBlocks_fields.2.2.1, h]; simp),
    if_pos (by rw [s.discontinuityBlocks_fields.2.2.1, h])]

/-- A discontinuity in RUN on the books of s (R95, R158, R162). -/
theorem DiscontinuedInRun.of_shows {s u t : State} {f : MarkFrame} (hs : SameBooks s u) (hc : u.clock.cur = s.clock.cur)
    (hr : s.ctl.life = .run) (ht : Shows (u.takeDiscontinuity f.epoch f.sender) t) (hf : ConflictFree s t)
    (fault : t.drives.fault = true) : DiscontinuedInRun s t f := by
  refine ⟨.of_shows hs hc ht hf, ?_⟩
  set a := u.discontinued f.epoch f.sender with ha
  have books : SameBooks s a := hs.trans (u.discontinued_books _ _)
  have aclock := (u.discontinued_frame f.epoch f.sender).2.1
  obtain ⟨-, clock, ctl, -, roster, -, -, -, -, drives, -, -⟩ := a.discontinuityBlocks_fields
  obtain ⟨-, blocks⟩ := a.discontinuityBlocks_pool
  have responses := a.discontinuityResponses_run (by rw [books.ctl, hr])
  rw [State.takeDiscontinuity_eq, ← State.discontinued, ← ha, responses] at ht
  have tpool := ht.pool
  rw [State.agree_pool] at tpool
  have reference : a.discontinuityBlocks.roster.reference = s.roster.reference := by
    rw [roster]; exact books.atMark.2.2.2.2.2.2
  refine ⟨?_, by rw [tpool], ?_, ?_, ?_, fault⟩
  · rw [ht.ctl]; simp [ctl, books.ctl]
  · rw [tpool]; exact reference
  · rw [tpool]; exact congrArg Pool.wait blocks
  · have follow := DrivesFollow.of_refresh (s := s) (t := t) (x := ({ a.discontinuityBlocks with pool := {
      a.discontinuityBlocks.pool with target := a.discontinuityBlocks.roster.reference } } : State).setAgreement .resyncing)
      .resyncing (by simp [drives, books.drives]) (by simp [ctl, books.ctl])
      (by rw [State.agree, State.refreshDrives, State.setAgreement_pool] at ht; exact ht)
    have hcur : a.clock.cur = f.epoch := by rw [ha, aclock]; rfl
    simpa [clock, ctl, books.ctl, hr, hcur] using follow

/-- A discontinuity in JOINING on the books of s (R95, R130, R131). -/
theorem DiscontinuedInJoining.of_shows {s u t : State} {f : MarkFrame} (hs : SameBooks s u) (hc : u.clock.cur = s.clock.cur)
    (hj : s.ctl.life = .joining) (ht : Shows (u.takeDiscontinuity f.epoch f.sender) t) (hf : ConflictFree s t) :
    DiscontinuedInJoining s t f := by
  refine ⟨.of_shows hs hc ht hf, ?_⟩
  set a := u.discontinued f.epoch f.sender with ha
  have books : SameBooks s a := hs.trans (u.discontinued_books _ _)
  obtain ⟨now, -, ctl, -, -, -, -, -, -, -, -, -⟩ := a.discontinuityBlocks_fields
  obtain ⟨-, blocks⟩ := a.discontinuityBlocks_pool
  have responses := a.discontinuityResponses_joining (by rw [books.ctl, hj])
  rw [State.takeDiscontinuity_eq, ← State.discontinued, ← ha, responses] at ht
  refine ⟨?_, ?_⟩
  · have agreement : a.discontinuityBlocks.pool.agreement = a.pool.agreement := by rw [blocks]
    rw [ht.pool, ← books.pool]; exact agreement
  · rw [ht.ctl, ht.now]
    simp [State.reloadSilence, State.listenSpan, State.period, State.bits, ctl, now, books.ctl]

theorem State.takeDiscontinuity_faultWanted (s : State) (x : Epoch) (n : Station) (hr : s.ctl.life = .run) :
    (s.takeDiscontinuity x n).faultWanted = true ∧ (s.takeDiscontinuity x n).ctl = s.ctl := by
  have books := s.discontinued_books x n
  have ctl := (s.discontinued x n).discontinuityBlocks_fields.2.2.1
  rw [State.takeDiscontinuity_eq, ← State.discontinued, State.discontinuityResponses_run _ (by rw [books.ctl, hr])]
  simp [State.faultWanted, ctl, books.ctl, hr]

theorem State.takeDiscontinuity_conflictFree (s : State) (x : Epoch) (n : Station) :
    ConflictFree s (s.takeDiscontinuity x n) := by
  simp only [ConflictFree, (s.takeDiscontinuity_frame x n).2.2]
  exact s.reportDiscarded_conflictFree

/-- Settles O31: the MARK is taken as a discontinuity from the state that has heard it, and RUN's responses set FAULT. -/
theorem discontinuityIsTaken : Obligations.DiscontinuityIsTaken := by
  unfold Obligations.DiscontinuityIsTaken
  intro s dt f p h hc hr hd hp hl hn hcur hnext hpace hle
  have shows := ((s.heard dt).takeDiscontinuity f.epoch f.sender).finish_shows
  obtain ⟨now, clock, -⟩ := (s.heard dt).takeDiscontinuity_frame f.epoch f.sender
  obtain ⟨wanted, ctl⟩ := (s.heard dt).takeDiscontinuity_faultWanted f.epoch f.sender hr
  have fault : ((s.heard dt).takeDiscontinuity f.epoch f.sender).finish.drives.fault = true := by
    rw [State.finish_fault _ (by rw [ctl]; exact h.1), wanted]
  have counts : ConflictFree s ((s.heard dt).takeDiscontinuity f.epoch f.sender).finish :=
    ConflictFree.of_books (a := s.heard dt) ((s.heard dt).takeDiscontinuity_conflictFree f.epoch f.sender) rfl
  have discontinued : DiscontinuedInRun s ((s.heard dt).takeDiscontinuity f.epoch f.sender).finish f :=
    DiscontinuedInRun.of_shows (s.heard_books dt) rfl hr shows counts fault
  refine ⟨_, ?_, shows.now.trans now, ?_, discontinued⟩
  · rw [exec_markReceived s dt f h hc, (s.heard dt).markIn_clock f _ (.inl (State.inLeavingEpoch_false (.inr hl))) hn,
      (s.heard dt).clockMark_continuity f (.inl hr) hd (fun _ => hp),
      (s.heard dt).continuity_unexpected f hcur hnext hpace hle]
  · rw [shows.clock, clock]
    simp [State.clockTook, hp, hr, State.own, State.period, State.bits]

end Sys2Proof.Machine
end


section
/-! Marks in JOINING: a joiner enters RUN, or it stays (R64, R99, R127, R130, R132). -/

namespace Sys2Proof.Machine

/-- A joiner whose held snapshot passed its test, as every state shows it that ends its step (R99, R116, R130, R132). -/
theorem JoinerInstalled.of_shows {s a t : State} {d : Bool} (hs : SameBooks s a) (hi : a.installing = true)
    (ht : Shows (a.takeMark d) t) {h : HeldSnapshot} (hh : s.pool.held = some h) :
    JoinerInstalled s a.reportDiscarded.conflictFreeMark t h a.clock.cur d ∧
    t.window = ((a.reportDiscarded.conflictFreeMark.windowMark true).install h).window := by
  obtain ⟨ctl, clock, event⟩ := a.takeMark_ctl_enters d hi
  obtain ⟨⟨pool, queue, settled⟩, window⟩ := a.takeMark_pool_enters d hi (h := h) (by rw [hs.pool, hh])
  have captured := (a.takeMark_captured d (.inr hi)).of_shows hs ht
  have now : t.now = a.now := ht.now.trans (a.takeMark_frame d).1
  refine ⟨⟨⟨?_, ?_, captured, ht.reported _ _ event⟩, ?_, ?_, ?_⟩, ht.window.trans window⟩
  · rw [ht.ctl, ctl, hs.ctl]
  · rw [ht.clock, clock, now]
    simp only [State.markInterval, State.period, State.bits, State.own, hs.ctl, add_assoc]
  · rw [ht.pool, pool]
  · rw [ht.adjust, queue]
  · rw [ht.pool]; exact settled

/-- A joiner that stays at a mark, as every state shows it that ends its step (R99, R127, R130). -/
theorem JoinerStays.of_shows {s a t : State} {d : Bool} (hs : SameBooks s a) (hj : s.ctl.life = .joining)
    (hi : a.joinInstall = false) (htimer : a.clock.timer = s.clock.timer) (ht : Shows (a.takeMark d) t) :
    JoinerStays s a.reportDiscarded.conflictFreeMark t ∧ FoldedFrom a.reportDiscarded.conflictFreeMark t ∧
    t.window = (a.reportDiscarded.conflictFreeMark.windowMark false).window ∧ t.clock = a.clock ∧
    t.line = { a.line with discarded := 0 } := by
  obtain ⟨folded, held, discarded, window, -, ctl, clock, line, builder, channels, -⟩ :=
    a.takeMark_joining d (by rw [hs.ctl, hj]) hi
  have now : t.now = a.now := ht.now.trans (a.takeMark_frame d).1
  refine ⟨⟨?_, ?_, ?_, ?_, ?_, fun ha => ?_⟩, folded.congr ht.pool (by rw [ht.adjust]), ht.window.trans window,
    ht.clock.trans clock, ht.line.trans line⟩
  · rw [ht.ctl, ctl, now]
    simp only [State.listenSpan, State.period, State.bits, hs.ctl]
  · rw [ht.clock, clock, htimer]
  · rw [ht.builder, builder, hs.builder]
  · rw [ht.channels, channels, hs.channels]
  · rw [ht.pool, held]
  · obtain ⟨⟨pool, queue⟩, none⟩ := discarded (by rw [hs.pool, ha])
    refine ⟨⟨?_, ?_⟩, ?_⟩
    · rw [ht.pool, pool]
    · rw [ht.adjust, queue]
    · rw [ht.pool, none]

/-- With no snapshot held none is installed (R99). -/
theorem State.joinInstall_none (s : State) (h : s.pool.held = none) : s.joinInstall = false := by
  cases hi : s.joinInstall with
  | false => rfl
  | true =>
    obtain ⟨x, hx⟩ := s.joinInstall_held hi
    rw [h] at hx; cases hx

theorem State.windowMark_tail (s : State) (b : Bool) :
    (s.windowMark b).window.records.tail = s.foldAtMark.age.window.records := rfl

/-- A mark on the books of s taken in JOINING with no snapshot held (R50, R64, R85, R127, R130). -/
theorem MarkedInJoining.of_shows {s a t : State} (hs : SameBooks s a) (hj : s.ctl.life = .joining) (hh : s.pool.held = none)
    (htimer : a.clock.timer = s.clock.timer) (ht : Shows (a.takeMark true) t) (hf : ConflictFree s t) :
    MarkedInJoining s t a.clock.cur := by
  obtain ⟨⟨ctl, -, builder, channels, -, -⟩, folded, window, -, line⟩ :=
    JoinerStays.of_shows hs hj (a.joinInstall_none (by rw [hs.pool, hh])) htimer ht
  obtain ⟨-, entries, reference, -, -, -⟩ := a.takeMark_frame true
  set m := a.reportDiscarded.conflictFreeMark with hm
  have head := m.windowMark_head false
  have cur : m.clock.cur = a.clock.cur := hs.atMark.1
  have expected : m.expectedNow false = mapWhere (fun n => (s.entry n).state == .present || (s.entry n).state == .missing) := by
    simp only [State.expectedNow, State.entry, hs.atMark.2.2.2.2.2.1, Bool.and_false, Bool.false_or, hm]
  rw [← window] at head
  refine ⟨ctl, ⟨_, head, by rw [cur], rfl, expected, rfl⟩, ⟨m, hs.atMark, folded, ?_⟩, hf, ?_, builder, channels, ?_, ?_, ?_, ?_,
    ?_, ?_⟩
  · rw [window]; exact m.windowMark_tail false
  · rw [window]; exact m.windowMark_asked false
  · rw [line, hs.queue]
  · rw [line]
  · rw [ht.entries, entries, hs.entries]
  · rw [ht.reference, reference, hs.reference]
  · rw [ht.adjust, State.takeMark_lastSerial, hs.adjust]
  · rw [ht.reply, State.takeMark_reply, hs.reply]

/-- Settles O32, by the row of the continuity table: the next epoch is a mark in JOINING, an unexpected one a discontinuity
there, and a repeated one nothing. -/
theorem joinersTakeMarks : Obligations.JoinersTakeMarks := by
  unfold Obligations.JoinersTakeMarks
  intro s dt f h hc hj hd hn
  have hr : s.ctl.life ≠ .run := by rw [hj]; decide
  have exec_eq : exec (.markReceived dt f) s = .next ((s.heard dt).continuity f).finish := by
    rw [exec_markReceived s dt f h hc, (s.heard dt).markIn_clock f _ (.inl (State.inLeavingEpoch_false (.inl hr))) hn,
      (s.heard dt).clockMark_continuity f (.inr hj) hd (fun k => absurd k hr)]
  have took : s.clockTook f.epoch f.sender (s.now + dt) s.ctl.life = { s.clock with
      cur := f.epoch, pacing := some f.sender, pending := false, origin := some (s.now + dt), slotTimer := .slots
      slotCount := 0 } := by
    rw [State.clockTook, if_neg hr]
  refine ⟨fun he hh => ?_, fun p hcur hnext hpace hle => ?_, fun hcur => ?_⟩
  · set a := (s.heard dt).tookEpoch f.epoch f.sender with ha
    have books : SameBooks s a := (s.heard_books dt).trans ((s.heard dt).tookEpoch_books _ _)
    have shows := (a.takeMark true).finish_shows
    have aclock : a.clock = s.clockTook f.epoch f.sender (s.now + dt) s.ctl.life := (s.heard dt).tookEpoch_clock _ _
    have timer : a.clock.timer = s.clock.timer := by rw [aclock, took]
    have counts : ConflictFree s (a.takeMark true).finish :=
      ConflictFree.of_books (a := a) (a.takeMark_conflictFree true) ((s.heard dt).tookEpoch_frame _ _).2.2.2
    have marked := MarkedInJoining.of_shows books hj hh timer shows counts
    rw [show a.clock.cur = s.clock.cur + 1 by rw [aclock]; exact he] at marked
    obtain ⟨-, -, -, clock, -⟩ :=
      JoinerStays.of_shows books hj (a.joinInstall_none (by rw [books.pool, hh])) timer shows
    refine ⟨_, ?_, ?_, (clock.trans aclock).trans took, marked⟩
    · rw [exec_eq, (s.heard dt).continuity_next f he, State.acceptMark_eq]
    · rw [shows.now, (a.takeMark_frame true).1, ha, (State.tookEpoch_frame _ _ _).1]; rfl
  · have shows := ((s.heard dt).takeDiscontinuity f.epoch f.sender).finish_shows
    obtain ⟨now, clock, -⟩ := (s.heard dt).takeDiscontinuity_frame f.epoch f.sender
    have counts : ConflictFree s ((s.heard dt).takeDiscontinuity f.epoch f.sender).finish :=
      ConflictFree.of_books (a := s.heard dt) ((s.heard dt).takeDiscontinuity_conflictFree f.epoch f.sender) rfl
    have discontinued : DiscontinuedInJoining s ((s.heard dt).takeDiscontinuity f.epoch f.sender).finish f :=
      DiscontinuedInJoining.of_shows (s.heard_books dt) rfl hj shows counts
    refine ⟨_, ?_, shows.now.trans now, (shows.clock.trans clock).trans took, discontinued⟩
    rw [exec_eq, (s.heard dt).continuity_unexpected f hcur hnext hpace hle]
  · rw [exec_eq, (s.heard dt).continuity_repeated f hcur, (h.heard dt).finish]

end Sys2Proof.Machine
end


section
/-! MARKs in LISTEN, and at a founder on probation (R14, R15, R122, R125, R126). -/

namespace Sys2Proof.Machine

/-! ### MARKs in LISTEN -/

/-- What the epoch clock's part in LISTEN leaves alone (R14). -/
theorem State.listenClock_frame (s : State) (f : MarkFrame) : (s.listenClock f).now = s.now ∧
    (s.listenClock f).roster.entries = s.roster.entries ∧ (s.listenClock f).window = s.window ∧
    (s.listenClock f).adjust = s.adjust ∧ (s.listenClock f).ctl = s.ctl ∧ (s.listenClock f).channels = s.channels ∧
    (s.listenClock f).drives = s.drives := by
  simp [State.listenClock]

/-- A matching MARK in LISTEN counts toward the end of conflicts (R50). -/
theorem State.listenClock_conflictFree (s : State) (f : MarkFrame) : ConflictFree s (s.listenClock f) := by
  have h := (s.beginEpoch f.epoch (some f.sender) s.now 0).reportDiscarded_conflictFree
  exact h.of_books rfl

theorem State.listenMap_mutes (s : State) (f : MarkFrame) (h : mapHas f.map s.own = true) :
    s.listenMap f = (s.raise .roster .identityConflict (some f.sender) 0).enterFrozen .mute .identity := if_pos h

/-- One matching MARK more is counted (R122). -/
def State.countMatching (s : State) : State := { s with ctl := { s.ctl with matching := s.ctl.matching + 1 } }

theorem State.listenMap_joins (s : State) (f : MarkFrame) (h : mapHas f.map s.own = false) (hm : 1 ≤ s.ctl.matching) :
    s.listenMap f = s.countMatching.enterJoining := by
  unfold State.listenMap
  rw [if_neg (by simp [h])]
  exact if_pos (Nat.succ_le_succ hm)

theorem State.listenMap_counts (s : State) (f : MarkFrame) (h : mapHas f.map s.own = false) (hm : s.ctl.matching = 0) :
    s.listenMap f = s.countMatching := by
  unfold State.listenMap
  rw [if_neg (by simp [h])]
  exact if_neg (by simp [hm])

/-- What the entry into JOINING writes, and its event (R116, R126, R130). -/
theorem State.enterJoining_fields (s : State) : s.enterJoining.ctl = { s.ctl with
      life := .joining, cause := .none, listenTimer := none, joinWait := 0, joinAttempts := 0
      silence := some (s.now + s.listenSpan) } ∧
    s.enterJoining.clock = s.clock ∧ s.enterJoining.now = s.now ∧ s.enterJoining.roster = s.roster ∧
    s.enterJoining.window = s.window ∧ s.enterJoining.adjust = s.adjust ∧ s.enterJoining.channels = s.channels ∧
    (Block.controller, { kind := .state, epoch := s.clock.cur, subject := none, value := 0x0200 }) ∈
      s.enterJoining.port.arising := by
  unfold State.enterJoining
  refine ⟨?_, ?_, ?_, ?_, ?_, ?_, ?_, (State.refreshDrives_raised _).mem ?_⟩
  case refine_8 => simp [State.reloadSilence, Life.code, MuteCause.code]
  all_goals simp [State.reloadSilence, State.listenSpan, State.period, State.bits]

/-- The map moves the epoch clock's phase at most, by muting, and leaves the books (R51, R122, R126). -/
theorem State.listenMap_frame (s : State) (f : MarkFrame) : (s.listenMap f).now = s.now ∧
    (s.listenMap f).clock.cur = s.clock.cur ∧ (s.listenMap f).clock.pacing = s.clock.pacing ∧
    (s.listenMap f).clock.origin = s.clock.origin ∧ (s.listenMap f).roster = s.roster ∧
    (s.listenMap f).window = s.window ∧ (s.listenMap f).adjust = s.adjust ∧ (s.listenMap f).channels = s.channels ∧
    (mapHas f.map s.own = false → (s.listenMap f).clock = s.clock) := by
  cases hm : mapHas f.map s.own with
  | true =>
    rw [s.listenMap_mutes f hm]
    obtain ⟨-, clock, -, -, -⟩ := (s.raise .roster .identityConflict (some f.sender) 0).enterFrozen_fields .mute .identity
    rw [clock]
    simp [Clock.frozen]
  | false =>
    by_cases h : s.ctl.matching = 0
    · rw [s.listenMap_counts f hm h]; exact ⟨rfl, rfl, rfl, rfl, rfl, rfl, rfl, rfl, fun _ => rfl⟩
    · rw [s.listenMap_joins f hm (by omega)]
      obtain ⟨-, clock, now, roster, window, adjust, channels, -⟩ := s.countMatching.enterJoining_fields
      rw [clock, now, roster, window, adjust, channels]
      exact ⟨rfl, rfl, rfl, rfl, rfl, rfl, rfl, rfl, fun _ => rfl⟩

/-- A MARK in LISTEN goes by its profile digest (R14). -/
theorem State.clockMark_listen (s : State) (f : MarkFrame) (h : s.ctl.life = .listen) : s.clockMark f =
    if s.ctl.digest = some f.digest then (s.listenClock f).listenMap f else (s.profileConflict f).countMismatched := by
  simp [State.clockMark, h, State.listenMark]

/-- A mismatched MARK in LISTEN is counted with its event (R14, R122). -/
theorem Ready.finish_mismatched {s : State} (h : Ready s) (f : MarkFrame) :
    (s.profileConflict f).countMismatched.finish = { s with
      ctl := { s.ctl with mismatched := if s.ctl.mismatched < 255 then s.ctl.mismatched + 1 else 255 }
      port := s.port.took
        { kind := .profileConflict, epoch := s.clock.cur, subject := some f.sender, value := f.digest } } :=
  Ready.finish_raise (s := s.countMismatched) h _ _ _ _

/-- Settles O33: a mismatched MARK is counted; a matching one sets the clock, and its map mutes, or it is counted toward
JOINING. -/
theorem listeningTakesMarks : Obligations.ListeningTakesMarks := by
  unfold Obligations.ListeningTakesMarks
  intro s dt f h hc hl hn
  have exec_eq : exec (.markReceived dt f) s = .next ((s.heard dt).clockMark f).finish := by
    rw [exec_markReceived s dt f h hc,
      (s.heard dt).markIn_clock f _ (.inl (State.inLeavingEpoch_false (.inl (by simp [hl])))) hn]
  rw [exec_eq, (s.heard dt).clockMark_listen f hl]
  refine ⟨fun hd => ?_, fun hd => ?_⟩
  · rw [if_neg (by simpa using hd), (h.heard dt).finish_mismatched]
    rfl
  · rw [if_pos (by simpa using hd)]
    obtain ⟨cnow, centries, cwindow, cadjust, cctl, cchannels, -⟩ := (s.heard dt).listenClock_frame f
    have cclock := (s.heard dt).listenClock_clock f
    have counts := (s.heard dt).listenClock_conflictFree f
    have reply : ((s.heard dt).listenClock f).port.reply = s.port.reply := ((s.heard dt).listenClock_raised f).reply
    generalize (s.heard dt).listenClock f = c at cnow centries cwindow cadjust cctl cchannels cclock counts reply ⊢
    obtain ⟨mnow, mcur, mpacing, morigin, mroster, mwindow, madjust, mchannels, mclock⟩ := c.listenMap_frame f
    have own : c.own = s.own := by rw [State.own, cctl]; rfl
    have mreply := (c.listenMap_raised f).reply
    have shows := (c.listenMap f).finish_shows
    rw [own] at mclock
    refine ⟨_, rfl, ?_, ?_, ?_, ?_, fun hm => ⟨?_, ?_, ?_⟩, fun hm h0 => ?_, fun hm h1 => ?_, fun hm => ?_, ?_, ?_, ?_, ?_, ?_, ?_⟩
    · rw [shows.now, mnow, cnow]; rfl
    · rw [shows.clock, mcur, cclock]
    · rw [shows.clock, mpacing, cclock]
    · rw [shows.clock, morigin, cclock]; rfl
    · rw [shows.clock, mclock hm, cclock]
    · rw [shows.clock, mclock hm, cclock]
    · rw [shows.ctl, c.listenMap_matching f (by rw [own]; exact hm), cctl]; rfl
    · rw [shows.ctl, c.listenMap_counts f (by rw [own]; exact hm) (by rw [cctl]; exact h0), State.countMatching, cctl]
      exact ⟨hl, rfl⟩
    · have joins := c.listenMap_joins f (by rw [own]; exact hm) (by rw [cctl]; exact h1)
      obtain ⟨ctl, -, -, -, -, -, -, event⟩ := c.countMatching.enterJoining_fields
      rw [← joins] at ctl event
      have reported := shows.reported _ _ event
      rw [show c.countMatching.clock.cur = f.epoch by rw [State.countMatching, cclock]] at reported
      rw [shows.ctl, ctl]
      refine ⟨rfl, rfl, rfl, rfl, ?_, reported⟩
      simp [State.countMatching, State.listenSpan, State.period, State.bits, cctl, cnow]
    · have mutes := c.listenMap_mutes f (by rw [own]; exact hm)
      obtain ⟨ctl, -, -, -, -⟩ := (c.raise .roster .identityConflict (some f.sender) 0).enterFrozen_fields .mute .identity
      have event := (State.enterFrozen_raised (c.raise .roster .identityConflict (some f.sender) 0) .mute .identity).mem
        (c.raise_mem .roster .identityConflict (some f.sender) 0)
      rw [← mutes] at ctl event
      have reported := shows.reported _ _ event
      rw [cclock] at reported
      rw [shows.ctl, ctl, State.finish_fault _ (by rw [ctl, State.raise_ctl, cctl]; exact h.1), State.faultWanted, ctl]
      exact ⟨rfl, rfl, rfl, reported⟩
    · have all : ConflictFree (s.heard dt) (c.listenMap f).finish := by
        rw [ConflictFree, show (c.listenMap f).finish.roster = c.roster from mroster]; exact counts
      exact all.of_books rfl
    · rw [shows.entries, mroster, centries]; rfl
    · rw [shows.window, mwindow, cwindow]; rfl
    · rw [shows.adjust, madjust, cadjust]; rfl
    · rw [shows.channels, mchannels, cchannels]; rfl
    · rw [shows.reply, mreply, reply]

end Sys2Proof.Machine
end


section
/-! MARKs with this station's own number, and MARKs at a founder on probation (R15, R49, R50, R125). -/

namespace Sys2Proof.Machine

/-! ### Own-number MARKs -/

theorem State.restartPath_frame (s : State) : s.restartPath.now = s.now ∧ s.restartPath.roster = Roster.restarted s.own ∧
    s.restartPath.clock.cur = s.clock.cur ∧ s.restartPath.ctl.straps = s.ctl.straps ∧
    s.restartPath.ctl.inReset = s.ctl.inReset ∧ s.restartPath.faultWanted = false ∧
    s.restartPath.ctl.life = .listen := by
  obtain ⟨now, ctl, clock, -, roster, -⟩ := s.restartListens_fields
  rw [State.restartPath_eq]
  simp [State.faultWanted, now, ctl, clock, roster]

/-- A muted station's epoch clock takes no MARK (R135). -/
theorem State.clockMark_mute (s : State) (f : MarkFrame) (h : s.ctl.life = .mute) : s.clockMark f = s := by
  simp [State.clockMark, h]

/-- With the conflict first, a third conflict leaves nothing of the MARK to take (R49, R50). -/
theorem State.ownNumberMark_third (s : State) (f : MarkFrame) (hc : s.coin = true) (h : 2 ≤ s.roster.conflicts) :
    s.ownNumberMark f = s.draw.countConflict := by
  have muted : s.draw.countConflict.ctl.life = .mute := by
    rw [State.countConflict_eq, if_pos (show 2 ≤ s.draw.roster.conflicts from h), (State.enterFrozen_fields _ _ _).1]
  rw [State.ownNumberMark, if_pos hc, State.clockMark_mute _ _ muted]

/-- With the conflict first, the MARK is taken past a first or second conflict (R49, R50). -/
theorem State.ownNumberMark_conflict (s : State) (f : MarkFrame) (hc : s.coin = true) (h : s.roster.conflicts < 2) :
    s.ownNumberMark f = s.draw.conflictCounted.clockMark f := by
  rw [State.ownNumberMark, if_pos hc, State.countConflict_eq, if_neg (show ¬2 ≤ s.draw.roster.conflicts from Nat.not_le.mpr h)]

/-- With the MARK first, the conflict is counted after it (R49, R50). -/
theorem State.ownNumberMark_mark (s : State) (f : MarkFrame) (hc : s.coin = false)
    (h : s.ctl.life ≠ .listen ∨ s.ctl.digest ≠ some f.digest) : s.ownNumberMark f = (s.draw.clockMark f).countConflict := by
  rw [State.ownNumberMark, if_neg (by simp [hc]), if_neg (fun k => h.elim (fun h => h k.1) (fun h => h k.2))]

/-- An own-number MARK that ends no departure is counted as well as taken (R49). -/
theorem State.markIn_own (s : State) (f : MarkFrame) (hl : s.inLeavingEpoch = false ∨ s.wouldTake f = false)
    (ho : f.sender = s.own) : s.markIn f false = s.ownNumberMark f := by
  unfold State.markIn
  rw [if_neg (by rcases hl with h | h <;> simp [h]), if_pos ⟨ho, rfl⟩]

/-- The continuity table moves neither the instant nor a roster entry (R11). -/
theorem State.continuity_frame (s : State) (f : MarkFrame) :
    (s.continuity f).now = s.now ∧ (s.continuity f).roster.entries = s.roster.entries := by
  have tookEpoch := s.tookEpoch_frame f.epoch f.sender
  obtain ⟨now, -, -, roster⟩ := tookEpoch
  unfold State.continuity
  split
  · rw [State.acceptMark_eq, (State.takeMark_frame _ _).1, (State.takeMark_frame _ _).2.1, now, roster]
    exact ⟨rfl, rfl⟩
  · split
    · exact ⟨rfl, rfl⟩
    · split
      · obtain ⟨dnow, -, droster⟩ := s.takeDiscontinuity_frame f.epoch f.sender
        rw [dnow, droster]
        simp
      · exact ⟨rfl, rfl⟩

/-- The epoch clock takes a MARK at the present instant (R11, R14, R15). -/
theorem State.clockMark_now (s : State) (f : MarkFrame) : (s.clockMark f).now = s.now := by
  unfold State.clockMark
  split
  · rfl
  · rfl
  · rfl
  · split
    · exact ((s.listenClock f).listenMap_frame f).1.trans (s.listenClock_frame f).1
    · rfl
  · split
    · exact (s.continuity_frame f).1
    · rfl
  · split
    · split
      · unfold State.probationMark
        split
        · rfl
        · exact s.restartPath_frame.1
      · exact (s.continuity_frame f).1
    · rfl

theorem State.ownNumberMark_now (s : State) (f : MarkFrame) : (s.ownNumberMark f).now = s.now := by
  have counted : ∀ x : State, x.countConflict.now = x.now := fun x => x.countConflict_frame.1
  unfold State.ownNumberMark
  split
  · rw [State.clockMark_now, counted]; rfl
  · split
    · dsimp only
      split
      · rw [(State.listenMap_frame _ f).1, counted, (State.listenClock_frame _ f).1]; rfl
      · rw [counted, (State.listenClock_frame _ f).1]; rfl
    · rw [counted, State.clockMark_now]; rfl

theorem State.ownNumberMark_raised (s : State) (f : MarkFrame) : Raised s (s.ownNumberMark f) := by
  have drawn : Raised s s.draw := .of_port rfl
  unfold State.ownNumberMark
  split
  · exact drawn.trans ((State.countConflict_raised _).trans (State.clockMark_raised _ f))
  · split
    · dsimp only
      split
      · exact drawn.trans ((State.listenClock_raised _ f).trans
          ((State.countConflict_raised _).trans (State.listenMap_raised _ f)))
      · exact drawn.trans ((State.listenClock_raised _ f).trans (State.countConflict_raised _))
    · exact drawn.trans ((State.clockMark_raised _ f).trans (State.countConflict_raised _))

/-! ### A step's end that moves port and draws alone -/

theorem State.finish_ports (s : State) (hr : s.ctl.inReset = false) (hf : s.drives.fault = s.faultWanted) :
    s.finish = { s with port := s.finish.port, free := s.finish.free } := by
  have fault : s.finish.drives = s.drives := by
    simp [State.finish, hr, ← hf]
  obtain ⟨now, clock, line, roster, builder, window, pool, adjust, ctl, channels, -⟩ := s.finish_frame
  calc s.finish = { s.finish with drives := s.finish.drives } := rfl
    _ = { s.finish with drives := s.drives } := by rw [fault]
    _ = _ := rfl

/-- A ready state's FAULT pin stands at its condition (R162). -/
theorem Ready.fault {s : State} (h : Ready s) : s.drives.fault = s.faultWanted := by
  obtain ⟨hr, -, -, -, hf⟩ := h
  exact hf.trans (by rw [hr]; rfl)

/-- A conflict more is none of what Shows asks for. -/
theorem Shows.of_conflictCounted {u t : State} (h : Shows u.conflictCounted t) : Shows u t :=
  ⟨h.now, h.clock, h.line, h.entries, h.reference, h.builder, h.window, h.pool, h.adjust, h.ctl, h.channels, h.drives,
    h.reply, h.txn, h.inputs, h.pending, fun b e k => h.reported b e ((State.raise_raised _ _ _ _ _).mem k)⟩

theorem State.conflictCounted_ctl (s : State) : s.conflictCounted.ctl = s.ctl := rfl

theorem State.conflictCounted_faultWanted (s : State) : s.conflictCounted.faultWanted = s.faultWanted := rfl

theorem State.conflictCounted_conflicts (s : State) : s.conflictCounted.finish.roster.conflicts = s.roster.conflicts + 1 := rfl

theorem State.conflictCounted_mem (s : State) : (Block.roster, { kind := .identityConflict, epoch := s.clock.cur
                                                                 subject := some s.own
                                                                 value := BitVec.ofNat 16 (s.roster.conflicts + 1) }) ∈
    s.conflictCounted.port.arising := State.raise_mem _ _ _ _ _

/-! ### A founder on probation -/

/-- The path of RESTART reads no more of the state it is made on than these fields (R136). -/
theorem RestartedFrom.of_books {s u t : State} {now : Instant} (h : RestartedFrom u t now) (hs : SameBooks s u)
    (hc : u.clock.cur = s.clock.cur) (htxn : u.port.txn = s.port.txn) (hinputs : u.inputs = s.inputs) :
    RestartedFrom s t now := by
  have own : u.own = s.own := by rw [State.own, hs.ctl, State.own]
  have span : u.listenSpan = s.listenSpan := by
    simp only [State.listenSpan, State.period, State.bits, hs.ctl]
  simpa only [RestartedFrom, DrivesFollow, span, own, hs.ctl, hc, hs.builder, hs.adjust, hs.channels, hs.drives, htxn,
    hinputs, hs.pending] using h

/-- A founder that abandons, as its step's end shows it (R15, R125, R136). -/
theorem State.restartPath_finish (s : State) (h : s.ctl.inReset = false) :
    RestartedFrom s s.restartPath.finish s.now ∧ s.restartPath.finish.roster.conflicts = 0 := by
  obtain ⟨-, roster, -, -, reset, wanted, -⟩ := s.restartPath_frame
  have fault : s.restartPath.finish.drives.fault = false := by
    rw [State.finish_fault _ (reset.trans h), wanted]
  have roster' : s.restartPath.finish.roster = Roster.restarted s.own := (State.finish_frame _).2.2.2.1.trans roster
  have shows := s.restartPath.finish_shows
  generalize s.restartPath.finish = t at roster' shows fault
  have conflicts : t.roster.conflicts = 0 := by rw [roster']; rfl
  have free : t.roster.conflictFree = 0 := by rw [roster']; rfl
  have restarted : RestartedFrom s t s.now := RestartedFrom.of_shows shows conflicts free fault
  exact ⟨restarted, conflicts⟩

/-- During founding probation a matching MARK goes by its FOUNDING flag and number (R15). -/
theorem State.clockMark_probation (s : State) (f : MarkFrame) (hr : s.ctl.life = .run) (hd : s.ctl.digest = some f.digest)
    (hp : 0 < s.clock.probation) : s.clockMark f =
      if f.founding = true ∧ s.own ≤ f.sender then s.foreignMark f else s.restartPath := by
  simp [State.clockMark, hr, hd, hp, State.probationMark]

/-- A founder on probation that meets an own-number MARK with the FOUNDING flag counts it and sets it aside, in either
order; the third conflict mutes (R15, R49, R50). -/
theorem State.ownNumberMark_founding (u : State) (f : MarkFrame) (h : Ready u) (hr : u.ctl.life = .run)
    (hd : u.ctl.digest = some f.digest) (hp : 0 < u.clock.probation) (ho : f.sender = u.own) (hf : f.founding = true) :
    (2 ≤ u.roster.conflicts →
      FrozenFrom (u.withConflicts (u.roster.conflicts + 1) 0) (u.ownNumberMark f).finish .mute .identity) ∧
    (u.roster.conflicts < 2 →
      (u.ownNumberMark f).finish = { u.withConflicts (u.roster.conflicts + 1) 0 with
        port := (u.ownNumberMark f).finish.port, free := (u.ownNumberMark f).finish.free } ∧
      (Block.clock, { kind := .foreignMark, epoch := u.clock.cur, subject := some f.sender, value := f.epoch }) ∈
        (u.ownNumberMark f).port.arising) ∧
    (Block.roster, { kind := .identityConflict, epoch := u.clock.cur, subject := some u.own
                     value := BitVec.ofNat 16 (u.roster.conflicts + 1) }) ∈ (u.ownNumberMark f).port.arising := by
  have aside : ∀ x : State, x.ctl = u.ctl → 0 < x.clock.probation → x.clockMark f = x.foreignMark f := fun x hx hpx => by
    rw [x.clockMark_probation f (by rw [hx, hr]) (by rw [hx, hd]) hpx, if_pos ⟨hf, by rw [State.own, hx, ho]; rfl⟩]
  cases coin : u.coin with
  | true =>
    by_cases hc : 2 ≤ u.roster.conflicts
    · rw [u.ownNumberMark_third f coin hc]
      exact ⟨fun _ => (u.draw.countConflict_third hc h.1).of_alike rfl rfl rfl rfl rfl rfl rfl rfl rfl rfl rfl rfl rfl,
        fun k => absurd hc (Nat.not_le.mpr k), u.draw.countConflict_mem⟩
    · rw [u.ownNumberMark_conflict f coin (Nat.not_le.mp hc), aside u.draw.conflictCounted rfl hp]
      exact ⟨fun k => absurd k hc, fun _ => ⟨State.finish_ports _ h.1 h.fault, State.raise_mem _ _ _ _ _⟩,
        (State.raise_raised _ _ _ _ _).mem u.draw.conflictCounted_mem⟩
  | false =>
    rw [u.ownNumberMark_mark f coin (.inl (by simp [hr])), aside u.draw rfl hp]
    refine ⟨fun hc => ?_, fun hc => ?_, (u.draw.foreignMark f).countConflict_mem⟩
    · exact ((u.draw.foreignMark f).countConflict_third hc h.1).of_alike rfl rfl rfl rfl rfl rfl rfl rfl rfl rfl rfl rfl rfl
    · rw [State.countConflict_eq, if_neg (show ¬2 ≤ (u.draw.foreignMark f).roster.conflicts from Nat.not_le.mpr hc)]
      exact ⟨State.finish_ports _ h.1 h.fault, (State.raise_raised _ _ _ _ _).mem (State.raise_mem _ _ _ _ _)⟩

/-- A founder on probation that meets an own-number MARK without the FOUNDING flag abandons, unless the conflict came first
and was the third; a conflict that comes after the path of RESTART is the first again (R15, R49, R50, R136). -/
theorem State.ownNumberMark_abandons (u : State) (f : MarkFrame) (h : Ready u) (hr : u.ctl.life = .run)
    (hd : u.ctl.digest = some f.digest) (hp : 0 < u.clock.probation) (hf : f.founding = false) :
    (2 ≤ u.roster.conflicts ∧
      FrozenFrom (u.withConflicts (u.roster.conflicts + 1) 0) (u.ownNumberMark f).finish .mute .identity ∧
      Reported (u.ownNumberMark f).finish { kind := .identityConflict, epoch := u.clock.cur, subject := some u.own
                                            value := BitVec.ofNat 16 (u.roster.conflicts + 1) }) ∨
    ((u.ownNumberMark f).finish.roster.conflicts = 0 ∧ u.roster.conflicts < 2 ∧
      RestartedFrom u (u.ownNumberMark f).finish u.now ∧
      Reported (u.ownNumberMark f).finish { kind := .identityConflict, epoch := u.clock.cur, subject := some u.own
                                            value := BitVec.ofNat 16 (u.roster.conflicts + 1) }) ∨
    ((u.ownNumberMark f).finish.roster.conflicts = 1 ∧
      RestartedFrom u ((u.ownNumberMark f).finish.withConflicts 0 0) u.now ∧
      Reported (u.ownNumberMark f).finish { kind := .identityConflict, epoch := u.clock.cur, subject := some u.own
                                            value := BitVec.ofNat 16 1 }) := by
  have restarts : ∀ x : State, x.ctl = u.ctl → 0 < x.clock.probation → x.clockMark f = x.restartPath := fun x hx hpx => by
    rw [x.clockMark_probation f (by rw [hx, hr]) (by rw [hx, hd]) hpx, if_neg (by simp [hf])]
  cases coin : u.coin with
  | true =>
    by_cases hc : 2 ≤ u.roster.conflicts
    · rw [u.ownNumberMark_third f coin hc]
      exact .inl ⟨hc, (u.draw.countConflict_third hc h.1).of_alike rfl rfl rfl rfl rfl rfl rfl rfl rfl rfl rfl rfl rfl,
        State.finish_reported _ u.draw.countConflict_mem⟩
    · rw [u.ownNumberMark_conflict f coin (Nat.not_le.mp hc), restarts u.draw.conflictCounted rfl hp]
      obtain ⟨restarted, conflicts⟩ := u.draw.conflictCounted.restartPath_finish h.1
      have books : SameBooks u u.draw.conflictCounted := u.draw_books.trans u.draw.conflictCounted_books
      exact .inr (.inl ⟨conflicts, Nat.not_le.mp hc, restarted.of_books books rfl rfl rfl,
        State.finish_reported _ ((State.restartPath_raised _).mem u.draw.conflictCounted_mem)⟩)
  | false =>
    rw [u.ownNumberMark_mark f coin (.inl (by simp [hr])), restarts u.draw rfl hp]
    obtain ⟨-, roster, cur, straps, reset, wanted, -⟩ := u.draw.restartPath_frame
    have mem := u.draw.restartPath.conflictCounted_mem
    rw [cur, State.own, straps, roster] at mem
    rw [State.countConflict_eq, if_neg (by rw [roster]; exact Nat.not_succ_le_zero 1)]
    have restarts := u.draw.restartPath.conflictCounted.finish_shows
    have counts : u.draw.restartPath.conflictCounted.finish.roster.conflicts = u.draw.restartPath.roster.conflicts + 1 :=
      State.conflictCounted_conflicts _
    have fault : u.draw.restartPath.conflictCounted.finish.drives.fault = false := by
      rw [State.finish_fault _ (by rw [State.conflictCounted_ctl]; exact reset.trans h.1), State.conflictCounted_faultWanted,
        wanted]
    have event := State.finish_reported _ mem
    generalize u.draw.restartPath.conflictCounted.finish = t at restarts counts fault event ⊢
    have restarted : RestartedFrom u.draw (t.withConflicts 0 0) u.draw.now :=
      RestartedFrom.of_shows (restarts.of_conflictCounted.withConflicts 0 0) rfl rfl fault
    exact .inr (.inr ⟨by rw [counts, roster]; rfl, restarted.of_books u.draw_books rfl rfl rfl, event⟩)

/-- Settles O34: a MARK of another number goes by its FOUNDING flag and number; an own-number one is a conflict too, before
or after it. -/
theorem founderOnProbation : Obligations.FounderOnProbation := by
  unfold Obligations.FounderOnProbation
  intro s dt f h hc hr hd hp
  have ready := h.heard dt
  have wouldTake : (s.heard dt).wouldTake f = false := State.wouldTake_false (.inl hp)
  refine ⟨fun hn => ?_, fun ho hv => ?_⟩
  · have exec_eq : exec (.markReceived dt f) s = .next ((s.heard dt).clockMark f).finish := by
      rw [exec_markReceived s dt f h hc, (s.heard dt).markIn_clock f _ (.inr wouldTake) hn]
    rw [exec_eq, (s.heard dt).clockMark_probation f hr hd hp]
    refine ⟨fun hf => ?_, fun hf hle => ?_⟩
    · rw [if_neg (fun k => hf.elim (fun hf => by simp [hf] at k) (fun hf => absurd k.2 (Nat.not_le.mpr hf)))]
      have restarted := ((s.heard dt).restartPath_finish h.1).1
      have reply := (s.heard dt).restartPath.finish_shows.reply.trans (s.heard dt).restartPath_raised.reply
      exact ⟨_, rfl, restarted.of_books (s.heard_books dt) rfl rfl rfl, reply⟩
    · rw [if_pos ⟨hf, hle⟩, State.foreignMark, ready.finish_raise]
      rfl
  · have exec_eq : exec (.markReceived dt f) s = .next ((s.heard dt).ownNumberMark f).finish := by
      rw [exec_markReceived s dt f h hc, hv, (s.heard dt).markIn_own f (.inr wouldTake) ho]
    have founding := (s.heard dt).ownNumberMark_founding f ready hr hd hp ho
    have abandons := (s.heard dt).ownNumberMark_abandons f ready hr hd hp
    have now := (s.heard dt).ownNumberMark_now f
    have reply := ((s.heard dt).ownNumberMark_raised f).reply
    have shows := ((s.heard dt).ownNumberMark f).finish_shows
    refine ⟨_, exec_eq, shows.now.trans now, shows.reply.trans reply, fun hk hf => ?_, fun hk hf => ?_, fun hf => ?_⟩
    · obtain ⟨third, -, event⟩ := founding hf
      exact ⟨third hk, shows.reported _ _ event⟩
    · obtain ⟨-, counts, event⟩ := founding hf
      obtain ⟨ports, foreign⟩ := counts hk
      exact ⟨ports, shows.reported _ _ foreign, shows.reported _ _ event⟩
    · exact abandons hf

end Sys2Proof.Machine
end


section
/-! Good frames with this station's own number that are no MARK (R49, R50, R59, R96, R98). -/

namespace Sys2Proof.Machine

/-- What the blocks do with a frame once an own number has been looked for: roster, comparison and window, or the part of its
kind (R38, R39, R40, R75, R90, R98, R107). -/
def Frame.rest (s : State) : Frame → State
  | .mark _ => s
  | .report f => if s.listening then ((s.rosterReport f).compare f).windowReport f else s
  | .resend f => if s.listening then ((s.rosterReport f).compare f).windowResend f else s
  | .request f => if s.ctl.life = .run then
      { s.answerPairs f.pairs with window := { (s.answerPairs f.pairs).window with
          asked := addAsked (s.answerPairs f.pairs).window.asked f.pairs } }.answerTarget f.target
    else s
  | .snapshot f => if (s.ctl.life = .joining ∨ (s.ctl.life = .run ∧ s.pool.agreement = .resyncing)) ∧ s.installable f then
      s.holdSnapshot f else s
  | .adjust f => if s.ctl.life = .joining ∨ s.ctl.life = .run then s.judgeAdjust f else s
  | .join f => if s.listening then
      let t := if f.sender = s.own then s else s.setEntry f.sender ((s.entry f.sender).joined s.clock.cur)
      if t.ctl.life = .run ∧ t.ctl.digest = some f.digest ∧ t.roster.reference = some t.own ∧ t.pool.agreement = .agreed
      then t.offerKey .snapshot else t
    else s
  | .leave f => if s.listening ∧ f.sender ≠ s.own then
      let t := s.setEntry f.sender .blank
      { t with window := { t.window with records := t.window.records.map (fun r => r.dismiss f.sender) } }
    else s

/-- A REPORT or RESEND with this station's own number would imply no mark (R65, R133). -/
theorem State.wouldImply_own (s : State) (f : ReportFrame) (h : f.sender = s.own) : s.wouldImply f = false := by
  simp [State.wouldImply, h]

/-- An own-number frame that is no MARK comes to the blocks as a conflict first (R49). -/
theorem exec_received_own (s : State) (dt : Nat) (f : Frame) (h : Ready s) (hc : s.canReceive = true) (ho : f.sender = s.own)
    (hg : f.good s.ctl.profile.pools = true) (hm : ∀ m : MarkFrame, f ≠ .mark m) :
    exec (f.received dt) s = .next (Frame.rest ((s.heard dt).ownNumber f.sender s.line.overlap) f).finish := by
  have report : ∀ (r : ReportFrame) (window : State → State), r.sender = s.own →
      (s.heard dt).reportIn r s.line.overlap window = if ((s.heard dt).ownNumber r.sender s.line.overlap).listening then
        window ((((s.heard dt).ownNumber r.sender s.line.overlap).rosterReport r).compare r)
      else (s.heard dt).ownNumber r.sender s.line.overlap := fun r window hr => by
    unfold State.reportIn
    rw [if_neg (by rw [(s.heard dt).wouldImply_own r hr]; simp)]
  cases f with
  | mark m => exact absurd rfl (hm m)
  | report r =>
    refine (s.frameIn_outside dt (.report r) _ h hc hg).trans ?_
    rw [report r _ ho]; rfl
  | resend r =>
    refine (s.frameIn_outside dt (.resend r) _ h hc hg).trans ?_
    rw [report r _ ho]; rfl
  | request r => exact s.frameIn_outside dt (.request r) _ h hc hg
  | snapshot r => exact s.frameIn_outside dt (.snapshot r) _ h hc hg
  | adjust r => exact s.frameIn_outside dt (.adjust r) _ h hc hg
  | join r => exact s.frameIn_outside dt (.join r) _ h hc hg
  | leave r => exact s.frameIn_outside dt (.leave r) _ h hc hg

/-- A report with the own number meets neither roster nor comparison nor window (R38, R65, R91). -/
theorem State.rest_report_own (s : State) (f : ReportFrame) (ho : f.sender = s.own) :
    ((s.rosterReport f).compare f).windowReport f = s ∧ ((s.rosterReport f).compare f).windowResend f = s := by
  have roster : s.rosterReport f = s := if_pos ho
  have compare : s.compare f = s := if_neg (fun k => k.2.2 ho)
  rw [roster, compare]
  exact ⟨if_neg (fun k => k.2 ho), if_neg (fun k => k.2 ho)⟩

/-- The offers for own pairs move nothing but the line (R59). -/
theorem State.answerPairs_frame (s : State) (pairs : List Pair) : (s.answerPairs pairs).roster = s.roster ∧
    (s.answerPairs pairs).port = s.port ∧ (s.answerPairs pairs).ctl = s.ctl ∧ (s.answerPairs pairs).pool = s.pool ∧
    (s.answerPairs pairs).drives = s.drives ∧ (s.answerPairs pairs).now = s.now := by
  refine ⟨?_, ?_, ?_, ?_, ?_, ?_⟩
  all_goals exact foldl_keeps _ (fun (s : State) (p : Pair) => s.offerKey (.resend p.epoch)) (fun _ _ => by simp) _ _

/-- The answer to a request for a snapshot moves nothing but the line (R96). -/
theorem State.answerTarget_frame (s : State) (target : Option Byte) : (s.answerTarget target).roster = s.roster ∧
    (s.answerTarget target).port = s.port ∧ (s.answerTarget target).ctl = s.ctl ∧ (s.answerTarget target).pool = s.pool ∧
    (s.answerTarget target).drives = s.drives ∧ (s.answerTarget target).now = s.now := by
  unfold State.answerTarget
  split <;> simp

theorem State.holdSnapshot_agreement (s : State) (f : SnapshotFrame) :
    (s.holdSnapshot f).pool.agreement = s.pool.agreement := by
  unfold State.holdSnapshot
  dsimp only
  split
  · rfl
  · split <;> rfl

/-- What the blocks do with an own-number frame past the conflict moves no roster, no port, no controller, no agreement
state and no drive; a REPORT, RESEND, ADJUST or LEAVE does nothing, and in MUTE no kind does (R49, R135). -/
theorem Frame.rest_own (s : State) (f : Frame) (ho : f.sender = s.own) :
    (f.rest s).roster = s.roster ∧ (f.rest s).port = s.port ∧ (f.rest s).ctl = s.ctl ∧
    (f.rest s).pool.agreement = s.pool.agreement ∧ (f.rest s).drives = s.drives ∧
    ((∀ r : RequestFrame, f ≠ .request r) ∧ (∀ r : SnapshotFrame, f ≠ .snapshot r) ∧ (∀ r : JoinFrame, f ≠ .join r) →
      f.rest s = s) ∧
    (s.ctl.life = .mute → f.rest s = s) := by
  have alone : f.rest s = s → (f.rest s).roster = s.roster ∧ (f.rest s).port = s.port ∧ (f.rest s).ctl = s.ctl ∧
      (f.rest s).pool.agreement = s.pool.agreement ∧ (f.rest s).drives = s.drives ∧
      ((∀ r : RequestFrame, f ≠ .request r) ∧ (∀ r : SnapshotFrame, f ≠ .snapshot r) ∧ (∀ r : JoinFrame, f ≠ .join r) →
        f.rest s = s) ∧ (s.ctl.life = .mute → f.rest s = s) := fun hx => by
    rw [hx]; exact ⟨rfl, rfl, rfl, rfl, rfl, fun _ => rfl, fun _ => rfl⟩
  cases f with
  | mark m => exact alone rfl
  | report r =>
    refine alone ?_
    simp only [Frame.rest, (s.rest_report_own r ho).1, ite_self]
  | resend r =>
    refine alone ?_
    simp only [Frame.rest, (s.rest_report_own r ho).2, ite_self]
  | adjust r =>
    refine alone ?_
    have judged : s.judgeAdjust r = s := if_pos ho
    simp only [Frame.rest, judged, ite_self]
  | leave r => exact alone (if_neg (fun k => k.2 ho))
  | request r =>
    by_cases hr : s.ctl.life = .run
    · obtain ⟨troster, tport, tctl, tpool, tdrives, -⟩ := State.answerTarget_frame { s.answerPairs r.pairs with
        window := { (s.answerPairs r.pairs).window with asked := addAsked (s.answerPairs r.pairs).window.asked r.pairs } } r.target
      obtain ⟨proster, pport, pctl, ppool, pdrives, -⟩ := s.answerPairs_frame r.pairs
      simp only [Frame.rest, if_pos hr]
      refine ⟨troster.trans proster, tport.trans pport, tctl.trans pctl, ?_, tdrives.trans pdrives,
        fun k => absurd rfl (k.1 r), fun k => ?_⟩
      · rw [tpool]; exact congrArg Pool.agreement ppool
      · rw [hr] at k; cases k
    · exact alone (if_neg hr)
  | snapshot r =>
    by_cases hr : (s.ctl.life = .joining ∨ (s.ctl.life = .run ∧ s.pool.agreement = .resyncing)) ∧ s.installable r
    · simp only [Frame.rest, if_pos hr, State.holdSnapshot_frame, State.holdSnapshot_agreement, true_and]
      refine ⟨fun k => absurd rfl (k.2.1 r), fun k => ?_⟩
      rw [k] at hr; simp at hr
    · exact alone (if_neg hr)
  | join r =>
    have own : r.sender = s.own := ho
    by_cases hl : s.listening = true
    · simp only [Frame.rest, if_pos hl, if_pos own]
      split
      next hr =>
        simp only [State.offerKey_frame, true_and]
        refine ⟨fun k => absurd rfl (k.2.2 r), fun k => ?_⟩
        rw [k] at hr; cases hr.1
      next => exact ⟨rfl, rfl, rfl, rfl, rfl, fun _ => rfl, fun _ => rfl⟩
    · exact alone (if_neg hl)

/-- A ready state's one event is what the end of a step shows that keeps port, life, agreement state and drives (R182). -/
theorem Ready.finish_event {s x : State} {b : Block} {e : Event} (h : Ready s) (hp : x.port = { s.port with arising := [(b, e)] })
    (hc : x.ctl = s.ctl) (ha : x.pool.agreement = s.pool.agreement) (hd : x.drives = s.drives) :
    x.finish = { x with port := s.port.took e } := by
  have fault : x.drives.fault = x.faultWanted := by
    rw [State.faultWanted, hc, ha, hd]; exact h.fault
  obtain ⟨hr, harising, -, -, -⟩ := h
  rw [x.finish_one (by rw [hc]; exact hr) (by rw [hp]) fault, hp, ← harising]

theorem State.conflictCounted_port {s : State} (h : Ready s) : s.conflictCounted.port = { s.port with arising :=
    [(Block.roster, { kind := .identityConflict, epoch := s.clock.cur, subject := some s.own
                      value := BitVec.ofNat 16 (s.roster.conflicts + 1) })] } := by
  obtain ⟨-, harising, -⟩ := h
  simp [State.conflictCounted, State.raise, harising, State.own]

/-- An own-number frame that is no MARK: with its overlap indication set it is not counted; a first or second conflict has
its event; the third mutes (R49, R50). -/
theorem own_frames_are_conflicts (s : State) (dt : Nat) (f : Frame) (h : Ready s) (hc : s.canReceive = true)
    (ho : f.sender = s.own) (hg : f.good s.ctl.profile.pools = true) (hm : ∀ m : MarkFrame, f ≠ .mark m) :
    let counted : State := { s.heard dt with
      roster := { s.roster with conflicts := s.roster.conflicts + 1, conflictFree := 0 } }
    let event : Event := { kind := .identityConflict, epoch := s.clock.cur, subject := some s.own
                           value := BitVec.ofNat 16 (s.roster.conflicts + 1) }
    let alone := (∀ r : RequestFrame, f ≠ .request r) ∧ (∀ r : SnapshotFrame, f ≠ .snapshot r) ∧
      (∀ r : JoinFrame, f ≠ .join r)
    (s.line.overlap = true → ∃ t, exec (f.received dt) s = .next t ∧ t.roster = s.roster ∧ t.port = s.port ∧
      t.ctl = s.ctl ∧ (alone → t = s.heard dt)) ∧
    (s.line.overlap = false → s.roster.conflicts < 2 → ∃ t, exec (f.received dt) s = .next t ∧
      t.roster = counted.roster ∧ t.port = s.port.took event ∧ t.ctl = s.ctl ∧
      (alone → t = { counted with port := s.port.took event })) ∧
    (s.line.overlap = false → 2 ≤ s.roster.conflicts → ∃ t, exec (f.received dt) s = .next t ∧
      t.now = s.now + dt ∧ FrozenFrom counted t .mute .identity ∧ Reported t event) := by
  have ready := h.heard dt
  have exec_eq := exec_received_own s dt f h hc ho hg hm
  have counts : s.line.overlap = false →
      (s.heard dt).ownNumber f.sender s.line.overlap = (s.heard dt).countConflict := fun hv => if_pos ⟨ho, hv⟩
  refine ⟨fun hv => ?_, fun hv hk => ?_, fun hv hk => ?_⟩
  · have own : (s.heard dt).ownNumber f.sender s.line.overlap = s.heard dt := if_neg (by simp [hv])
    rw [own] at exec_eq
    obtain ⟨roster, port, ctl, agreement, drives, alone, -⟩ := Frame.rest_own (s.heard dt) f ho
    have still := ready.of_same (congrArg Controller.life ctl) (congrArg Controller.inReset ctl) port agreement
      (congrArg DriveUnit.fault drives)
    rw [still.finish] at exec_eq
    exact ⟨_, exec_eq, roster, port, ctl, alone⟩
  · rw [counts hv, State.countConflict_eq, if_neg (show ¬2 ≤ (s.heard dt).roster.conflicts from Nat.not_le.mpr hk)] at exec_eq
    obtain ⟨roster, port, ctl, agreement, drives, alone, -⟩ := Frame.rest_own (s.heard dt).conflictCounted f ho
    rw [ready.finish_event (port.trans (State.conflictCounted_port ready)) ctl agreement drives] at exec_eq
    refine ⟨_, exec_eq, roster, rfl, ctl, fun ha => ?_⟩
    rw [alone ha]
    rfl
  · rw [counts hv] at exec_eq
    have fields := (s.heard dt).conflictCounted.enterFrozen_fields .mute .identity
    have eq : (s.heard dt).countConflict = (s.heard dt).conflictCounted.enterFrozen .mute .identity := by
      rw [State.countConflict_eq, if_pos (show 2 ≤ (s.heard dt).roster.conflicts from hk)]
    have ctl : (s.heard dt).countConflict.ctl.life = .mute ∧ (s.heard dt).countConflict.own = s.own := by
      rw [State.own, eq, fields.1]; exact ⟨rfl, rfl⟩
    obtain ⟨-, -, -, -, -, -, muted⟩ := Frame.rest_own (s.heard dt).countConflict f (ho.trans ctl.2.symm)
    rw [muted ctl.1] at exec_eq
    exact ⟨_, exec_eq, (s.heard dt).countConflict_frame.1, (s.heard dt).countConflict_third hk h.1,
      State.finish_reported _ (s.heard dt).countConflict_mem⟩

end Sys2Proof.Machine
end


section
/-! A MARK with this station's own number: a conflict, and a MARK at the epoch clock (R11, R14, R49, R50). -/

namespace Sys2Proof.Machine

/-! ### What a MARK moves at the epoch clock -/

/-- What a MARK outside a founding probation leaves of roster, cur and controller at the epoch clock (R11, R14, R50). -/
structure MarkMoves (f : MarkFrame) (s t : State) : Prop where
  roster : t.roster = s.roster ∨ t.roster = s.conflictFreeMark.roster
  cur : t.clock.cur = s.clock.cur ∨ t.clock.cur = f.epoch
  straps : t.ctl.straps = s.ctl.straps
  inReset : t.ctl.inReset = s.ctl.inReset

theorem MarkMoves.refl (f : MarkFrame) (s : State) : MarkMoves f s s := ⟨.inl rfl, .inl rfl, rfl, rfl⟩

theorem State.tookEpoch_roster (s : State) (x : Epoch) (n : Station) :
    (s.tookEpoch x n).reportDiscarded.conflictFreeMark.roster = s.conflictFreeMark.roster :=
  State.conflictFreeMark_roster_congr (by simp [(s.tookEpoch_frame x n).2.2.2])

/-- The accepted MARK takes its epoch, and the mark timer runs where the station is in RUN after it (R4, R11, R132). -/
theorem State.acceptMark_moves (s : State) (f : MarkFrame) (hl : s.ctl.life = .run ∨ s.ctl.life = .joining) :
    MarkMoves f s (s.acceptMark f) ∧
    (s.acceptMark f).clock = s.clockTook f.epoch f.sender s.now (s.acceptMark f).ctl.life := by
  have aclock := s.tookEpoch_clock f.epoch f.sender
  have actl := (s.tookEpoch_books f.epoch f.sender).ctl
  have anow := (s.tookEpoch_frame f.epoch f.sender).1
  have aroster := s.tookEpoch_roster f.epoch f.sender
  rw [State.acceptMark_eq]
  generalize s.tookEpoch f.epoch f.sender = a at aclock actl anow aroster
  have roster := (a.takeMark_roster true).trans aroster
  have straps : (a.takeMark true).ctl.straps = s.ctl.straps := by rw [(a.takeMark_frame true).2.2.2.2.1, actl]
  have moves : (a.takeMark true).clock.cur = f.epoch → (a.takeMark true).ctl.inReset = s.ctl.inReset →
      MarkMoves f s (a.takeMark true) := fun hc hr => ⟨.inr roster, .inr hc, straps, hr⟩
  rcases hl with hr | hj
  · obtain ⟨-, -, -, -, -, -, ctl, clock⟩ := a.takeMark_run_spec true (by rw [actl, hr])
    rw [clock, aclock, ctl, actl]
    exact ⟨moves (by rw [clock, aclock]; rfl) (by rw [ctl, actl]), rfl⟩
  · by_cases hi : a.installing = true
    · obtain ⟨ctl, clock, -⟩ := a.takeMark_ctl_enters true hi
      have took : (a.takeMark true).clock = s.clockTook f.epoch f.sender s.now .run := by
        rw [clock, aclock, anow]
        simp [State.clockTook, State.markInterval, State.period, State.bits, State.own, actl, hj, add_assoc]
      refine ⟨moves (by rw [took]; rfl) (by rw [ctl, actl]), ?_⟩
      rw [took, ctl]
    · have hi' : a.joinInstall = false := by
        rw [State.installing_iff, actl] at hi
        simpa [hj] using hi
      obtain ⟨-, -, -, -, -, ctl, clock, -⟩ := a.takeMark_joining true (by rw [actl, hj]) hi'
      refine ⟨moves (by rw [clock, aclock]; rfl) (by rw [ctl, actl]), ?_⟩
      rw [clock, aclock, ctl, actl]

/-- A discontinuity takes its epoch and leaves the life-cycle state (R12). -/
theorem State.takeDiscontinuity_moves (s : State) (f : MarkFrame) (hl : s.ctl.life = .run ∨ s.ctl.life = .joining) :
    MarkMoves f s (s.takeDiscontinuity f.epoch f.sender) ∧ (s.takeDiscontinuity f.epoch f.sender).clock =
      s.clockTook f.epoch f.sender s.now (s.takeDiscontinuity f.epoch f.sender).ctl.life := by
  obtain ⟨-, clock, roster⟩ := s.takeDiscontinuity_frame f.epoch f.sender
  have books := s.discontinued_books f.epoch f.sender
  have ctl : (s.takeDiscontinuity f.epoch f.sender).ctl.life = s.ctl.life ∧
      (s.takeDiscontinuity f.epoch f.sender).ctl.straps = s.ctl.straps ∧
      (s.takeDiscontinuity f.epoch f.sender).ctl.inReset = s.ctl.inReset := by
    rcases hl with hr | hj
    · rw [(s.takeDiscontinuity_faultWanted f.epoch f.sender hr).2]; exact ⟨rfl, rfl, rfl⟩
    · have fields := (s.discontinued f.epoch f.sender).discontinuityBlocks_fields.2.2.1
      rw [State.takeDiscontinuity_eq, ← State.discontinued, State.discontinuityResponses_joining _ (by rw [books.ctl, hj])]
      simp [State.reloadSilence, fields, books.ctl]
  obtain ⟨life, straps, inReset⟩ := ctl
  have discarded : s.reportDiscarded.conflictFreeMark.roster = s.conflictFreeMark.roster :=
    State.conflictFreeMark_roster_congr (by simp)
  refine ⟨⟨.inr (roster.trans discarded), .inr (by rw [clock]; rfl), straps, inReset⟩, ?_⟩
  rw [clock, life]

theorem State.continuity_moves (s : State) (f : MarkFrame) (hl : s.ctl.life = .run ∨ s.ctl.life = .joining) :
    MarkMoves f s (s.continuity f) := by
  unfold State.continuity
  split
  · exact (s.acceptMark_moves f hl).1
  · split
    · exact .refl f s
    · split
      · exact (s.takeDiscontinuity_moves f hl).1
      · exact ⟨.inl rfl, .inl rfl, rfl, rfl⟩

theorem State.listenMap_ctl (s : State) (f : MarkFrame) : (s.listenMap f).ctl.straps = s.ctl.straps ∧
    (s.listenMap f).ctl.inReset = s.ctl.inReset := by
  cases hm : mapHas f.map s.own with
  | true =>
    rw [s.listenMap_mutes f hm, (State.enterFrozen_fields _ _ _).1]
    exact ⟨rfl, rfl⟩
  | false =>
    by_cases h : s.ctl.matching = 0
    · rw [s.listenMap_counts f hm h]; exact ⟨rfl, rfl⟩
    · rw [s.listenMap_joins f hm (by omega), s.countMatching.enterJoining_fields.1]; exact ⟨rfl, rfl⟩

theorem State.listenClock_roster (s : State) (f : MarkFrame) : (s.listenClock f).roster = s.conflictFreeMark.roster :=
  State.conflictFreeMark_roster_congr (by simp)

theorem State.listenClock_moves (s : State) (f : MarkFrame) : MarkMoves f s (s.listenClock f) := by
  obtain ⟨-, -, -, -, ctl, -, -⟩ := s.listenClock_frame f
  exact ⟨.inr (s.listenClock_roster f), .inr (by rw [State.listenClock_clock]), by rw [ctl], by rw [ctl]⟩

theorem State.clockMark_moves (s : State) (f : MarkFrame) (hp : s.clock.probation = 0 ∨ s.ctl.digest ≠ some f.digest) :
    MarkMoves f s (s.clockMark f) := by
  unfold State.clockMark
  split
  · exact .refl f s
  · exact .refl f s
  · exact .refl f s
  · split
    · obtain ⟨-, mcur, -, -, mroster, -⟩ := (s.listenClock f).listenMap_frame f
      obtain ⟨mstraps, mreset⟩ := (s.listenClock f).listenMap_ctl f
      have moves := s.listenClock_moves f
      exact ⟨moves.roster.imp mroster.trans mroster.trans, moves.cur.imp mcur.trans mcur.trans,
        mstraps.trans moves.straps, mreset.trans moves.inReset⟩
    · exact ⟨.inl rfl, .inl rfl, rfl, rfl⟩
  next hj =>
    split
    · exact s.continuity_moves f (.inr hj)
    · exact ⟨.inl rfl, .inl rfl, rfl, rfl⟩
  next hr =>
    split
    next hd =>
      rw [if_neg (by rw [hp.resolve_right (not_not_intro hd)]; exact Nat.lt_irrefl 0)]
      exact s.continuity_moves f (.inl hr)
    · exact ⟨.inl rfl, .inl rfl, rfl, rfl⟩

/-! ### Conflict and MARK, in either order -/

/-- The orders in which a MARK with this station's own number is counted and taken, by its overlap indication, and what
comes of each (R49, R50, notes/assumptions/6.md, notes/assumptions/39.md). -/
inductive OwnMark (s : State) (f : MarkFrame) : Bool → State → Prop
  | taken : OwnMark s f true (s.clockMark f)
  | third : 2 ≤ s.roster.conflicts → OwnMark s f false s.draw.countConflict
  | conflictFirst : s.roster.conflicts < 2 → OwnMark s f false (s.draw.conflictCounted.clockMark f)
  | markFirst : s.ctl.life ≠ .listen ∨ s.ctl.digest ≠ some f.digest → OwnMark s f false (s.draw.clockMark f).countConflict
  | listenThird : s.ctl.life = .listen → s.ctl.digest = some f.digest → 2 ≤ (s.draw.listenClock f).roster.conflicts →
      OwnMark s f false (s.draw.listenClock f).countConflict
  | listenFirst : s.ctl.life = .listen → s.ctl.digest = some f.digest → (s.draw.listenClock f).roster.conflicts < 2 →
      OwnMark s f false ((s.draw.listenClock f).conflictCounted.listenMap f)

/-- A third conflict mutes with cause IDENTITY, before the step's end (R50). -/
theorem State.countConflict_muted (s : State) (h : 2 ≤ s.roster.conflicts) :
    s.countConflict.ctl.life = .mute ∧ s.countConflict.ctl.cause = .identity := by
  rw [State.countConflict_eq, if_pos h, (State.enterFrozen_fields _ _ _).1]
  exact ⟨rfl, rfl⟩

theorem State.countConflict_second (s : State) (h : s.roster.conflicts < 2) : s.countConflict = s.conflictCounted := by
  rw [State.countConflict_eq, if_neg (Nat.not_le.mpr h)]

theorem State.markIn_ownMark (s : State) (f : MarkFrame) (overlap : Bool) (ho : f.sender = s.own)
    (hl : s.inLeavingEpoch = false ∨ s.wouldTake f = false) : OwnMark s f overlap (s.markIn f overlap) := by
  cases overlap with
  | true => rw [s.markIn_clock f true hl (.inr rfl)]; exact .taken
  | false =>
    rw [s.markIn_own f hl ho]
    cases coin : s.coin with
    | true =>
      by_cases hc : 2 ≤ s.roster.conflicts
      · rw [s.ownNumberMark_third f coin hc]; exact .third hc
      · rw [s.ownNumberMark_conflict f coin (Nat.not_le.mp hc)]; exact .conflictFirst (Nat.not_le.mp hc)
    | false =>
      by_cases hd : s.ctl.life = .listen ∧ s.ctl.digest = some f.digest
      · have listens : (s.draw.listenClock f).ctl.life = .listen := by
          rw [(State.listenClock_frame _ f).2.2.2.2.1]; exact hd.1
        rw [State.ownNumberMark, if_neg (by simp [coin]), if_pos hd]
        by_cases hc : 2 ≤ (s.draw.listenClock f).roster.conflicts
        · dsimp only
          rw [if_neg (by rw [(State.countConflict_muted _ hc).1]; decide)]
          exact .listenThird hd.1 hd.2 hc
        · dsimp only
          rw [State.countConflict_second _ (Nat.not_le.mp hc), State.conflictCounted_ctl, if_pos listens]
          exact .listenFirst hd.1 hd.2 (Nat.not_le.mp hc)
      · have hn : s.ctl.life ≠ .listen ∨ s.ctl.digest ≠ some f.digest := by
          by_cases hl : s.ctl.life = .listen
          · exact .inr (fun k => hd ⟨hl, k⟩)
          · exact .inl hl
        rw [s.ownNumberMark_mark f coin hn]
        exact .markFirst hn

/-! ### The conflict counts -/

theorem State.conflictFreeMark_below (s : State) (h : s.roster.conflicts = 0 ∨ s.roster.conflictFree < 7) :
    s.conflictFreeMark.roster.conflicts = s.roster.conflicts := by
  have counts := s.conflictFreeMark_counts.1
  rwa [if_pos h] at counts

theorem State.conflictFreeMark_le (s : State) : s.conflictFreeMark.roster.conflicts ≤ s.roster.conflicts := by
  rw [s.conflictFreeMark_counts.1]
  split
  · exact Nat.le_refl _
  · exact Nat.zero_le _

theorem MarkMoves.conflicts_le {f : MarkFrame} {s t : State} (h : MarkMoves f s t) :
    t.roster.conflicts ≤ s.roster.conflicts := by
  rcases h.roster with k | k
  · rw [k]
  · rw [k]; exact s.conflictFreeMark_le

theorem MarkMoves.conflicts_below {f : MarkFrame} {s t : State} (h : MarkMoves f s t)
    (hb : s.roster.conflicts = 0 ∨ s.roster.conflictFree < 7) : t.roster.conflicts = s.roster.conflicts := by
  rcases h.roster with k | k
  · rw [k]
  · rw [k]; exact s.conflictFreeMark_below hb

/-- A conflict counted just before a MARK stays, and the mark after it is its first conflict-free one at most (R50). -/
theorem MarkMoves.after_conflict {f : MarkFrame} {s t : State} (h : MarkMoves f s.conflictCounted t) :
    t.roster.conflicts = s.roster.conflicts + 1 ∧ t.roster.conflictFree ≤ 1 := by
  have more : s.conflictCounted.roster.conflicts = s.roster.conflicts + 1 := rfl
  have fresh : s.conflictCounted.roster.conflictFree = 0 := rfl
  refine ⟨h.conflicts_below (.inr (by rw [fresh]; decide)), ?_⟩
  rcases h.roster with k | k
  · rw [k, fresh]; exact Nat.zero_le 1
  · rw [k, s.conflictCounted.conflictFreeMark_counts.2, more, fresh]
    simp

/-- A conflict counted just after a MARK (R50). -/
theorem MarkMoves.before_conflict {f : MarkFrame} {s t : State} (h : MarkMoves f s t)
    (hb : s.roster.conflicts = 0 ∨ s.roster.conflictFree < 7) :
    t.countConflict.roster.conflicts = s.roster.conflicts + 1 ∧ t.countConflict.roster.conflictFree ≤ 1 ∧
    (2 ≤ s.roster.conflicts → t.countConflict.ctl.life = .mute ∧ t.countConflict.ctl.cause = .identity) ∧
    ∃ e : Epoch, (e = s.clock.cur ∨ e = f.epoch) ∧
      (Block.roster, { kind := .identityConflict, epoch := e, subject := some s.own
                       value := BitVec.ofNat 16 (s.roster.conflicts + 1) }) ∈ t.countConflict.port.arising := by
  have same := h.conflicts_below hb
  have roster := t.countConflict_frame.2.2.1
  have event := t.countConflict_mem
  rw [same, State.own, h.straps] at event
  refine ⟨?_, ?_, fun k => t.countConflict_muted (by rw [same]; exact k), t.clock.cur, h.cur, event⟩
  · rw [roster, same]
  · rw [roster]; exact Nat.zero_le 1

/-- An own-number MARK without overlap counts one conflict, the third of which mutes, where no eighth conflict-free mark is
due (R49, R50). -/
theorem OwnMark.counts {s x : State} {f : MarkFrame} (h : OwnMark s f false x)
    (hp : s.clock.probation = 0 ∨ s.ctl.digest ≠ some f.digest) (hb : s.roster.conflicts = 0 ∨ s.roster.conflictFree < 7) :
    x.roster.conflicts = s.roster.conflicts + 1 ∧ x.roster.conflictFree ≤ 1 ∧
    (2 ≤ s.roster.conflicts → x.ctl.life = .mute ∧ x.ctl.cause = .identity) ∧
    ∃ e : Epoch, (e = s.clock.cur ∨ e = f.epoch) ∧
      (Block.roster, { kind := .identityConflict, epoch := e, subject := some s.own
                       value := BitVec.ofNat 16 (s.roster.conflicts + 1) }) ∈ x.port.arising := by
  cases h with
  | third hc => exact (MarkMoves.refl f s.draw).before_conflict hb
  | conflictFirst hc =>
    obtain ⟨conflicts, free⟩ := (s.draw.conflictCounted.clockMark_moves f hp).after_conflict
    exact ⟨conflicts, free, fun k => absurd hc (Nat.not_lt.mpr k), _, .inl rfl,
      (State.clockMark_raised _ f).mem s.draw.conflictCounted_mem⟩
  | markFirst hl => exact (s.draw.clockMark_moves f hp).before_conflict hb
  | listenThird hl hd hc => exact (s.draw.listenClock_moves f).before_conflict hb
  | listenFirst hl hd hc =>
    obtain ⟨conflicts, free, muted, e, he, event⟩ := (s.draw.listenClock_moves f).before_conflict hb
    obtain ⟨-, -, -, -, roster, -⟩ := (s.draw.listenClock f).conflictCounted.listenMap_frame f
    have same := (s.draw.listenClock_moves f).conflicts_below hb
    rw [State.countConflict_second _ hc] at conflicts free event
    rw [roster]
    exact ⟨conflicts, free, fun k => absurd (same ▸ hc) (Nat.not_lt.mpr k), e, he, (State.listenMap_raised _ f).mem event⟩

end Sys2Proof.Machine
end


section
/-! An own-number MARK in each life-cycle state, and the obligation about own numbers (R11, R14, R49, R50). -/

namespace Sys2Proof.Machine

/-- At the eighth conflict-free mark a MARK that comes before its conflict leaves the count at 1 (R50). -/
theorem OwnMark.eighth {s x : State} {f : MarkFrame} (h : OwnMark s f false x)
    (hp : s.clock.probation = 0 ∨ s.ctl.digest ≠ some f.digest) (hk : 0 < s.roster.conflicts)
    (hf : 7 ≤ s.roster.conflictFree) (hl : s.ctl.life ≠ .listen) :
    (x.roster.conflicts = 1 ∧ x.roster.conflictFree = 0) ∨ x.roster.conflicts = s.roster.conflicts + 1 := by
  cases h with
  | third hc => exact .inr (congrArg Roster.conflicts s.draw.countConflict_frame.2.2.1)
  | conflictFirst hc => exact .inr (s.draw.conflictCounted.clockMark_moves f hp).after_conflict.1
  | markFirst _ =>
    have roster := (s.draw.clockMark f).countConflict_frame.2.2.1
    have cleared : s.draw.conflictFreeMark.roster.conflicts = 0 := by
      rw [s.draw.conflictFreeMark_counts.1, if_neg]
      exact not_or.mpr ⟨Nat.ne_of_gt hk, Nat.not_lt.mpr hf⟩
    rcases (s.draw.clockMark_moves f hp).roster with k | k
    · rw [roster, k]; exact .inr rfl
    · rw [roster, k, cleared]; exact .inl ⟨rfl, rfl⟩
  | listenThird k _ _ => exact absurd k hl
  | listenFirst k _ _ => exact absurd k hl

/-- In LISTEN a present map that holds this station's number mutes it past a first or second conflict (R51,
notes/assumptions/39.md). -/
theorem OwnMark.mapped {s x : State} {f : MarkFrame} (h : OwnMark s f false x) (hk : s.roster.conflicts < 2)
    (hl : s.ctl.life = .listen) (hd : s.ctl.digest = some f.digest) (hm : mapHas f.map s.own = true) :
    x.ctl.life = .mute ∧ x.ctl.cause = .identity := by
  have mutes : ∀ y : State, y.own = s.own → (y.listenMap f).ctl.life = .mute ∧ (y.listenMap f).ctl.cause = .identity :=
    fun y hy => by
      rw [y.listenMap_mutes f (by rw [hy]; exact hm), (State.enterFrozen_fields _ _ _).1]
      exact ⟨rfl, rfl⟩
  cases h with
  | third hc => exact absurd hc (Nat.not_le.mpr hk)
  | conflictFirst hc =>
    rw [s.draw.conflictCounted.clockMark_listen f hl, if_pos (show s.draw.conflictCounted.ctl.digest = some f.digest from hd)]
    exact mutes _ (by rw [State.own, (State.listenClock_frame _ f).2.2.2.2.1]; rfl)
  | markFirst k => exact absurd hd (k.resolve_left (not_not_intro hl))
  | listenThird _ _ hc =>
    exact absurd (Nat.le_trans hc (s.draw.listenClock_moves f).conflicts_le) (Nat.not_le.mpr hk)
  | listenFirst _ _ hc =>
    exact mutes _ (by rw [State.own, State.conflictCounted_ctl, (State.listenClock_frame _ f).2.2.2.2.1]; rfl)

/-- A mismatched MARK has its event in every state that hears it (R10, R14). -/
theorem State.clockMark_profileConflict (s : State) (f : MarkFrame) (hl : s.ctl.life = .listen ∨ s.ctl.life = .joining ∨
    s.ctl.life = .run) (hd : s.ctl.digest ≠ some f.digest) :
    (Block.clock, { kind := .profileConflict, epoch := s.clock.cur, subject := some f.sender, value := f.digest }) ∈
      (s.clockMark f).port.arising := by
  rcases hl with h | h
  · rw [s.clockMark_listen f h, if_neg hd]
    exact s.raise_mem .clock .profileConflict (some f.sender) f.digest
  · rw [s.clockMark_mismatched f h.symm hd]
    exact s.raise_mem .clock .profileConflict (some f.sender) f.digest

theorem OwnMark.profileConflict {s x : State} {f : MarkFrame} {overlap : Bool} (h : OwnMark s f overlap x)
    (hk : overlap = true ∨ s.roster.conflicts < 2) (hl : s.ctl.life = .listen ∨ s.ctl.life = .joining ∨ s.ctl.life = .run)
    (hd : s.ctl.digest ≠ some f.digest) :
    (Block.clock, { kind := .profileConflict, epoch := s.clock.cur, subject := some f.sender, value := f.digest }) ∈
      x.port.arising := by
  cases h with
  | taken => exact s.clockMark_profileConflict f hl hd
  | third hc => exact absurd hc (Nat.not_le.mpr (hk.resolve_left (by decide)))
  | conflictFirst hc => exact s.draw.conflictCounted.clockMark_profileConflict f hl hd
  | markFirst _ => exact (State.countConflict_raised _).mem (s.draw.clockMark_profileConflict f hl hd)
  | listenThird _ k _ => exact absurd k hd
  | listenFirst _ k _ => exact absurd k hd

/-! ### An own-number MARK in JOINING and RUN -/

/-- The roster after an own-number frame: one conflict more unless its overlap indication is set (R49). -/
def State.ownCounts (s : State) (overlap : Bool) : Roster :=
  if overlap then s.roster else { s.roster with conflicts := s.roster.conflicts + 1, conflictFree := 0 }

/-- Where the epoch clock sets the MARK aside, with or without an event, no more than the conflict is left of it (R11, R49). -/
theorem OwnMark.quiet {s x : State} {f : MarkFrame} {overlap : Bool} (h : OwnMark s f overlap x)
    (hk : overlap = true ∨ s.roster.conflicts < 2) (hl : s.ctl.life ≠ .listen)
    (aside : ∀ v : State, v.clock = s.clock → v.ctl = s.ctl → ∃ p : Port, v.clockMark f = { v with port := p }) :
    x = { s with roster := s.ownCounts overlap, port := x.port, free := x.free } := by
  cases h with
  | taken =>
    obtain ⟨p, hp⟩ := aside s rfl rfl
    rw [hp]; rfl
  | third hc => exact absurd hc (Nat.not_le.mpr (hk.resolve_left (by decide)))
  | conflictFirst hc =>
    obtain ⟨p, hp⟩ := aside s.draw.conflictCounted rfl rfl
    rw [hp]; rfl
  | markFirst _ =>
    obtain ⟨p, hp⟩ := aside s.draw rfl rfl
    have few : ({ s.draw with port := p } : State).roster.conflicts < 2 := hk.resolve_left (by decide)
    rw [hp, State.countConflict_second _ few]; rfl
  | listenThird k _ _ => exact absurd k hl
  | listenFirst k _ _ => exact absurd k hl

/-- x comes of the epoch clock's table for a MARK on the books of s, but for conflict counts, draws and events that arose
beside (R11, R49). -/
def TakenOnBooks (s x : State) (f : MarkFrame) : Prop :=
  ∃ v : State, SameBooks s v ∧ v.clock = s.clock ∧ v.now = s.now ∧ (∀ t : State, Shows x t → Shows (v.continuity f) t) ∧
    x.faultWanted = (v.continuity f).faultWanted

/-- In JOINING and RUN, past a probation, an own-number MARK goes by the table for any MARK (R11, R49). -/
theorem OwnMark.taken_on_books {s x : State} {f : MarkFrame} {overlap : Bool} (h : OwnMark s f overlap x)
    (hk : overlap = true ∨ s.roster.conflicts < 2) (hl : s.ctl.life = .run ∨ s.ctl.life = .joining)
    (hd : s.ctl.digest = some f.digest) (hp : s.clock.probation = 0) : TakenOnBooks s x f := by
  have listens : s.ctl.life ≠ .listen := by rcases hl with k | k <;> rw [k] <;> decide
  have table : ∀ v : State, v.ctl = s.ctl → v.clock = s.clock → v.clockMark f = v.continuity f := fun v hv hc =>
    v.clockMark_continuity f (by rw [hv]; exact hl) (by rw [hv]; exact hd) (fun _ => by rw [hc]; exact hp)
  cases h with
  | taken =>
    rw [table s rfl rfl]
    exact ⟨s, ⟨rfl, rfl, rfl, rfl, rfl, rfl, rfl, rfl, rfl, rfl, rfl, rfl, rfl⟩, rfl, rfl, fun _ k => k, rfl⟩
  | third hc => exact absurd hc (Nat.not_le.mpr (hk.resolve_left (by decide)))
  | conflictFirst hc =>
    rw [table s.draw.conflictCounted rfl rfl]
    exact ⟨_, s.draw_books.trans s.draw.conflictCounted_books, rfl, rfl, fun _ k => k, rfl⟩
  | markFirst _ =>
    have moves := s.draw.clockMark_moves f (.inl hp)
    have few : (s.draw.clockMark f).roster.conflicts < 2 :=
      Nat.lt_of_le_of_lt moves.conflicts_le (hk.resolve_left (by decide))
    rw [State.countConflict_second _ few, table s.draw rfl rfl]
    exact ⟨_, s.draw_books, rfl, rfl, fun _ k => k.of_conflictCounted, rfl⟩
  | listenThird k _ _ => exact absurd k listens
  | listenFirst k _ _ => exact absurd k listens

/-! ### An own-number MARK in LISTEN -/

/-- A matching own-number MARK in LISTEN sets cur, pacing station and origin, and is counted unless its map mutes (R14, R122). -/
theorem OwnMark.listens {s x : State} {f : MarkFrame} {overlap : Bool} (h : OwnMark s f overlap x)
    (hk : overlap = true ∨ s.roster.conflicts < 2) (hl : s.ctl.life = .listen) (hd : s.ctl.digest = some f.digest) :
    x.clock.cur = f.epoch ∧ x.clock.pacing = some f.sender ∧ x.clock.origin = some s.now ∧
    (mapHas f.map s.own = false → x.ctl.matching = s.ctl.matching + 1) := by
  have maps : ∀ y : State, y.clock.cur = f.epoch → y.clock.pacing = some f.sender → y.clock.origin = some s.now →
      y.ctl = s.ctl → (y.listenMap f).clock.cur = f.epoch ∧ (y.listenMap f).clock.pacing = some f.sender ∧
      (y.listenMap f).clock.origin = some s.now ∧
      (mapHas f.map s.own = false → (y.listenMap f).ctl.matching = s.ctl.matching + 1) := fun y hc hpace horigin hctl => by
    obtain ⟨-, cur, pacing, origin, -⟩ := y.listenMap_frame f
    refine ⟨cur.trans hc, pacing.trans hpace, origin.trans horigin, fun hm => ?_⟩
    rw [y.listenMap_matching f (by rw [State.own, hctl]; exact hm), hctl]
  have clock : ∀ v : State, v.ctl = s.ctl → v.now = s.now → (v.clockMark f).clock.cur = f.epoch ∧
      (v.clockMark f).clock.pacing = some f.sender ∧ (v.clockMark f).clock.origin = some s.now ∧
      (mapHas f.map s.own = false → (v.clockMark f).ctl.matching = s.ctl.matching + 1) := fun v hv hn => by
    rw [v.clockMark_listen f (by rw [hv, hl]), if_pos (by rw [hv, hd])]
    have c := v.listenClock_clock f
    exact maps _ (by rw [c]) (by rw [c]) (by rw [c, hn]) ((v.listenClock_frame f).2.2.2.2.1.trans hv)
  cases h with
  | taken => exact clock s rfl rfl
  | third hc => exact absurd hc (Nat.not_le.mpr (hk.resolve_left (by decide)))
  | conflictFirst hc => exact clock s.draw.conflictCounted rfl rfl
  | markFirst k => exact absurd hd (k.resolve_left (not_not_intro hl))
  | listenThird _ _ hc =>
    exact absurd (Nat.le_trans hc (s.draw.listenClock_moves f).conflicts_le)
      (Nat.not_le.mpr (hk.resolve_left (by decide)))
  | listenFirst _ _ hc =>
    have c := s.draw.listenClock_clock f
    have ctl := (s.draw.listenClock_frame f).2.2.2.2.1
    generalize s.draw.listenClock f = y at c ctl
    have counted : y.conflictCounted.clock = y.clock := rfl
    exact maps _ (by rw [counted, c]) (by rw [counted, c]) (by rw [counted, c]; rfl) ctl

end Sys2Proof.Machine
end


section
/-! The continuity table on the books of a state, and the obligation about own numbers (R11, R49, R50). -/

namespace Sys2Proof.Machine

/-- The conflict count that a mark leaves (R50). -/
def State.markConflicts (s : State) : Nat :=
  if s.roster.conflicts = 0 ∨ s.roster.conflictFree < 7 then s.roster.conflicts else 0

/-- The conflict-free mark count that a mark leaves (R50). -/
def State.markConflictFree (s : State) : Nat :=
  if s.roster.conflicts = 0 then s.roster.conflictFree
  else if s.roster.conflictFree < 7 then s.roster.conflictFree + 1 else 0

/-- The counts that a mark on the books of s leaves, put for those of t (R50). -/
def State.withMarkCounts (s t : State) : State := t.withConflicts s.markConflicts s.markConflictFree

theorem State.withMarkCounts_conflictFree (s t : State) : ConflictFree s (s.withMarkCounts t) := ⟨rfl, rfl⟩

/-- The next epoch's MARK on the books of s, in RUN and JOINING (R11, R64, R99, R127, R132). -/
theorem next_on_books {s v t : State} {f : MarkFrame} (books : SameBooks s v) (hc : v.clock = s.clock)
    (shows : Shows (v.continuity f) t) (hl : s.ctl.life = .run ∨ s.ctl.life = .joining) (he : f.epoch = s.clock.cur + 1) :
    t.clock = s.clockTook f.epoch f.sender v.now t.ctl.life ∧
    (s.ctl.life = .run → MarkedInRun s (s.withMarkCounts t) (s.clock.cur + 1)) ∧
    (s.ctl.life = .joining → s.pool.held = none → MarkedInJoining s (s.withMarkCounts t) (s.clock.cur + 1)) ∧
    (s.ctl.life = .joining → ∀ h : HeldSnapshot, s.pool.held = some h → ∃ m : State, AtMark s m (s.clock.cur + 1) ∧
      (m.joinInstall = true → JoinerInstalled s m (s.withMarkCounts t) h (s.clock.cur + 1) true) ∧
      (m.joinInstall = false → JoinerStays s m (s.withMarkCounts t))) := by
  have clock := (v.acceptMark_moves f (by rw [books.ctl]; exact hl)).2
  rw [v.continuity_next f (by rw [hc]; exact he), State.acceptMark_eq] at shows
  rw [State.acceptMark_eq] at clock
  have counted : Shows ((v.tookEpoch f.epoch f.sender).takeMark true) (s.withMarkCounts t) := shows.withConflicts _ _
  have took : SameBooks s (v.tookEpoch f.epoch f.sender) := books.trans (v.tookEpoch_books _ _)
  have aclock := v.tookEpoch_clock f.epoch f.sender
  generalize v.tookEpoch f.epoch f.sender = a at shows clock counted took aclock
  have cur : a.clock.cur = s.clock.cur + 1 := by rw [aclock]; exact he
  have timer : s.ctl.life = .joining → a.clock.timer = s.clock.timer := fun hj => by
    rw [aclock, books.ctl, hj, ← hc]; rfl
  refine ⟨?_, fun hr => ?_, fun hj hh => ?_, fun hj h hh => ⟨a.reportDiscarded.conflictFreeMark, ?_, fun hi => ?_, fun hi => ?_⟩⟩
  · rw [shows.clock, clock, shows.ctl]
    simp only [State.clockTook, State.period, State.bits, State.own, books.ctl, hc]
  · rw [← cur]; exact .of_shows took hr counted (s.withMarkCounts_conflictFree t)
  · rw [← cur]; exact .of_shows took hj hh (timer hj) counted (s.withMarkCounts_conflictFree t)
  · rw [← cur]; exact took.atMark
  · have installing : a.installing = true := by
      rw [State.installing_iff, took.ctl]
      exact ⟨hj, by rw [← hi]; exact State.joinInstall_congr (by simp) (by simp) (by simp) (by simp)⟩
    rw [← cur]; exact (JoinerInstalled.of_shows took installing counted hh).1
  · have stays : a.joinInstall = false := by
      rw [← hi]; exact State.joinInstall_congr (by simp) (by simp) (by simp) (by simp)
    exact (JoinerStays.of_shows took hj stays (timer hj) counted).1

/-- An unexpected MARK from a sender at or below the pacing station on the books of s, in RUN and JOINING (R12, R95, R131). -/
theorem unexpected_on_books {s v t : State} {f : MarkFrame} (books : SameBooks s v) (hc : v.clock = s.clock)
    (shows : Shows (v.continuity f) t) (fault : t.drives.fault = (v.continuity f).faultWanted)
    (hl : s.ctl.life = .run ∨ s.ctl.life = .joining) (hcur : f.epoch ≠ s.clock.cur) (hnext : f.epoch ≠ s.clock.cur + 1)
    {p : Station} (hp : s.clock.pacing = some p) (hle : f.sender ≤ p) :
    t.clock = s.clockTook f.epoch f.sender v.now t.ctl.life ∧
    (s.ctl.life = .run → DiscontinuedInRun s (s.withMarkCounts t) f) ∧
    (s.ctl.life = .joining → DiscontinuedInJoining s (s.withMarkCounts t) f) := by
  have clock := (v.takeDiscontinuity_moves f (by rw [books.ctl]; exact hl)).2
  rw [v.continuity_unexpected f (by rw [hc]; exact hcur) (by rw [hc]; exact hnext) (by rw [hc]; exact hp) hle] at shows fault
  have counted : Shows (v.takeDiscontinuity f.epoch f.sender) (s.withMarkCounts t) := shows.withConflicts _ _
  have cur : v.clock.cur = s.clock.cur := by rw [hc]
  refine ⟨?_, fun hr => ?_, fun hj => ?_⟩
  · rw [shows.clock, clock, shows.ctl]
    simp only [State.clockTook, State.period, State.bits, State.own, books.ctl, hc]
  · have wanted := (v.takeDiscontinuity_faultWanted f.epoch f.sender (by rw [books.ctl]; exact hr)).1
    exact DiscontinuedInRun.of_shows books cur hr counted (s.withMarkCounts_conflictFree t) (fault.trans wanted)
  · exact DiscontinuedInJoining.of_shows books cur hj counted (s.withMarkCounts_conflictFree t)

/-- An own-number MARK moves no roster entry and keeps the station out of hardware reset (R49). -/
theorem OwnMark.keeps {s x : State} {f : MarkFrame} {overlap : Bool} (h : OwnMark s f overlap x)
    (hp : s.clock.probation = 0 ∨ s.ctl.digest ≠ some f.digest) :
    x.now = s.now ∧ x.roster.entries = s.roster.entries ∧ x.ctl.inReset = s.ctl.inReset := by
  have entries : ∀ v y : State, MarkMoves f v y → y.roster.entries = v.roster.entries := fun v y hm => by
    rcases hm.roster with k | k
    · rw [k]
    · rw [k]; simp
  have counted : ∀ y : State, y.countConflict.now = y.now ∧ y.countConflict.roster.entries = y.roster.entries ∧
      y.countConflict.ctl.inReset = y.ctl.inReset := fun y => by
    obtain ⟨now, -, roster, -⟩ := y.countConflict_frame
    refine ⟨now, by rw [roster], ?_⟩
    rw [State.countConflict_eq]
    split
    · rw [(State.enterFrozen_fields _ _ _).1]; rfl
    · rfl
  have taken : ∀ v : State, (v.clock.probation = 0 ∨ v.ctl.digest ≠ some f.digest) → (v.clockMark f).now = v.now ∧
      (v.clockMark f).roster.entries = v.roster.entries ∧ (v.clockMark f).ctl.inReset = v.ctl.inReset := fun v hv =>
    ⟨v.clockMark_now f, entries _ _ (v.clockMark_moves f hv), (v.clockMark_moves f hv).inReset⟩
  have listened : (s.draw.listenClock f).now = s.now ∧ (s.draw.listenClock f).roster.entries = s.roster.entries ∧
      (s.draw.listenClock f).ctl.inReset = s.ctl.inReset :=
    ⟨(s.draw.listenClock_frame f).1, entries s.draw _ (s.draw.listenClock_moves f), (s.draw.listenClock_moves f).inReset⟩
  cases h with
  | taken => exact taken s hp
  | third _ => exact counted s.draw
  | conflictFirst _ => exact taken s.draw.conflictCounted hp
  | markFirst _ =>
    obtain ⟨cnow, centries, creset⟩ := counted (s.draw.clockMark f)
    obtain ⟨tnow, tentries, treset⟩ := taken s.draw hp
    exact ⟨cnow.trans tnow, centries.trans tentries, creset.trans treset⟩
  | listenThird _ _ _ =>
    obtain ⟨cnow, centries, creset⟩ := counted (s.draw.listenClock f)
    exact ⟨cnow.trans listened.1, centries.trans listened.2.1, creset.trans listened.2.2⟩
  | listenFirst _ _ _ =>
    obtain ⟨mnow, -, -, -, mroster, -⟩ := (s.draw.listenClock f).conflictCounted.listenMap_frame f
    have mreset := ((s.draw.listenClock f).conflictCounted.listenMap_ctl f).2
    exact ⟨mnow.trans listened.1, (congrArg Roster.entries mroster).trans listened.2.1, mreset.trans listened.2.2⟩

theorem OwnMark.taken_conflicts {s x : State} {f : MarkFrame} (h : OwnMark s f true x)
    (hp : s.clock.probation = 0 ∨ s.ctl.digest ≠ some f.digest) (hb : s.roster.conflicts = 0 ∨ s.roster.conflictFree < 7) :
    x.roster.conflicts = s.roster.conflicts := by
  cases h
  exact (s.clockMark_moves f hp).conflicts_below hb

/-- A MARK of another profile, one of the present epoch and one foreign to the table are set aside (R10, R11). -/
theorem State.clockMark_aside (s : State) (f : MarkFrame) (hl : s.ctl.life = .run ∨ s.ctl.life = .joining)
    (hp : s.ctl.digest ≠ some f.digest ∨ s.clock.probation = 0 ∧ (f.epoch = s.clock.cur ∨ f.epoch ≠ s.clock.cur ∧
      f.epoch ≠ s.clock.cur + 1 ∧ ∃ p : Station, s.clock.pacing = some p ∧ p < f.sender)) :
    ∃ p : Port, s.clockMark f = { s with port := p } := by
  by_cases hd : s.ctl.digest = some f.digest
  · obtain ⟨hprob, he⟩ := hp.resolve_left (not_not_intro hd)
    rw [s.clockMark_continuity f hl hd (fun _ => hprob)]
    rcases he with he | ⟨hcur, hnext, p, hpace, hlt⟩
    · exact ⟨s.port, s.continuity_repeated f he⟩
    · exact ⟨_, s.continuity_foreign f hcur hnext hpace hlt⟩
  · exact ⟨_, s.clockMark_mismatched f hl hd⟩

/-- A MARK foreign to the table has its event (R11). -/
theorem OwnMark.foreign {s x : State} {f : MarkFrame} {overlap : Bool} (h : OwnMark s f overlap x)
    (hk : overlap = true ∨ s.roster.conflicts < 2) (hl : s.ctl.life = .run ∨ s.ctl.life = .joining)
    (hd : s.ctl.digest = some f.digest) (hp : s.clock.probation = 0) (hcur : f.epoch ≠ s.clock.cur)
    (hnext : f.epoch ≠ s.clock.cur + 1) {p : Station} (hpace : s.clock.pacing = some p) (hlt : p < f.sender) :
    (Block.clock, { kind := .foreignMark, epoch := s.clock.cur, subject := some f.sender, value := f.epoch }) ∈
      x.port.arising := by
  have table : ∀ v : State, v.ctl = s.ctl → v.clock = s.clock → (Block.clock, ({
      kind := .foreignMark, epoch := s.clock.cur, subject := some f.sender, value := f.epoch } : Event)) ∈
      (v.clockMark f).port.arising := fun v hv hc => by
    rw [v.clockMark_continuity f (by rw [hv]; exact hl) (by rw [hv]; exact hd) (fun _ => by rw [hc]; exact hp),
      v.continuity_foreign f (by rw [hc]; exact hcur) (by rw [hc]; exact hnext) (by rw [hc]; exact hpace) hlt, ← hc]
    exact v.raise_mem .clock .foreignMark (some f.sender) f.epoch
  have listens : s.ctl.life ≠ .listen := by rcases hl with k | k <;> rw [k] <;> decide
  cases h with
  | taken => exact table s rfl rfl
  | third hc => exact absurd hc (Nat.not_le.mpr (hk.resolve_left (by decide)))
  | conflictFirst _ => exact table s.draw.conflictCounted rfl rfl
  | markFirst _ => exact (State.countConflict_raised _).mem (table s.draw rfl rfl)
  | listenThird k _ _ => exact absurd k listens
  | listenFirst k _ _ => exact absurd k listens

/-- An own-number MARK set aside leaves its conflict alone at the step's end (R49). -/
theorem OwnMark.quiet_finish {s x : State} {f : MarkFrame} {overlap : Bool} (h : OwnMark s f overlap x) (hs : Ready s)
    (hk : overlap = true ∨ s.roster.conflicts < 2) (hl : s.ctl.life = .run ∨ s.ctl.life = .joining)
    (hp : s.ctl.digest ≠ some f.digest ∨ s.clock.probation = 0 ∧ (f.epoch = s.clock.cur ∨ f.epoch ≠ s.clock.cur ∧
      f.epoch ≠ s.clock.cur + 1 ∧ ∃ p : Station, s.clock.pacing = some p ∧ p < f.sender)) :
    x.finish = { s with roster := s.ownCounts overlap, port := x.finish.port, free := x.finish.free } := by
  have listens : s.ctl.life ≠ .listen := by rcases hl with k | k <;> rw [k] <;> decide
  have quiet := h.quiet hk listens fun v hc hv =>
    v.clockMark_aside f (by rw [hv]; exact hl) (by rw [hv, hc]; exact hp)
  have ctl : x.ctl = s.ctl := by rw [quiet]
  have fault : x.drives.fault = x.faultWanted := by rw [quiet]; exact hs.fault
  have ports := x.finish_ports (by rw [ctl]; exact hs.1) fault
  exact ports.trans (congrArg (fun y : State => { y with port := x.finish.port, free := x.finish.free }) quiet)

/-- Settles O49: its first part is own_frames_are_conflicts; of a MARK each clause is a lemma over the orders in which it is
counted and taken. -/
theorem ownNumbersAreConflicts : Obligations.OwnNumbersAreConflicts := by
  unfold Obligations.OwnNumbersAreConflicts
  refine ⟨own_frames_are_conflicts, fun s dt f h hc ho hp hleave => ?_⟩
  have ready := h.heard dt
  have order : OwnMark (s.heard dt) f s.line.overlap ((s.heard dt).markIn f s.line.overlap) :=
    (s.heard dt).markIn_ownMark f s.line.overlap ho (.inl (State.inLeavingEpoch_false (.inr hleave)))
  have exec_eq := exec_markReceived s dt f h hc
  generalize (s.heard dt).markIn f s.line.overlap = x at order exec_eq
  obtain ⟨now, entries, reset⟩ := order.keeps hp
  have shows := x.finish_shows
  have roster : x.finish.roster = x.roster := x.finish_frame.2.2.2.1
  have fault : x.finish.drives.fault = x.faultWanted := State.finish_fault x (reset.trans h.1)
  have heard : s.ctl.life = .listen ∨ s.ctl.life = .joining ∨ s.ctl.life = .run := State.canReceive_life hc
  have noprob : s.ctl.digest = some f.digest → s.clock.probation = 0 := fun hd => hp.resolve_right (not_not_intro hd)
  have own : ∀ hv : s.line.overlap = false, OwnMark (s.heard dt) f false x := fun hv => hv ▸ order
  have onBooks : ∀ hk : s.line.overlap = true ∨ s.roster.conflicts < 2, s.ctl.digest = some f.digest →
      (s.ctl.life = .run ∨ s.ctl.life = .joining) → ∃ v : State, SameBooks s v ∧ v.clock = s.clock ∧ v.now = s.now + dt ∧
        Shows (v.continuity f) x.finish ∧ x.finish.drives.fault = (v.continuity f).faultWanted := fun hk hd hl => by
    obtain ⟨v, books, clock, vnow, carried, wanted⟩ := order.taken_on_books hk hl hd (noprob hd)
    exact ⟨v, (s.heard_books dt).trans books, clock, vnow, carried _ shows, fault.trans wanted⟩
  refine ⟨x.finish, exec_eq, shows.now.trans now, shows.entries.trans entries, fun hv hb => ?_, fun hv hb => ?_,
    fun hv hk hl hd hm => ?_, fun hv hk hf hd he hl => ?_, fun hd hk => ?_, fun hd hl hk => ?_, fun hl => ⟨?_, ?_, ?_⟩, ?_,
    fun hl hk => ?_⟩
  · rw [roster]
    have overlapped : OwnMark (s.heard dt) f true x := hv ▸ order
    exact overlapped.taken_conflicts hp hb
  · obtain ⟨conflicts, free, muted, e, he, event⟩ := (own hv).counts hp hb
    rw [roster, shows.ctl]
    refine ⟨conflicts, free, fun k => ⟨(muted k).1, (muted k).2, ?_⟩, e, he, shows.reported _ _ event⟩
    rw [fault, State.faultWanted, (muted k).1]; rfl
  · rw [shows.ctl]
    exact (own hv).mapped hk hl hd hm
  · rw [roster]
    exact (own hv).eighth hp hk hf (by rcases hl with k | k <;> simp [k])
  · exact shows.reported _ _ (order.profileConflict hk heard hd)
  · exact order.quiet_finish ready hk hl (.inl hd)
  · rintro ⟨⟨hd, hk⟩, he⟩
    exact order.quiet_finish ready hk hl (.inr ⟨noprob hd, .inl he⟩)
  · rintro ⟨⟨hd, hk⟩, hcur, hnext, p, hpace, hlt⟩
    rw [← ho] at hlt
    exact ⟨order.quiet_finish ready hk hl (.inr ⟨noprob hd, .inr ⟨hcur, hnext, p, hpace, hlt⟩⟩),
      shows.reported _ _ (order.foreign hk hl hd (noprob hd) hcur hnext hpace hlt)⟩
  · rw [← ho]
    rintro (⟨⟨hd, hk⟩, he⟩ | ⟨⟨hd, hk⟩, hcur, hnext, p, hpace, hle⟩)
    · obtain ⟨v, books, clock, vnow, carried, -⟩ := onBooks hk hd hl
      rw [← vnow]
      exact (next_on_books books clock carried hl he).1
    · obtain ⟨v, books, clock, vnow, carried, wanted⟩ := onBooks hk hd hl
      rw [← vnow]
      exact (unexpected_on_books books clock carried wanted hl hcur hnext hpace hle).1
  · refine ⟨s.markConflicts, s.markConflictFree, fun hr => ⟨?_, ?_⟩, fun hj => ⟨?_, ?_, ?_⟩⟩
    · rintro ⟨⟨hd, hk⟩, he⟩
      obtain ⟨v, books, clock, -, carried, -⟩ := onBooks hk hd (.inl hr)
      exact (next_on_books books clock carried (.inl hr) he).2.1 hr
    · rintro ⟨⟨hd, hk⟩, hcur, hnext, p, hpace, hle⟩
      rw [← ho] at hle
      obtain ⟨v, books, clock, -, carried, wanted⟩ := onBooks hk hd (.inl hr)
      exact (unexpected_on_books books clock carried wanted (.inl hr) hcur hnext hpace hle).2.1 hr
    · rintro ⟨⟨hd, hk⟩, he⟩ hh
      obtain ⟨v, books, clock, -, carried, -⟩ := onBooks hk hd (.inr hj)
      exact (next_on_books books clock carried (.inr hj) he).2.2.1 hj hh
    · rintro ⟨⟨hd, hk⟩, he⟩ hh
      obtain ⟨v, books, clock, -, carried, -⟩ := onBooks hk hd (.inr hj)
      exact (next_on_books books clock carried (.inr hj) he).2.2.2 hj hh
    · rintro ⟨⟨hd, hk⟩, hcur, hnext, p, hpace, hle⟩
      rw [← ho] at hle
      obtain ⟨v, books, clock, -, carried, wanted⟩ := onBooks hk hd (.inr hj)
      exact (unexpected_on_books books clock carried wanted (.inr hj) hcur hnext hpace hle).2.2 hj
  · obtain ⟨hd, hk⟩ := hk
    have listens := order.listens hk hl hd
    rw [ho] at listens
    rw [shows.clock, shows.ctl]
    exact listens

end Sys2Proof.Machine
end


section
/-! The slot-phase end: misses, lapses and the reference on the roster's entries, and its parts by life-cycle state (R8, R43
to R46). -/

namespace Sys2Proof.Machine

/-! ### Misses, lapses and the reference -/

theorem stations_nodup : stations.Nodup := by decide

theorem State.setEntry_entry (s : State) (m n : Station) (e : RosterEntry) :
    (s.setEntry m e).entry n = if n = m then e else s.entry n := by
  have entries : (s.setEntry m e).roster.entries = s.roster.entries.set m e := by
    simp only [State.setEntry]
    split <;> rfl
  rw [State.entry, entries, Tbl.get_set]
  rfl

/-- A step on one station's entry after another, each once, is the step on the entries of those stations. -/
theorem foldl_entry (step : State → Station → State) (bump : RosterEntry → RosterEntry) (ctl : Controller)
    (hstep : ∀ (x : State) (m n : Station), x.ctl = ctl →
      (step x m).entry n = (if n = m then bump (x.entry m) else x.entry n) ∧ (step x m).ctl = ctl) :
    ∀ (l : List Station) (s : State), l.Nodup → s.ctl = ctl → ∀ n : Station,
      (l.foldl step s).entry n = if n ∈ l then bump (s.entry n) else s.entry n := by
  intro l
  induction l with
  | nil => intro s _ _ n; simp
  | cons m t ih =>
    intro s hnd hs n
    obtain ⟨hm, hnd⟩ := List.nodup_cons.mp hnd
    obtain ⟨entry, hctl⟩ := hstep s m n hs
    rw [List.foldl_cons, ih _ hnd hctl n, entry]
    by_cases h : n = m
    · subst h
      simp [hm]
    · simp [h]

/-- An entry whose station misses its expected report, L the eviction limit (R43). -/
def RosterEntry.missed (e : RosterEntry) (limit : Nat) : RosterEntry :=
  { e with miss := e.miss + 1, state := if limit ≤ e.miss + 1 then .gone else .missing }

/-- Station n misses its expected report at a slot-phase end (R43). -/
def State.misses (s : State) (n : Station) : Bool :=
  match s.record (s.clock.cur - 1) with
  | none => false
  | some r => n != s.own && mapHas r.expected n && !mapHas r.heard n &&
      ((s.entry n).state == .present || (s.entry n).state == .missing)

theorem State.countMisses_entry (s : State) (n : Station) : s.countMisses.entry n =
    if s.misses n then (s.entry n).missed s.ctl.profile.eviction else s.entry n := by
  unfold State.countMisses State.misses
  cases s.record (s.clock.cur - 1) with
  | none => simp
  | some r =>
    dsimp only
    rw [foldl_entry State.countMiss (fun e => e.missed s.ctl.profile.eviction) s.ctl
      (fun x m n hx => ⟨by rw [State.countMiss, State.setEntry_entry, hx]; rfl, by simp [State.countMiss, hx]⟩) _ s
      (stations_nodup.filter _) rfl]
    simp only [List.mem_filter, mem_stations, true_and]

theorem State.lapseJoins_entry (s : State) (n : Station) : s.lapseJoins.entry n =
    if lapsed s.clock.cur (s.entry n) then .blank else s.entry n := by
  unfold State.lapseJoins
  rw [foldl_entry (fun s n => s.setEntry n .blank) (fun _ => .blank) s.ctl
    (fun x m n hx => ⟨State.setEntry_entry _ _ _ _, by simp [hx]⟩) _ s (stations_nodup.filter _) rfl]
  simp only [List.mem_filter, mem_stations, true_and]

/-- a and b agree on what the roster reads at a slot-phase end. -/
structure RosterAlike (a b : State) : Prop where
  entries : a.roster.entries = b.roster.entries
  cur : a.clock.cur = b.clock.cur
  window : a.window = b.window
  ctl : a.ctl = b.ctl
  pool : a.pool = b.pool

theorem RosterAlike.countMisses {a b : State} (h : RosterAlike a b) : RosterAlike a.countMisses b.countMisses := by
  refine ⟨Tbl.ext_get fun n => ?_, by simp [h.cur], by simp [h.window], by simp [h.ctl], by simp [h.pool]⟩
  have entry : ∀ m : Station, a.entry m = b.entry m := fun m => by rw [State.entry, h.entries]; rfl
  have same := a.countMisses_entry n
  simp only [State.misses, State.record, State.own, entry, h.cur, h.window, h.ctl] at same
  exact same.trans (b.countMisses_entry n).symm

theorem RosterAlike.lapseJoins {a b : State} (h : RosterAlike a b) : RosterAlike a.lapseJoins b.lapseJoins := by
  refine ⟨Tbl.ext_get fun n => ?_, by simp [h.cur], by simp [h.window], by simp [h.ctl], by simp [h.pool]⟩
  have entry : ∀ m : Station, a.entry m = b.entry m := fun m => by rw [State.entry, h.entries]; rfl
  have same := a.lapseJoins_entry n
  rw [entry, h.cur] at same
  exact same.trans (b.lapseJoins_entry n).symm

theorem RosterAlike.chosenReference {a b : State} (h : RosterAlike a b) : a.chosenReference = b.chosenReference := by
  have entry : ∀ m : Station, a.entry m = b.entry m := fun m => by rw [State.entry, h.entries]; rfl
  have own : a.own = b.own := by rw [State.own, h.ctl, State.own]
  have candidate : a.isCandidate = b.isCandidate := by
    funext n; simp only [State.isCandidate, own, h.ctl, entry]
  have clean : a.candidateClean = b.candidateClean := by
    funext n; simp only [State.candidateClean, own, h.pool, entry]
  simp only [State.chosenReference, candidate, clean]

theorem State.chooseReference_roster (s : State) : s.chooseReference.roster.reference = s.chosenReference ∧
    s.chooseReference.roster.entries = s.roster.entries := by
  simp only [State.chooseReference]
  split
  next h => exact ⟨h.symm, rfl⟩
  next => split <;> exact ⟨rfl, rfl⟩

/-! ### The parts of a slot-phase end -/

/-- The open window begins: epoch clock and line have had their parts of the slot-phase end (R8, R33, R34). -/
def State.phaseBegun (s : State) : State :=
  { s with clock := { s.clock with slotCount := 32, slotTimer := .window } }.linePhaseEnd

/-- The roster's part of a slot-phase end in JOINING and RUN: misses, lapses, and the reference (R43, R44, R46). -/
def State.phaseRoster (s : State) : State := s.countMisses.lapseJoins.chooseReference

theorem State.phaseRoster_roster (s : State) : s.phaseRoster.roster.reference = s.countMisses.lapseJoins.chosenReference ∧
    s.phaseRoster.roster.entries = s.countMisses.lapseJoins.roster.entries := State.chooseReference_roster _

/-- A third JOIN has gone unanswered (R129). -/
def State.joinUnanswered (s : State) : Prop :=
  s.ctl.joinAttempts = 3 ∧ s.ctl.joinWait = 4 ∧ s.pool.held = none

/-- A joiner's wait for its next JOIN is over (R127). -/
def State.joinDue (s : State) : Prop :=
  (s.ctl.joinAttempts = 0 ∧ s.ctl.profile.foldLag ≤ s.ctl.joinWait) ∨
    ((s.ctl.joinAttempts = 1 ∨ s.ctl.joinAttempts = 2) ∧ s.ctl.joinWait = 4)

theorem State.phaseEnd_joining (s : State) (h : s.ctl.life = .joining) :
    (s.phaseBegun.phaseRoster.joinUnanswered → s.phaseEnd = s.phaseBegun.phaseRoster.enterFrozen .mute .join) ∧
    (¬s.phaseBegun.phaseRoster.joinUnanswered → s.phaseBegun.phaseRoster.joinDue →
      s.phaseEnd = s.phaseBegun.phaseRoster.offerKey .join) ∧
    (¬s.phaseBegun.phaseRoster.joinUnanswered → ¬s.phaseBegun.phaseRoster.joinDue →
      s.phaseEnd = s.phaseBegun.phaseRoster) := by
  unfold State.phaseEnd
  rw [h]
  exact ⟨fun hu => if_pos hu, fun hu hd => (if_neg hu).trans (if_pos hd), fun hu hd => (if_neg hu).trans (if_neg hd)⟩

/-- The offers and the pool unit's work of a slot-phase end in RUN (R59, R74, R91, R106, R133). -/
def State.phaseOffers (s : State) : State :=
  let t := (s.offerResends (s.builder.outbox.filter (fun e => !e.transmitted))).offerPairs.poolPhaseEnd.offerAdjust
  if t.ctl.leave = .leaving then t.offerKey .leave else t

theorem State.phaseEnd_run (s : State) (h : s.ctl.life = .run) : s.phaseEnd = s.phaseBegun.phaseRoster.phaseOffers := by
  unfold State.phaseEnd State.phaseOffers State.phaseRoster State.phaseBegun
  rw [h]

theorem State.phaseEnd_listen (s : State) (h : s.ctl.life = .listen) : s.phaseEnd = s.phaseBegun.lapseJoins := by
  unfold State.phaseEnd
  rw [h]
  rfl

theorem State.phaseBegun_alike (s : State) : RosterAlike s.phaseBegun s := ⟨rfl, rfl, rfl, rfl, rfl⟩

/-- What the offers and the pool unit's work leave alone (R8). -/
theorem State.phaseOffers_frame (s : State) : s.phaseOffers.now = s.now ∧ s.phaseOffers.clock = s.clock ∧
    s.phaseOffers.roster = s.roster ∧ s.phaseOffers.builder = s.builder ∧ s.phaseOffers.window = s.window ∧
    s.phaseOffers.adjust = s.adjust ∧ s.phaseOffers.ctl = s.ctl ∧ s.phaseOffers.channels = s.channels := by
  simp only [State.phaseOffers]
  split <;> simp

theorem State.phaseRoster_frame (s : State) : s.phaseRoster.now = s.now ∧ s.phaseRoster.clock = s.clock ∧
    s.phaseRoster.line = s.line ∧ s.phaseRoster.builder = s.builder ∧ s.phaseRoster.window = s.window ∧
    s.phaseRoster.adjust = s.adjust ∧ s.phaseRoster.ctl = s.ctl ∧ s.phaseRoster.channels = s.channels ∧
    s.phaseRoster.drives = s.drives := by
  simp [State.phaseRoster]

/-- A new reference becomes the target at most; nothing else of the pool unit moves with the roster (R47, R94). -/
theorem State.phaseRoster_pool (s : State) : s.phaseRoster.pool =
    { s.pool with target := s.phaseRoster.pool.target, wait := s.phaseRoster.pool.wait } := by
  have chosen : ∀ x : State, x.chooseReference.pool =
      { x.pool with target := x.chooseReference.pool.target, wait := x.chooseReference.pool.wait } := fun x => by
    simp only [State.chooseReference]
    split
    · rfl
    · split <;> rfl
  simpa [State.phaseRoster] using chosen s.countMisses.lapseJoins

end Sys2Proof.Machine
end


section
/-! The slot-phase end at the end of its step (R8, R127, R129). -/

namespace Sys2Proof.Machine

theorem State.setEntry_reference (s : State) (n : Station) (e : RosterEntry) :
    (s.setEntry n e).roster.reference = s.roster.reference := by
  simp only [State.setEntry]
  split <;> rfl

theorem State.lapseJoins_reference (s : State) : s.lapseJoins.roster.reference = s.roster.reference :=
  foldl_keeps (fun s : State => s.roster.reference) (fun (s : State) (n : Station) => s.setEntry n .blank)
    (fun s n => s.setEntry_reference n .blank) _ s

/-- No slot-phase end moves the instant or a channel (R8). -/
theorem State.phaseEnd_frame (s : State) : s.phaseEnd.now = s.now ∧ s.phaseEnd.channels = s.channels := by
  obtain ⟨rnow, -, -, -, -, -, -, rchannels, -⟩ := s.phaseBegun.phaseRoster_frame
  cases h : s.ctl.life with
  | config => rw [State.phaseEnd, h]; exact ⟨rfl, rfl⟩
  | mute => rw [State.phaseEnd, h]; exact ⟨rfl, rfl⟩
  | quiet => rw [State.phaseEnd, h]; exact ⟨rfl, rfl⟩
  | listen => rw [s.phaseEnd_listen h]; simp [State.phaseBegun]
  | joining =>
    obtain ⟨unanswered, due, idle⟩ := s.phaseEnd_joining h
    by_cases hu : s.phaseBegun.phaseRoster.joinUnanswered
    · rw [unanswered hu]
      exact ⟨(State.enterFrozen_frame _ _ _).1.trans rnow, (State.enterFrozen_frame _ _ _).2.2.2.2.2.1.trans rchannels⟩
    · by_cases hd : s.phaseBegun.phaseRoster.joinDue
      · rw [due hu hd]
        simp only [State.offerKey_frame, rnow, rchannels]
        exact ⟨rfl, rfl⟩
      · rw [idle hu hd, rnow, rchannels]; exact ⟨rfl, rfl⟩
  | run =>
    obtain ⟨onow, -, -, -, -, -, -, ochannels⟩ := s.phaseBegun.phaseRoster.phaseOffers_frame
    rw [s.phaseEnd_run h, onow, ochannels, rnow, rchannels]
    exact ⟨rfl, rfl⟩

/-- The roster's part is the same on every state it reads alike (R43, R44, R46). -/
theorem RosterAlike.phaseRoster {a b : State} (h : RosterAlike a b) :
    a.phaseRoster.roster.reference = b.countMisses.lapseJoins.chosenReference ∧
    a.phaseRoster.roster.entries = b.countMisses.lapseJoins.roster.entries :=
  ⟨a.phaseRoster_roster.1.trans h.countMisses.lapseJoins.chosenReference,
    a.phaseRoster_roster.2.trans h.countMisses.lapseJoins.entries⟩

/-- In JOINING a slot-phase end mutes, or waits on with a JOIN offered when its wait is over (R127, R129). -/
theorem phaseEnd_shows_joining {s u t : State} (hs : SameBooks s u) (hc : u.clock = s.clock) (hj : s.ctl.life = .joining)
    (hr : s.ctl.inReset = false) (ht : t = u.phaseEnd.finish) :
    t.roster.reference = s.countMisses.lapseJoins.chosenReference ∧
    t.roster.entries = s.countMisses.lapseJoins.roster.entries ∧ t.window = s.window ∧ t.adjust = s.adjust ∧
    (s.joinUnanswered → t.ctl.life = .mute ∧ t.ctl.cause = .join ∧ t.drives.fault = true ∧ t.line.queue = [] ∧
      Reported t { kind := .state, epoch := s.clock.cur, subject := none, value := 0x0403 }) ∧
    (¬s.joinUnanswered → t.clock = { s.clock with slotCount := 32, slotTimer := .window } ∧ t.ctl = s.ctl ∧
      t.builder = s.builder ∧
      (s.joinDue → (s.line.queue.filter (fun e => e.key != .request)).length < 8 → ∃ q ∈ t.line.queue, q.key = .join) ∧
      (¬s.joinDue → t.line.queue = s.line.queue.filter (fun e => e.key != .request))) := by
  have alike : RosterAlike u.phaseBegun s := ⟨hs.entries, by rw [← hc]; rfl, hs.window, hs.ctl, hs.pool⟩
  obtain ⟨reference, entries⟩ := alike.phaseRoster
  obtain ⟨-, rclock, rline, rbuilder, rwindow, radjust, rctl, -, -⟩ := u.phaseBegun.phaseRoster_frame
  have rheld : u.phaseBegun.phaseRoster.pool.held = s.pool.held := by
    rw [u.phaseBegun.phaseRoster_pool, ← hs.pool]; rfl
  have rclock' : u.phaseBegun.phaseRoster.clock = { s.clock with slotCount := 32, slotTimer := .window } := by
    rw [rclock, ← hc]; rfl
  have rctl' : u.phaseBegun.phaseRoster.ctl = s.ctl := rctl.trans hs.ctl
  have rqueue : u.phaseBegun.phaseRoster.line.queue = s.line.queue.filter (fun e => e.key != .request) := by
    rw [rline, ← hs.queue]; rfl
  have unanswered : u.phaseBegun.phaseRoster.joinUnanswered ↔ s.joinUnanswered := by
    rw [State.joinUnanswered, State.joinUnanswered, rctl', rheld]
  have due : u.phaseBegun.phaseRoster.joinDue ↔ s.joinDue := by rw [State.joinDue, State.joinDue, rctl']
  obtain ⟨muted, offered, idle⟩ := u.phaseEnd_joining (by rw [hs.ctl, hj])
  generalize u.phaseBegun.phaseRoster = p at *
  by_cases hu : s.joinUnanswered
  · rw [muted (unanswered.mpr hu)] at ht
    obtain ⟨fctl, -, fline, -, -⟩ := p.enterFrozen_fields .mute .join
    have event := p.enterFrozen_mem .mute .join
    have shows := (p.enterFrozen .mute .join).finish_shows
    have fault := State.finish_fault (p.enterFrozen .mute .join) (by rw [fctl, rctl']; exact hr)
    rw [← ht] at shows fault
    rw [rclock'] at event
    rw [shows.reference, shows.entries, shows.window, shows.adjust, shows.ctl, shows.line, fault, State.faultWanted, fctl, fline]
    simp only [State.enterFrozen_frame, reference, entries, rwindow, radjust, true_and]
    exact ⟨hs.window, hs.adjust, fun _ => ⟨rfl, shows.reported _ _ event⟩, fun k => absurd hu k⟩
  · by_cases hd : s.joinDue
    · rw [offered (unanswered.not.mpr hu) (due.mpr hd)] at ht
      have waits := p.offer_waits .join none none (by rw [rctl', hj]; rfl)
      have shows := (p.offerKey .join).finish_shows
      rw [← ht] at shows
      rw [shows.reference, shows.entries, shows.window, shows.adjust, shows.clock, shows.ctl, shows.builder, shows.line]
      simp only [State.offerKey_frame, reference, entries, rwindow, radjust, rctl', rclock', rbuilder, true_and]
      refine ⟨hs.window, hs.adjust, fun k => absurd k hu, fun _ => ⟨hs.builder, fun _ hq => ?_, fun k => absurd hd k⟩⟩
      exact (waits (by rw [rqueue]; exact hq)).2
    · rw [idle (unanswered.not.mpr hu) (due.not.mpr hd)] at ht
      have shows := p.finish_shows
      rw [← ht] at shows
      rw [shows.reference, shows.entries, shows.window, shows.adjust, shows.clock, shows.ctl, shows.builder, shows.line,
        reference, entries, rwindow, radjust, rctl', rclock', rbuilder, rqueue]
      exact ⟨rfl, rfl, hs.window, hs.adjust, fun k => absurd k hu, fun _ => ⟨rfl, rfl, hs.builder, fun k => absurd k hd,
        fun _ => rfl⟩⟩

/-- Settles O19, by the life-cycle state in which the slot phase ends. -/
theorem slotPhaseEnds : Obligations.SlotPhaseEnds := by
  unfold Obligations.SlotPhaseEnds
  intro s o h ho ht
  set u := s.until (o + s.bits 10240) with hu
  have unow : u.now = s.due (o + s.bits 10240) := s.until_now _
  have books : SameBooks s u := ⟨rfl, rfl, rfl, rfl, rfl, rfl, rfl, rfl, rfl, rfl, rfl, rfl, rfl⟩
  have alike : RosterAlike u.phaseBegun s := ⟨rfl, rfl, rfl, rfl, rfl⟩
  have ends : s.slotsOver = u.phaseEnd := by
    unfold State.slotsOver
    rw [ho]
    exact if_pos ht
  have exec_eq : exec .slotPhaseEnd s = .next u.phaseEnd.finish := by
    rw [← ends]; exact s.inside_eq _ h.1
  have shows := u.phaseEnd.finish_shows
  obtain ⟨now, channels⟩ := u.phaseEnd_frame
  have reply := u.phaseEnd_raised.reply
  refine ⟨_, exec_eq, (shows.now.trans now).trans unow, fun hr => ?_, fun hj => ?_, fun hl => ?_,
    (shows.channels.trans channels).trans books.channels, (shows.reply.trans reply).trans books.reply⟩
  · obtain ⟨reference, entries⟩ := alike.phaseRoster
    obtain ⟨-, rclock, -, rbuilder, rwindow, radjust, rctl, -, -⟩ := u.phaseBegun.phaseRoster_frame
    obtain ⟨-, oclock, oroster, obuilder, owindow, oadjust, octl, -⟩ := u.phaseBegun.phaseRoster.phaseOffers_frame
    rw [u.phaseEnd_run hr] at shows ⊢
    rw [shows.clock, shows.ctl, shows.reference, shows.entries, shows.builder, shows.window, shows.adjust, oclock, octl,
      oroster, obuilder, owindow, oadjust, rclock, rctl, reference, entries, rbuilder, rwindow, radjust]
    exact ⟨rfl, rfl, rfl, rfl, rfl, rfl, rfl⟩
  · exact phaseEnd_shows_joining books rfl hj h.1 rfl
  · have entries := alike.lapseJoins.entries
    have reference := u.phaseBegun.lapseJoins_reference
    rw [u.phaseEnd_listen hl] at shows ⊢
    rw [shows.clock, shows.ctl, shows.reference, shows.entries, shows.builder, shows.window, shows.pool, entries, reference]
    simp only [State.lapseJoins_frame, true_and]
    exact ⟨rfl, rfl, rfl, rfl, rfl, rfl⟩

end Sys2Proof.Machine
end


section
/-! The sender's entry, the comparison and the window at an implied mark (R16, R38, R65, R66, R90). -/

namespace Sys2Proof.Machine

/-! ### Station maps -/

theorem mapHas_mapOf : ∀ m n : Station, mapHas (mapOf m) n = decide (n = m) := by decide

theorem mapHas_or (a b : StationMap) (n : Station) : mapHas (a ||| b) n = (mapHas a n || mapHas b n) :=
  BitVec.getLsbD_or

theorem mapHas_mapWhere (p : Station → Bool) (n : Station) : mapHas (mapWhere p) n = p n := by
  have folded : ∀ (l : List Station) (m : StationMap), mapHas (l.foldl (fun m n => if p n then m ||| mapOf n else m) m) n =
      (mapHas m n || (decide (n ∈ l) && p n)) := by
    intro l
    induction l with
    | nil => intro m; simp
    | cons k t ih =>
      intro m
      rw [List.foldl_cons, ih]
      by_cases hk : p k = true
      · rw [if_pos hk, mapHas_or, mapHas_mapOf]
        by_cases hn : n = k
        · subst hn; simp [hk]
        · simp [hn]
      · rw [if_neg hk]
        by_cases hn : n = k
        · subst hn; simp [hk]
        · simp [hn]
  have zero : mapHas 0 n = false := BitVec.getLsbD_zero
  rw [mapWhere, folded, zero]
  simp [mem_stations]

/-- Two maps that hold the same stations are one. -/
theorem mapHas_ext {a b : StationMap} (h : ∀ n : Station, mapHas a n = mapHas b n) : a = b :=
  BitVec.eq_of_getLsbD_eq fun i hi => h ⟨i, hi⟩

/-! ### Offers -/

/-- An offer adds one entry at most, and moves the discarded count never (R32). -/
theorem State.offer_line (s : State) (k : QKey) (t : Option Station) (p : Option (List Pair)) :
    (s.offer k t p).1.line.queue.length ≤ s.line.queue.length + 1 ∧
    (s.offer k t p).1.line.discarded = s.line.discarded := by
  refine ⟨s.offer_length k t p, ?_⟩
  unfold State.offer
  split
  · rfl
  · split
    · rfl
    · split <;> rfl

/-- Whether an offer is accepted or merged is decided by life-cycle state and queue (R30, R32). -/
theorem State.offer_congr {a b : State} (hl : a.ctl.life = b.ctl.life) (hq : a.line.queue = b.line.queue) (k : QKey)
    (t : Option Station) (p : Option (List Pair)) : (a.offer k t p).2 = (b.offer k t p).2 := by
  unfold State.offer
  rw [hl, hq]
  split
  · rfl
  · split
    · rfl
    · split <;> rfl

theorem State.offerSnapshotPart_line (s : State) : s.offerSnapshotPart.1.line.queue.length ≤ s.line.queue.length + 1 ∧
    s.offerSnapshotPart.1.line.discarded = s.line.discarded := by
  unfold State.offerSnapshotPart
  split
  · exact ⟨Nat.le_succ _, rfl⟩
  · split
    · exact s.offer_line _ _ _
    · exact ⟨Nat.le_succ _, rfl⟩

theorem State.offerSnapshotPart_congr {a b : State} (hl : a.ctl.life = b.ctl.life) (hq : a.line.queue = b.line.queue)
    (hp : a.pool = b.pool) : a.offerSnapshotPart.2 = b.offerSnapshotPart.2 := by
  unfold State.offerSnapshotPart
  rw [hp]
  split
  · rfl
  · split
    · exact State.offer_congr hl hq _ _ _
    · rfl

/-- What asking for a snapshot does to pool unit, line and drives (R93). -/
theorem State.requestSnapshot_effect (s : State) : s.requestSnapshot.pool =
      (if s.offerSnapshotPart.2 then { s.pool with wait := 0, agreement := .resyncing } else s.pool) ∧
    s.requestSnapshot.line.queue.length ≤ s.line.queue.length + 1 ∧ s.requestSnapshot.line.discarded = s.line.discarded ∧
    ∀ i : Fin 4, (s.requestSnapshot.drives.drives.get i).rule = (s.drives.drives.get i).rule ∧
      (s.requestSnapshot.drives.drives.get i).mode = (s.drives.drives.get i).mode := by
  obtain ⟨queue, discarded⟩ := s.offerSnapshotPart_line
  simp only [State.requestSnapshot]
  split
  next h =>
    refine ⟨by simp, by simpa using queue, by simpa using discarded, fun i => ?_⟩
    obtain ⟨rule, mode⟩ := ({ s.offerSnapshotPart.1 with pool := { s.offerSnapshotPart.1.pool with wait := 0 } } : State).agree_rule
      .resyncing i
    rw [rule, mode]
    simp
  next => exact ⟨by simp, queue, discarded, fun i => by simp⟩

/-! ### The comparison -/

/-- a and b agree on what a comparison reads. -/
structure CompareAlike (a b : State) : Prop where
  life : a.ctl.life = b.ctl.life
  straps : a.ctl.straps = b.ctl.straps
  reference : a.roster.reference = b.roster.reference
  pool : a.pool = b.pool
  queue : a.line.queue = b.line.queue

theorem CompareAlike.compareWith_pool {a b : State} (h : CompareAlike a b) (x : HistEntry) (d : Digest) (c : Bool) :
    (a.compareWith x d c).pool = (b.compareWith x d c).pool := by
  simp only [State.compareWith]
  split
  · simp [h.pool]
  · split
    · exact h.pool
    · rw [h.pool]
      split
      · rw [(State.requestSnapshot_effect _).1, (State.requestSnapshot_effect _).1]
        have offered : ∀ x y : State, x.ctl.life = y.ctl.life → x.line.queue = y.line.queue → x.pool = y.pool →
            (if x.offerSnapshotPart.2 then ({ x.pool with wait := 0, agreement := .resyncing } : Pool) else x.pool) =
            (if y.offerSnapshotPart.2 then ({ y.pool with wait := 0, agreement := .resyncing } : Pool) else y.pool) :=
          fun x y hl hq hp => by rw [State.offerSnapshotPart_congr hl hq hp, hp]
        refine offered _ _ ?_ ?_ ?_
        · simp [h.life]
        · simp [h.queue]
        · simp [h.reference]
      · rfl

theorem CompareAlike.compare_pool {a b : State} (h : CompareAlike a b) (f : ReportFrame) :
    (a.compare f).pool = (b.compare f).pool := by
  have own : a.own = b.own := by rw [State.own, h.straps, State.own]
  unfold State.compare
  rw [h.life, h.reference, own, h.pool]
  split
  · split
    · exact h.pool
    · split
      · exact h.pool
      · exact h.compareWith_pool _ _ _
  · exact h.pool

/-- A station that finds its reference's digest differing, before it asks for a snapshot (R90, R93). -/
def State.divergedFrom (s : State) : State :=
  let d := ({ s with pool := { s.pool with noComparison := 0 } } : State).agree .diverged
  { d with pool := { d.pool with target := s.roster.reference } }

theorem State.divergedFrom_effect (s : State) : s.divergedFrom.line = s.line ∧
    ∀ i : Fin 4, (s.divergedFrom.drives.drives.get i).rule = (s.drives.drives.get i).rule ∧
      (s.divergedFrom.drives.drives.get i).mode = (s.drives.drives.get i).mode :=
  ⟨by simp [State.divergedFrom], fun i => State.agree_rule { s with pool := { s.pool with noComparison := 0 } } .diverged i⟩

theorem State.compareWith_eq (s : State) (h : HistEntry) (d : Digest) (c : Bool) : s.compareWith h d c =
    if d = h.digest then
      ({ s with pool := { s.pool with clean := s.pool.clean || c, held := none, noComparison := 0 } } : State).agree .agreed
    else if h.complete = false then s
    else if s.pool.agreement = .agreed ∨ s.pool.agreement = .uncertain then s.divergedFrom.requestSnapshot
    else { s with pool := { s.pool with noComparison := 0 } } := rfl

/-- t's line holds one entry more than s's at most, and its drives stand as s's but for their pins. -/
def OneOffer (s t : State) : Prop :=
  t.line.queue.length ≤ s.line.queue.length + 1 ∧ t.line.discarded = s.line.discarded ∧
  ∀ i : Fin 4, (t.drives.drives.get i).rule = (s.drives.drives.get i).rule ∧
    (t.drives.drives.get i).mode = (s.drives.drives.get i).mode

theorem OneOffer.of_same {s t : State} (hl : t.line = s.line) (hd : t.drives = s.drives) : OneOffer s t := by
  rw [OneOffer, hl, hd]
  exact ⟨Nat.le_succ _, rfl, fun _ => ⟨rfl, rfl⟩⟩

theorem State.compareWith_offer (s : State) (h : HistEntry) (d : Digest) (c : Bool) : OneOffer s (s.compareWith h d c) := by
  rw [State.compareWith_eq]
  split
  · refine ⟨by simp, by simp, fun i => ?_⟩
    exact State.agree_rule { s with pool := { s.pool with clean := s.pool.clean || c, held := none, noComparison := 0 } } .agreed i
  · split
    · exact .of_same rfl rfl
    · split
      · obtain ⟨line, rules⟩ := s.divergedFrom_effect
        obtain ⟨-, queue, discarded, drives⟩ := s.divergedFrom.requestSnapshot_effect
        rw [line] at queue discarded
        exact ⟨queue, discarded, fun i => ⟨(drives i).1.trans (rules i).1, (drives i).2.trans (rules i).2⟩⟩
      · exact .of_same rfl rfl

/-- What a comparison leaves of line and drives; there is one in RUN alone (R90, R93, R158). -/
theorem State.compare_effect (s : State) (f : ReportFrame) : OneOffer s (s.compare f) ∧
    (s.ctl.life ≠ .run → s.compare f = s) := by
  unfold State.compare
  split
  next hc =>
    refine ⟨?_, fun k => absurd hc.1 k⟩
    split
    · exact .of_same rfl rfl
    · split
      · exact .of_same rfl rfl
      · exact s.compareWith_offer _ _ _
  next => exact ⟨.of_same rfl rfl, fun _ => rfl⟩

end Sys2Proof.Machine
end


section
/-! Implied marks: what the sender's frame finds, and what it leaves in RUN and in JOINING (R16, R57, R64 to R66, R90, R99). -/

namespace Sys2Proof.Machine

/-! ### The frame at the window -/

/-- Zeros and a report's deltas add up to the deltas (R62, R66). -/
theorem zipWith_replicate_zero (d : List (BitVec 16)) :
    List.zipWith (fun v x => v + x.signExtend 32) (List.replicate d.length (0 : BitVec 32)) d =
      d.map (fun x => x.signExtend 32) := by
  induction d with
  | nil => rfl
  | cons x t ih =>
    rw [List.length_cons, List.replicate_succ, List.zipWith_cons_cons, ih, List.map_cons]
    exact congrArg (· :: _) (BitVec.zero_add _)

/-- A fresh record takes its first report (R66). -/
theorem Record.take_first (r : Record) (f : ReportFrame) (hh : r.heard = 0)
    (hs : r.sums = List.replicate f.deltas.length 0) : (r.take f.sender f.deltas).heard = mapOf f.sender ∧
    (r.take f.sender f.deltas).expected = r.expected ||| mapOf f.sender ∧
    (r.take f.sender f.deltas).sums = f.deltas.map (fun d => d.signExtend 32) ∧
    (r.take f.sender f.deltas).applied = r.applied ∧ (r.take f.sender f.deltas).epoch = r.epoch ∧
    (r.state ≠ .folded → (r.take f.sender f.deltas).late = r.late) := by
  have unheard : mapHas r.heard f.sender = false := by rw [hh]; exact BitVec.getLsbD_zero
  obtain ⟨heard, expected, sums, late, applied, -⟩ := r.take_new f.sender f.deltas unheard
  refine ⟨?_, expected, ?_, applied, r.take_epoch _ _, fun hf => ?_⟩
  · rw [heard, hh]; exact BitVec.zero_or
  · rw [sums, hs, zipWith_replicate_zero]
  · rw [late, if_neg hf]

/-- A fresh COLLECTING record settles with its first report where it expects no other station (R66). -/
theorem Record.take_fresh (e : Epoch) (m : StationMap) (late : List (BitVec 32)) (f : ReportFrame) :
    ({ epoch := e, state := .collecting, expected := m, heard := 0, sums := List.replicate f.deltas.length 0, late := late
       applied := [] } : Record).take f.sender f.deltas =
    { epoch := e, state := if mapOf f.sender = m ||| mapOf f.sender then .settled else .collecting
      expected := m ||| mapOf f.sender, heard := mapOf f.sender, sums := f.deltas.map (fun d => d.signExtend 32)
      late := late, applied := [] } := by
  have unheard : mapHas 0 f.sender = false := BitVec.getLsbD_zero
  have zero : (0 : StationMap) ||| mapOf f.sender = mapOf f.sender := BitVec.zero_or
  simp only [Record.take, unheard, zero, addValues, zipWith_replicate_zero]
  simp

theorem Window.took_head {w : Window} {f : ReportFrame} {r : Record} (hw : w.records.head? = some r)
    (he : r.epoch = f.epoch) : (w.took f).records.head? = some (r.take f.sender f.deltas) := by
  rw [Window.took, List.head?_map, hw]
  simp [he]

theorem State.record_newest (s : State) {r : Record} {e : Epoch} (hr : s.window.records.head? = some r) (he : r.epoch = e) :
    s.record e = some r := by
  unfold State.record
  cases hw : s.window.records with
  | nil => rw [hw] at hr; cases hr
  | cons x t =>
    rw [hw] at hr
    obtain rfl := Option.some.inj hr
    exact List.find?_cons_of_pos (by simp [he])

/-- A frame for the newest record, which is not FOLDED, moves the window alone (R65, R66). -/
theorem State.windowTake_newest (s : State) (f : ReportFrame) (hl : s.ctl.life = .run ∨ s.ctl.life = .joining) {r : Record}
    (hr : s.window.records.head? = some r) (he : r.epoch = f.epoch) (hs : r.state ≠ .folded) :
    s.windowTake f = { s with window := s.window.took f } := by
  rw [State.windowTake, if_pos hl.symm, State.takeReport, s.record_newest hr he]
  exact if_neg (fun k => hs k.1)

/-! ### What the sender's frame finds -/

/-- a stands at the implied mark of frame f on the books of s: roster and comparison have had the frame (R16, R38, R90). -/
structure ImpliedBooks (s a : State) (f : ReportFrame) : Prop where
  window : a.window = s.window
  pool : a.pool = (s.compare f).pool
  adjust : a.adjust = s.adjust
  ctl : a.ctl = s.ctl
  builder : a.builder = s.builder
  channels : a.channels = s.channels
  rules : ∀ i : Fin 4, (a.drives.drives.get i).rule = (s.drives.drives.get i).rule ∧
    (a.drives.drives.get i).mode = (s.drives.drives.get i).mode
  others : ∀ n : Station, n ≠ f.sender → a.entry n = s.entry n
  present : (a.entry f.sender).state = .present
  unmissed : (a.entry f.sender).miss = 0
  reference : a.roster.reference = s.roster.reference
  conflicts : a.roster.conflicts = s.roster.conflicts
  conflictFree : a.roster.conflictFree = s.roster.conflictFree
  discarded : a.line.discarded = s.line.discarded
  queue : a.line.queue.length ≤ s.line.queue.length + 1
  joining : s.ctl.life ≠ .run → a.line.queue = s.line.queue ∧ a.drives = s.drives
  reply : a.port.reply = s.port.reply

theorem State.setEntry_counts (s : State) (n : Station) (e : RosterEntry) :
    (s.setEntry n e).roster.conflicts = s.roster.conflicts ∧
    (s.setEntry n e).roster.conflictFree = s.roster.conflictFree := by
  simp only [State.setEntry]
  split <;> exact ⟨rfl, rfl⟩

/-- The sender's entry after its report, and the entries of the others (R38). -/
theorem State.rosterReport_effect (s : State) (f : ReportFrame) (ho : f.sender ≠ s.own) :
    (∀ n : Station, n ≠ f.sender → (s.rosterReport f).entry n = s.entry n) ∧
    ((s.rosterReport f).entry f.sender).state = .present ∧ ((s.rosterReport f).entry f.sender).miss = 0 ∧
    (s.rosterReport f).roster.reference = s.roster.reference ∧ (s.rosterReport f).roster.conflicts = s.roster.conflicts ∧
    (s.rosterReport f).roster.conflictFree = s.roster.conflictFree ∧ Raised s (s.rosterReport f) := by
  have reported : s.rosterReport f = s.setEntry f.sender (s.reportEntry f) := if_neg ho
  obtain ⟨conflicts, free⟩ := s.setEntry_counts f.sender (s.reportEntry f)
  rw [reported]
  refine ⟨fun n hn => ?_, ?_, ?_, s.setEntry_reference _ _, conflicts, free, s.setEntry_raised _ _⟩
  · rw [State.setEntry_entry, if_neg hn]
  · rw [State.setEntry_entry, if_pos rfl]; rfl
  · rw [State.setEntry_entry, if_pos rfl]; rfl

theorem State.rosterReport_frame (s : State) (f : ReportFrame) : (s.rosterReport f).now = s.now ∧
    (s.rosterReport f).clock = s.clock ∧ (s.rosterReport f).line = s.line ∧ (s.rosterReport f).builder = s.builder ∧
    (s.rosterReport f).window = s.window ∧ (s.rosterReport f).pool = s.pool ∧ (s.rosterReport f).adjust = s.adjust ∧
    (s.rosterReport f).ctl = s.ctl ∧ (s.rosterReport f).channels = s.channels ∧ (s.rosterReport f).drives = s.drives := by
  unfold State.rosterReport
  split
  · exact ⟨rfl, rfl, rfl, rfl, rfl, rfl, rfl, rfl, rfl, rfl⟩
  · simp

/-- The frame's sender is PRESENT and compared, and no mark is taken yet (R38, R90). -/
def State.reported (s : State) (f : ReportFrame) : State := (s.rosterReport f).compare f

theorem State.reported_frame (s : State) (f : ReportFrame) : (s.reported f).now = s.now ∧ (s.reported f).clock = s.clock ∧
    (s.reported f).ctl = s.ctl := by
  obtain ⟨now, clock, -, -, -, -, -, ctl, -, -⟩ := s.rosterReport_frame f
  simp [State.reported, now, clock, ctl]

theorem State.reported_books (s : State) (dt : Nat) (f : ReportFrame) (ho : f.sender ≠ s.own) :
    ImpliedBooks s ((s.heard dt).reported f) f := by
  obtain ⟨others, present, unmissed, reference, conflicts, free, raised⟩ := (s.heard dt).rosterReport_effect f ho
  obtain ⟨-, -, line, builder, window, pool, adjust, ctl, channels, drives⟩ := (s.heard dt).rosterReport_frame f
  have pools : ∀ x : State, x.ctl = s.ctl → x.roster.reference = s.roster.reference → x.pool = s.pool →
      x.line.queue = s.line.queue → (x.compare f).pool = (s.compare f).pool := fun x hc hr hp hq =>
    CompareAlike.compare_pool ⟨by rw [hc], by rw [hc], hr, hp, hq⟩ f
  obtain ⟨⟨queue, discarded, rules⟩, idle⟩ := ((s.heard dt).rosterReport f).compare_effect f
  have reply := (raised.trans (((s.heard dt).rosterReport f).compare_raised f)).reply
  unfold State.reported
  generalize (s.heard dt).rosterReport f = x at *
  have entry : ∀ n, (x.compare f).entry n = x.entry n := fun n => by simp [State.entry]
  refine ⟨?_, pools x ctl reference pool (by rw [line]; rfl), ?_, ?_, ?_, ?_, fun i => ?_, fun n hn => ?_, ?_, ?_, ?_, ?_, ?_,
    ?_, ?_, fun hl => ?_, reply⟩
  · simp only [State.compare_frame, window]; rfl
  · simp only [State.compare_frame, adjust]; rfl
  · simp only [State.compare_frame, ctl]; rfl
  · simp only [State.compare_frame, builder]; rfl
  · simp only [State.compare_frame, channels]; rfl
  · rw [(rules i).1, (rules i).2, drives]; exact ⟨rfl, rfl⟩
  · rw [entry, others n hn]; rfl
  · rw [entry, present]
  · rw [entry, unmissed]
  · simp only [State.compare_frame, reference]; rfl
  · simp only [State.compare_frame, conflicts]; rfl
  · simp only [State.compare_frame, free]; rfl
  · rw [discarded, line]; rfl
  · rw [line] at queue; exact queue
  · rw [idle (by rw [ctl]; exact hl), line, drives]; exact ⟨rfl, rfl⟩

/-- The epoch clock's own part of an implied mark, origin and slot starts as the frame tells them (R16). -/
def State.impliedEpoch (s : State) (origin : Instant) (count : Nat) : State :=
  (s.beginEpoch (s.clock.cur + 1) s.clock.pacing origin count).reloadInRun s.now

theorem State.impliedEpoch_frame (s : State) (origin : Instant) (count : Nat) :
    (s.impliedEpoch origin count).now = s.now ∧
    (s.impliedEpoch origin count).clock = { s.clock with
      cur := s.clock.cur + 1, origin := some origin, slotTimer := .slots, slotCount := count, pending := false
      timer := if s.ctl.life = .run then .running (s.now + s.markInterval) else s.clock.timer } ∧
    (s.impliedEpoch origin count).port = s.port ∧ (s.impliedEpoch origin count).line = { s.line with slotWaiting := none } := by
  unfold State.impliedEpoch State.reloadInRun
  split
  next h =>
    rw [if_pos (by simpa using h)]
    exact ⟨rfl, rfl, rfl, rfl⟩
  next h =>
    rw [if_neg (by simpa using h)]
    exact ⟨rfl, rfl, rfl, rfl⟩

theorem ImpliedBooks.impliedEpoch {s a : State} {f : ReportFrame} (h : ImpliedBooks s a f) (origin : Instant) (count : Nat) :
    ImpliedBooks s (a.impliedEpoch origin count) f := by
  unfold State.impliedEpoch State.reloadInRun
  split <;> exact ⟨h.window, h.pool, h.adjust, h.ctl, h.builder, h.channels, h.rules, h.others, h.present, h.unmissed,
    h.reference, h.conflicts, h.conflictFree, h.discarded, h.queue, h.joining, h.reply⟩

/-! ### The mark -/

/-- The state at an implied mark, its counts and events on their way but for which it is a. -/
theorem ImpliedBooks.atMark {s a : State} {f : ReportFrame} (h : ImpliedBooks s a f) :
    AtImpliedMark s a.reportDiscarded.conflictFreeMark a.clock.cur f := by
  have entry : ∀ n, a.reportDiscarded.conflictFreeMark.entry n = a.entry n := fun n => by simp [State.entry]
  refine ⟨by simp, by simp [h.window], by simp [h.pool], by simp [h.adjust], by simp [h.ctl], fun n hn => ?_, ?_, ?_⟩
  · rw [entry, h.others n hn]
  · rw [entry, h.present]
  · simp [h.reference]

/-- t is u after the frame of its mark, and what may follow at the mark's instant: the window has taken the frame, and what
the mark captured and counted stands. -/
structure AfterMark (u t : State) (f : ReportFrame) : Prop where
  now : t.now = u.now
  timer : t.clock.timer = u.clock.timer
  window : t.window = u.window.took f
  builder : t.builder = u.builder
  channels : t.channels = u.channels
  rules : ∀ i : Fin 4, (t.drives.drives.get i).rule = (u.drives.drives.get i).rule ∧
    (t.drives.drives.get i).mode = (u.drives.drives.get i).mode
  table : t.pool.table = u.pool.table
  pins : PinsFollow u → PinsFollow t
  discarded : t.line.discarded = u.line.discarded
  resends : ∀ e : Epoch, (∃ q ∈ u.line.queue, q.key = .resend e) → ∃ q ∈ t.line.queue, q.key = .resend e
  adjust : t.adjust = u.adjust
  ctl : t.ctl = u.ctl
  conflicts : t.roster.conflicts = u.roster.conflicts
  conflictFree : t.roster.conflictFree = u.roster.conflictFree
  reported : ∀ (b : Block) (e : Event), (b, e) ∈ u.port.arising → Reported t e

theorem AfterMark.of_shows {u z t : State} {f : ReportFrame} (hz : z = { u with window := u.window.took f })
    (ht : t = z.finish) : AfterMark u t f := by
  have shows := z.finish_shows
  have roster : z.finish.roster = z.roster := z.finish_frame.2.2.2.1
  rw [← ht] at shows roster
  subst hz
  refine ⟨shows.now, by rw [shows.clock], shows.window, shows.builder, shows.channels, fun i => ?_, by rw [shows.pool], fun h => ?_,
    by rw [shows.line], fun e h => ?_, shows.adjust, shows.ctl, by rw [roster], by rw [roster], shows.reported⟩
  · rw [shows.drives]; exact ⟨rfl, rfl⟩
  · exact h.congr shows.ctl (by rw [shows.pool]) shows.drives
  · rw [shows.line]; exact h

/-- What a mark on these books does to the counts (R24, R50). -/
theorem ImpliedBooks.counted {s a t : State} {f : ReportFrame} (h : ImpliedBooks s a f)
    (hd : t.line.discarded = 0) (hc : t.roster.conflicts = (a.takeMark false).roster.conflicts)
    (hf : t.roster.conflictFree = (a.takeMark false).roster.conflictFree)
    (hr : ∀ (b : Block) (e : Event), (b, e) ∈ (a.takeMark false).port.arising → Reported t e) :
    CountedAtMark s t a.clock.cur := by
  refine ⟨hd, fun hl => ?_, ?_⟩
  · have event := hr _ _ (a.takeMark_lineError false (by rw [h.discarded]; exact hl))
    rwa [h.discarded] at event
  · have counts := a.takeMark_conflictFree false
    rw [ConflictFree, h.conflicts, h.conflictFree] at counts
    rw [ConflictFree, hc, hf]
    exact counts

theorem ImpliedBooks.captured {s a t : State} {f : ReportFrame} (h : ImpliedBooks s a f)
    (hr : a.ctl.life = .run ∨ a.installing = true) (ht : AfterMark (a.takeMark false) t f) :
    CapturedAtMark s t a.clock.cur false := by
  have captured := a.takeMark_captured false hr
  have pins : PinsFollow (a.takeMark false) := captured.2.2.2.2.1
  exact captured.congr (by rw [h.ctl]) h.builder h.channels h.rules ht.builder ht.channels ht.rules ht.table (ht.pins pins)

/-- At an implied mark in RUN no outbox entry stays designated (R57). -/
theorem State.takeMark_undesignated (a : State) (hr : a.ctl.life = .run) :
    ∀ e ∈ (a.takeMark false).builder.outbox, e.designated = false := by
  rw [a.takeMark_run false hr]
  simp only [State.driveMark_frame, State.controllerMark_frame]
  exact State.capture_undesignated _

/-- The expected set of the implied mark's record in RUN, its sender taken in (R64, R65, R66). -/
theorem ImpliedBooks.expected {s a : State} {f : ReportFrame} (h : ImpliedBooks s a f) :
    mapWhere (fun n => n == s.own || (a.entry n).state == .present || (a.entry n).state == .missing) ||| mapOf f.sender =
      mapWhere (fun n => n == s.own || n == f.sender || (s.entry n).state == .present || (s.entry n).state == .missing) := by
  refine mapHas_ext fun n => ?_
  rw [mapHas_or, mapHas_mapWhere, mapHas_mapWhere, mapHas_mapOf]
  by_cases hn : n = f.sender
  · subst hn; simp
  · have other : (n == f.sender) = false := by simpa using hn
    rw [h.others n hn, other]
    simp [hn]

/-- The implied mark in RUN (R16, R57, R64, R65, R66). -/
theorem ImpliedInRun.of_after {s a t : State} {f : ReportFrame} (h : ImpliedBooks s a f) (hc : a.clock.cur = s.clock.cur + 1)
    (he : f.epoch = s.clock.cur) (hk : f.deltas.length = s.ctl.profile.pools) (ho : f.sender ≠ s.own)
    (hr : s.ctl.life = .run) (ht : AfterMark (a.takeMark false) t f) : ImpliedInRun s t (s.clock.cur + 1) f := by
  have har : a.ctl.life = .run := by rw [h.ctl, hr]
  obtain ⟨head, -, -, -, -, -, ctl, -⟩ := a.takeMark_run_spec false har
  have own : a.own = s.own := by rw [State.own, h.ctl, State.own]
  have before : a.clock.cur - 1 = s.clock.cur := by rw [hc]; simp
  rw [before, own, h.ctl] at head
  have discarded : t.line.discarded = 0 := ht.discarded.trans (a.takeMark_discarded false)
  have counted := h.counted discarded ht.conflicts ht.conflictFree ht.reported
  have captured := h.captured (.inl har) ht
  rw [hc] at counted captured
  refine ⟨?_, captured, ?_, counted, ?_, fun hq => ?_, ?_⟩
  · rw [ht.window, Window.took_head head he.symm]
    have unheard : mapOf f.sender ≠ mapWhere (fun n => n == s.own || n == f.sender || (s.entry n).state == .present ||
        (s.entry n).state == .missing) := fun k => by
      have own : mapHas (mapOf f.sender) s.own = false := by rw [mapHas_mapOf]; simpa using Ne.symm ho
      rw [k, mapHas_mapWhere] at own
      simp at own
    rw [← hk, Record.take_fresh, h.expected, if_neg unheard]
    simp
  · rw [ht.builder]; exact a.takeMark_undesignated har
  · rw [ht.ctl, ctl, h.ctl]
  · have offered := a.takeMark_offers (.inl har) (Nat.lt_of_le_of_lt h.queue (by omega))
    rw [before] at offered
    exact ht.resends _ offered
  · rw [ht.adjust, State.takeMark_lastSerial, h.adjust]

end Sys2Proof.Machine
end


section
/-! The implied mark of a REPORT (R16, R57, R65, R66, R99, R127). -/

namespace Sys2Proof.Machine

/-! ### The record a mark creates -/

/-- r is as a mark of a creates its record: unheard, with no sums, expecting every PRESENT station (R64). -/
structure FreshRecord (a : State) (r : Record) : Prop where
  epoch : r.epoch = a.clock.cur - 1
  heard : r.heard = 0
  sums : r.sums = List.replicate a.ctl.profile.pools 0
  applied : r.applied = []
  unfolded : r.state ≠ .folded
  expects : ∀ n : Station, (a.entry n).state = .present → mapHas r.expected n = true

/-- The newest record of a window response, and with its late pendings set to 0 again, is fresh (R64, R99). -/
theorem State.windowMark_fresh (s : State) (b : Bool) : ∃ r : Record, (s.windowMark b).window.records.head? = some r ∧
    FreshRecord s r ∧ { r with late := r.late.map (fun _ => 0) } = r := by
  refine ⟨_, s.windowMark_head b, ⟨rfl, rfl, rfl, rfl, ?_, fun n hn => ?_⟩, ?_⟩
  · dsimp only
    split <;> decide
  · simp only [State.expectedNow, mapHas_mapWhere, hn]
    simp
  · simp

theorem FreshRecord.congr {a b : State} {r : Record} (h : FreshRecord b r) (hc : b.clock.cur = a.clock.cur)
    (hp : b.ctl.profile = a.ctl.profile) (he : b.roster.entries = a.roster.entries) : FreshRecord a r := by
  refine ⟨hc ▸ h.epoch, h.heard, hp ▸ h.sums, h.applied, h.unfolded, fun n hn => h.expects n ?_⟩
  rw [State.entry, he]
  exact hn

/-- After a mark in RUN or JOINING the newest record is fresh, and the station is in RUN or JOINING (R64, R132). -/
theorem State.takeMark_newest (a : State) (hl : a.ctl.life = .run ∨ a.ctl.life = .joining) :
    (∃ r : Record, (a.takeMark false).window.records.head? = some r ∧ FreshRecord a r) ∧
    ((a.takeMark false).ctl.life = .run ∨ (a.takeMark false).ctl.life = .joining) := by
  have atMark : ∀ (b : Bool), ∃ r : Record, (a.reportDiscarded.conflictFreeMark.windowMark b).window.records.head? = some r ∧
      FreshRecord a r ∧ { r with late := r.late.map (fun _ => 0) } = r := fun b => by
    obtain ⟨r, head, fresh, late⟩ := a.reportDiscarded.conflictFreeMark.windowMark_fresh b
    exact ⟨r, head, fresh.congr (by simp) (by simp) (by simp), late⟩
  rcases hl with hr | hj
  · obtain ⟨head, -, -, -, -, -, ctl, -⟩ := a.takeMark_run_spec false hr
    refine ⟨⟨_, head, rfl, rfl, rfl, rfl, by simp, fun n hn => ?_⟩, .inl (by rw [ctl, hr])⟩
    simp only [mapHas_mapWhere, hn]
    simp
  · by_cases hi : a.installing = true
    · obtain ⟨h, hh⟩ := a.joinInstall_held (a.installing_iff.mp hi).2
      obtain ⟨r, head, fresh, late⟩ := atMark true
      have window := (a.takeMark_pool_enters false hi hh).2
      refine ⟨⟨r, ?_, fresh⟩, .inl (by rw [(a.takeMark_ctl_enters false hi).1])⟩
      rw [window, State.install_window, List.head?_map, head, Option.map_some, late]
    · have stays : a.joinInstall = false := by
        rw [State.installing_iff] at hi
        simpa [hj] using hi
      obtain ⟨-, -, -, window, -, ctl, -⟩ := a.takeMark_joining false hj stays
      obtain ⟨r, head, fresh, -⟩ := atMark false
      exact ⟨⟨r, by rw [window, head], fresh⟩, .inr (by rw [ctl, hj])⟩

/-! ### The implied mark in RUN and JOINING -/

/-- What the window's newest record holds once the sender's frame is in (R65, R66). -/
theorem ImpliedBooks.newest {s a t : State} {f : ReportFrame} (h : ImpliedBooks s a f) (hc : a.clock.cur = s.clock.cur + 1)
    (he : f.epoch = s.clock.cur) (hk : f.deltas.length = s.ctl.profile.pools)
    (hl : s.ctl.life = .run ∨ s.ctl.life = .joining) (ht : t.window = (a.takeMark false).window.took f) :
    ∃ r, t.window.records.head? = some r ∧ r.epoch = s.clock.cur ∧ r.heard = mapOf f.sender ∧
      r.sums = f.deltas.map (fun d => d.signExtend 32) ∧ r.applied = [] := by
  obtain ⟨⟨r, head, fresh⟩, -⟩ := a.takeMark_newest (by rw [h.ctl]; exact hl)
  have before : r.epoch = s.clock.cur := by rw [fresh.epoch, hc]; simp
  obtain ⟨heard, -, sums, applied, epoch, -⟩ := r.take_first f fresh.heard (by rw [fresh.sums, h.ctl, hk])
  exact ⟨_, by rw [ht, Window.took_head head (before.trans he.symm)], epoch.trans before, heard, sums,
    applied.trans fresh.applied⟩

/-- At the mark's instant the window takes the frame that implied it, and moves nothing else (R65, R66). -/
theorem ImpliedBooks.windowTake {s a y : State} {f : ReportFrame} (h : ImpliedBooks s a f)
    (hc : a.clock.cur = s.clock.cur + 1) (he : f.epoch = s.clock.cur) (hl : s.ctl.life = .run ∨ s.ctl.life = .joining)
    (hw : y.window = (a.takeMark false).window) (hy : y.ctl.life = .run ∨ y.ctl.life = .joining) :
    y.windowTake f = { y with window := y.window.took f } := by
  obtain ⟨⟨r, head, fresh⟩, -⟩ := a.takeMark_newest (by rw [h.ctl]; exact hl)
  exact y.windowTake_newest f hy (by rw [hw, head]) (by rw [fresh.epoch, hc, he]; simp) fresh.unfolded

/-- The pool unit and the window of an implied mark in RUN (R64, R94, R95, R99). -/
theorem ImpliedBooks.pool_run {s a t : State} {f : ReportFrame} (h : ImpliedBooks s a f) (hr : s.ctl.life = .run)
    (ht : AfterMark (a.takeMark false) t f) : PoolAtMark a.reportDiscarded.conflictFreeMark (a.takeMark false) ∧
    t.window = a.reportDiscarded.conflictFreeMark.windowInRun.took f := by
  obtain ⟨pool, window⟩ := a.takeMark_pool_run false (by rw [h.ctl, hr])
  exact ⟨pool, by rw [ht.window, window]⟩

/-- A joiner that enters RUN at an implied mark (R99, R116, R130, R132). -/
theorem ImpliedBooks.enters {s a t : State} {f : ReportFrame} (h : ImpliedBooks s a f) (hi : a.installing = true)
    (ht : AfterMark (a.takeMark false) t f) : JoinerEnters s t a.clock.cur false := by
  obtain ⟨ctl, clock, event⟩ := a.takeMark_ctl_enters false hi
  refine ⟨?_, ?_, h.captured (.inr hi) ht, ht.reported _ _ event⟩
  · rw [ht.ctl, ctl, h.ctl]
  · rw [ht.timer, clock, ht.now, (a.takeMark_frame false).1]
    simp only [State.markInterval, State.period, State.bits, State.own, h.ctl, add_assoc]

/-- The pool unit and the window of a joiner that enters RUN at an implied mark; its own report waits as a RESEND (R57, R99). -/
theorem ImpliedBooks.installed {s a t : State} {f : ReportFrame} (h : ImpliedBooks s a f) (hc : a.clock.cur = s.clock.cur + 1)
    (hj : s.ctl.life = .joining) (hi : a.installing = true) {x : HeldSnapshot} (hx : s.pool.held = some x)
    (ht : AfterMark (a.takeMark false) t f) :
    InstalledAtMark a.reportDiscarded.conflictFreeMark (a.takeMark false) x true ∧
    t.window = ((a.reportDiscarded.conflictFreeMark.windowMark true).install x).window.took f ∧
    (s.line.queue.length < 8 → ∃ q ∈ t.line.queue, q.key = .resend s.clock.cur) := by
  have nocompare : s.compare f = s := (s.compare_effect f).2 (by rw [hj]; decide)
  obtain ⟨installed, window⟩ := a.takeMark_pool_enters false hi (h := x) (by rw [h.pool, nocompare, hx])
  refine ⟨installed, by rw [ht.window, window], fun hq => ?_⟩
  have offered := a.takeMark_offers (.inr hi) (by rw [(h.joining (by rw [hj]; decide)).1]; exact hq)
  rw [show a.clock.cur - 1 = s.clock.cur by rw [hc]; simp] at offered
  exact ht.resends _ offered

theorem State.joinInstall_atMark (a : State) : a.reportDiscarded.conflictFreeMark.joinInstall = a.joinInstall :=
  State.joinInstall_congr (by simp) (by simp) (by simp) (by simp)

/-- A joiner that stays at an implied mark: controller, timer, builder, channels and pool unit, where what follows the mark
at its instant leaves them (R99, R127, R130). -/
theorem ImpliedBooks.stays {s a t : State} {f : ReportFrame} (h : ImpliedBooks s a f) (hj : s.ctl.life = .joining)
    (hi : a.joinInstall = false) (htimer : a.clock.timer = s.clock.timer) (tnow : t.now = (a.takeMark false).now)
    (tctl : t.ctl = (a.takeMark false).ctl) (ttimer : t.clock.timer = (a.takeMark false).clock.timer)
    (tbuilder : t.builder = (a.takeMark false).builder) (tchannels : t.channels = (a.takeMark false).channels)
    (tadjust : t.adjust = (a.takeMark false).adjust)
    (tpool : ∃ (tg : Option Station) (w : Nat), t.pool = { (a.takeMark false).pool with target := tg, wait := w })
    (tnone : (a.takeMark false).pool.agreement = .none → t.pool = (a.takeMark false).pool) :
    JoinerStays s a.reportDiscarded.conflictFreeMark t ∧ FoldedFrom a.reportDiscarded.conflictFreeMark t ∧
    t.ctl = { s.ctl with joinWait := if s.ctl.joinWait < 4 then s.ctl.joinWait + 1 else 4
                         silence := some (a.now + s.listenSpan) } := by
  obtain ⟨folded, held, discarded, -, -, ctl, clock, -, builder, channels, -⟩ :=
    a.takeMark_joining false (by rw [h.ctl, hj]) hi
  have nocompare : s.compare f = s := (s.compare_effect f).2 (by rw [hj]; decide)
  have now : t.now = a.now := tnow.trans (a.takeMark_frame false).1
  have span : a.listenSpan = s.listenSpan := by simp only [State.listenSpan, State.period, State.bits, h.ctl]
  obtain ⟨tg, w, hp⟩ := tpool
  refine ⟨⟨?_, ?_, ?_, ?_, ?_, fun ha => ?_⟩, ?_, ?_⟩
  · rw [tctl, ctl, h.ctl, now, span]
  · rw [ttimer, clock, htimer]
  · rw [tbuilder, builder, h.builder]
  · rw [tchannels, channels, h.channels]
  · rw [hp]; exact held
  · obtain ⟨⟨pool, queue⟩, none⟩ := discarded (by rw [h.pool, nocompare, ha])
    rw [DiscardedAtMark, tnone none, tadjust]
    exact ⟨⟨pool, queue⟩, none⟩
  · rw [FoldedFrom, hp, tadjust]; exact folded
  · rw [tctl, ctl, h.ctl, span]

/-! ### The REPORT -/

/-- Another station's REPORT or RESEND that ends no departure comes to roster, comparison and window (R38, R90). -/
theorem State.reportIn_other (s : State) (f : ReportFrame) (overlap : Bool) (window : State → State) (ho : f.sender ≠ s.own)
    (hleave : s.ctl.leave ≠ .leaving) (hl : s.ctl.life = .run ∨ s.ctl.life = .joining) :
    s.reportIn f overlap window = window (s.reported f) := by
  have own : s.ownNumber f.sender overlap = s := if_neg (fun k => ho k.1)
  have listens : s.listening = true := by
    rcases hl with k | k <;> rw [State.listening, k] <;> rfl
  unfold State.reportIn
  rw [if_neg (by rw [State.inLeavingEpoch_false (.inr hleave)]; simp), own]
  exact if_pos listens

theorem ahead_self (x : Epoch) : ahead x x = false := by
  simp [ahead]

/-- The origin of an implied mark, from the beginning of the REPORT in its slot (R16). -/
def State.reportOrigin (s : State) (f : ReportFrame) : Instant :=
  s.now - s.bits (10 * (12 + 2 * (s.ctl.profile.pools : Int))) - s.bits (320 * (f.sender.val : Int))

/-- A REPORT of the present epoch implies a mark and is then taken (R16, R65). -/
theorem State.windowReport_implies (s : State) (f : ReportFrame) (hw : f.wf = true)
    (hk : f.deltas.length = s.ctl.profile.pools) (hl : s.ctl.life = .run ∨ s.ctl.life = .joining) (ho : f.sender ≠ s.own)
    (he : f.epoch = s.clock.cur) : s.windowReport f =
      ((s.impliedEpoch (s.reportOrigin f) (f.sender.val + 1)).takeMark false).windowTake f := by
  have short : f.deltas.length ≤ 8 := by
    simp only [ReportFrame.wf, Bool.and_eq_true, decide_eq_true_eq] at hw
    exact hw.2
  have slots : min 32 (f.sender.val + 1 + 10 * (12 + 2 * f.deltas.length) / 320) = f.sender.val + 1 := by
    have none : 10 * (12 + 2 * f.deltas.length) / 320 = 0 := Nat.div_eq_of_lt (by omega)
    rw [none]
    omega
  have origin : s.now - s.bits (10 * ((12 + 2 * f.deltas.length : Nat) : Int)) - s.bits (320 * (f.sender.val : Int)) =
      s.reportOrigin f := by
    rw [State.reportOrigin, hk]
    push_cast
    rfl
  unfold State.windowReport
  rw [if_pos ⟨hl.symm, ho⟩, if_neg (by rw [he, ahead_self]; simp), if_pos he]
  simp only [State.impliedByReport, Frame.size, slots, origin]
  rfl

/-- A mark moves nothing of the clock but a joiner's mark timer (R4, R132). -/
theorem State.takeMark_clock (a : State) (d : Bool) (hl : a.ctl.life = .run ∨ a.ctl.life = .joining) :
    (a.takeMark d).clock = { a.clock with timer := (a.takeMark d).clock.timer } := by
  rcases hl with hr | hj
  · rw [(a.takeMark_run_spec d hr).2.2.2.2.2.2.2]
  · by_cases hi : a.installing = true
    · rw [(a.takeMark_ctl_enters d hi).2.1]
    · have stays : a.joinInstall = false := by
        rw [State.installing_iff] at hi
        simpa [hj] using hi
      rw [(a.takeMark_joining d hj stays).2.2.2.2.2.2.1]

/-- A mark moves roster entries and reference never (R64). -/
theorem State.takeMark_entry (a : State) (d : Bool) (n : Station) : (a.takeMark d).entry n = a.entry n := by
  rw [State.entry, (a.takeMark_frame d).2.1]; rfl

/-- A REPORT that implies a mark, at the end of its step: the state the mark is taken on, and the step (R16, R38, R90). -/
theorem exec_reportReceived_implies (s : State) (dt : Nat) (f : ReportFrame) (h : Ready s) (hc : s.canReceive = true)
    (hw : f.wf = true) (hk : f.deltas.length = s.ctl.profile.pools) (hl : s.ctl.life = .run ∨ s.ctl.life = .joining)
    (hleave : s.ctl.leave ≠ .leaving) (ho : f.sender ≠ s.own) (he : f.epoch = s.clock.cur) :
    ∃ a : State, exec (.reportReceived dt f) s = .next ((a.takeMark false).windowTake f).finish ∧ a.now = s.now + dt ∧
      a.clock = { s.clock with
        cur := s.clock.cur + 1
        origin := some (s.now + dt - s.bits (10 * (12 + 2 * (s.ctl.profile.pools : Int))) -
          s.bits (320 * (f.sender.val : Int)))
        slotTimer := .slots, slotCount := f.sender.val + 1, pending := false
        timer := if s.ctl.life = .run then .running (s.now + dt + s.markInterval) else s.clock.timer } ∧
      ImpliedBooks s a f := by
  have books := s.reported_books dt f ho
  obtain ⟨cnow, cclock, cctl⟩ := (s.heard dt).reported_frame f
  have received : exec (.reportReceived dt f) s = .next (((s.heard dt).reported f).windowReport f).finish := by
    refine (s.frameIn_outside dt (.report f) _ h hc ?_).trans ?_
    · simp [Frame.good, hw, hk]
    · rw [(s.heard dt).reportIn_other f _ _ ho hleave hl]
  generalize (s.heard dt).reported f = c at books cnow cclock cctl received
  rw [c.windowReport_implies f hw (by rw [cctl]; exact hk) (by rw [cctl]; exact hl) (by rw [State.own, cctl]; exact ho)
    (by rw [cclock]; exact he)] at received
  obtain ⟨anow, aclock, -, -⟩ := c.impliedEpoch_frame (c.reportOrigin f) (f.sender.val + 1)
  refine ⟨_, received, anow.trans cnow, ?_, books.impliedEpoch _ _⟩
  rw [aclock, State.reportOrigin, cclock, cnow]
  simp only [State.markInterval, State.period, State.bits, State.own, cctl]
  rfl

/-- A mark in RUN leaves controller and mark timer: the timer as the epoch clock set it, the leave stage moved (R4, R133). -/
theorem ImpliedBooks.run_frame {s a : State} {f : ReportFrame} (h : ImpliedBooks s a f) (hr : s.ctl.life = .run) :
    (a.takeMark false).ctl.life = .run ∧ (a.takeMark false).clock = a.clock := by
  obtain ⟨-, -, -, -, -, -, ctl, clock⟩ := a.takeMark_run_spec false (by rw [h.ctl, hr])
  exact ⟨by rw [ctl, h.ctl, hr], clock⟩

/-- Settles O42: the mark is taken on the books of s with the sender's entry and the comparison made, and the newest record
then takes the frame. -/
theorem reportImpliesMark : Obligations.ReportImpliesMark := by
  unfold Obligations.ReportImpliesMark
  intro s dt f h hc hw hk hl hleave ho he
  obtain ⟨a, exec_eq, anow, aclock, books⟩ := exec_reportReceived_implies s dt f h hc hw hk hl hleave ho he
  have acur : a.clock.cur = s.clock.cur + 1 := by rw [aclock]
  have alife : a.ctl.life = .run ∨ a.ctl.life = .joining := by rw [books.ctl]; exact hl
  have atimer : s.ctl.life = .joining → a.clock.timer = s.clock.timer := fun hj => by rw [aclock]; exact if_neg (by rw [hj]; decide)
  have taken : (a.takeMark false).windowTake f = { a.takeMark false with window := (a.takeMark false).window.took f } :=
    books.windowTake acur he hl rfl (a.takeMark_newest alife).2
  have after : AfterMark (a.takeMark false) ((a.takeMark false).windowTake f).finish f := .of_shows taken rfl
  have shows := ((a.takeMark false).windowTake f).finish_shows
  generalize ((a.takeMark false).windowTake f).finish = t at exec_eq after shows
  rw [taken] at shows
  have clock : t.clock = { a.clock with timer := (a.takeMark false).clock.timer } := shows.clock.trans (a.takeMark_clock false alife)
  have now : t.now = s.now + dt := (shows.now.trans (a.takeMark_frame false).1).trans anow
  have entry : ∀ n : Station, t.entry n = a.entry n := fun n => by
    rw [State.entry, shows.entries]; exact a.takeMark_entry false n
  have pool : t.pool = (a.takeMark false).pool := shows.pool
  have queue : t.adjust.queue = (a.takeMark false).adjust.queue := by rw [after.adjust]
  have atMark := books.atMark
  rw [acur] at atMark
  have nocompare : s.ctl.life = .joining → a.pool = s.pool := fun hj => by
    rw [books.pool, (s.compare_effect f).2 (by rw [hj]; decide)]
  have stays : s.ctl.life = .joining → a.joinInstall = false →
      JoinerStays s a.reportDiscarded.conflictFreeMark t ∧ FoldedFrom a.reportDiscarded.conflictFreeMark t ∧
      t.ctl = { s.ctl with joinWait := if s.ctl.joinWait < 4 then s.ctl.joinWait + 1 else 4
                           silence := some (s.now + dt + s.listenSpan) } ∧
      t.window = (a.reportDiscarded.conflictFreeMark.windowMark false).window.took f := fun hj hi => by
    obtain ⟨stays, folded, ctl⟩ := books.stays hj hi (atimer hj) shows.now shows.ctl after.timer shows.builder
      shows.channels shows.adjust ⟨_, _, pool⟩ (fun _ => pool)
    obtain ⟨-, -, -, window, -⟩ := a.takeMark_joining false (by rw [books.ctl, hj]) hi
    exact ⟨stays, folded, by rw [ctl, anow], by rw [after.window, window]⟩
  refine ⟨t, exec_eq, now, ?_, ?_, ?_, ?_, ?_, ?_, books.newest acur he hk hl after.window, ?_, ?_, fun n hn => ?_, ?_, ?_,
    fun hr => ⟨?_, ?_, .of_after books acur he hk ho hr after, ?_⟩, fun hj hh => ?_, fun x hj hx => ?_, ?_⟩
  · rw [clock]; exact acur
  · rw [clock, aclock]
  · rw [clock, aclock]
  · rw [clock, aclock]
  · rw [clock, aclock]
  · rw [clock, aclock]
  · rw [entry, books.present]
  · rw [entry, books.unmissed]
  · rw [entry, books.others n hn]
  · rw [shows.reference, ← books.reference]; exact (a.takeMark_frame false).2.2.1
  · rw [← acur]
    exact books.counted (after.discarded.trans (a.takeMark_discarded false)) after.conflicts after.conflictFree after.reported
  · rw [after.ctl]; exact (books.run_frame hr).1
  · rw [after.timer, (books.run_frame hr).2, aclock]
    simp only [hr, if_true, State.markInterval, State.period, State.bits, add_assoc]
  · obtain ⟨marked, window⟩ := books.pool_run hr after
    exact ⟨_, atMark, marked.congr pool queue, window⟩
  · have none : a.joinInstall = false := a.joinInstall_none (by rw [nocompare hj, hh])
    obtain ⟨⟨-, timer, builder, channels, held, -⟩, folded, ctl, window⟩ := stays hj none
    exact ⟨builder, channels, ctl, timer, _, atMark, folded, held, window⟩
  · refine ⟨_, atMark, fun hi => ?_, fun hi => ?_⟩
    · rw [a.joinInstall_atMark] at hi
      have installing : a.installing = true := a.installing_iff.mpr ⟨by rw [books.ctl, hj], hi⟩
      obtain ⟨⟨installed, adjusted, settled⟩, window, resend⟩ := books.installed acur hj installing hx after
      rw [← acur]
      refine ⟨⟨books.enters installing after, ?_⟩, window, resend⟩
      rw [InstalledAtMark, pool, queue]
      exact ⟨installed, adjusted, settled⟩
    · rw [a.joinInstall_atMark] at hi
      obtain ⟨waits, -, -, window⟩ := stays hj hi
      exact ⟨waits, window⟩
  · rw [shows.reply, ← books.reply]; exact a.takeMark_reply false

end Sys2Proof.Machine
end


section
/-! What a slot-phase end right after an implied mark leaves of it (R8, R16, R43, R46, R91 to R93). -/

namespace Sys2Proof.Machine

/-! ### What a slot-phase end keeps -/

/-- Every RESEND that waits in s waits in t. -/
def ResendsWait (s t : State) : Prop :=
  ∀ e : Epoch, (∃ q ∈ s.line.queue, q.key = .resend e) → ∃ q ∈ t.line.queue, q.key = .resend e

/-- q is p but for what the pool unit's part of a slot-phase end may write, the agreement state apart (R91 to R94). -/
abbrev Pool.RefersAnew (p q : Pool) : Prop :=
  q = { p with target := q.target, wait := q.wait, held := q.held, clean := q.clean, uncleanSelf := q.uncleanSelf
               noComparison := q.noComparison }

/-- t keeps of s what the work of a slot-phase end leaves alone in RUN and JOINING, the window apart; events may arise. -/
structure PhaseKeeps (s t : State) : Prop where
  now : t.now = s.now
  clock : t.clock = { s.clock with slotCount := t.clock.slotCount, slotTimer := t.clock.slotTimer }
  builder : t.builder = s.builder
  adjust : t.adjust = s.adjust
  ctl : t.ctl = s.ctl
  channels : t.channels = s.channels
  rules : ∀ i : Fin 4, (t.drives.drives.get i).rule = (s.drives.drives.get i).rule ∧
    (t.drives.drives.get i).mode = (s.drives.drives.get i).mode
  table : t.pool.table = s.pool.table
  foldPoint : t.pool.foldPoint = s.pool.foldPoint
  history : t.pool.history = s.pool.history
  gaps : t.pool.gaps = s.pool.gaps
  holdBack : t.pool.holdBack = s.pool.holdBack
  pins : PinsFollow s → PinsFollow t
  discarded : t.line.discarded = s.line.discarded
  resends : ResendsWait s t
  conflicts : t.roster.conflicts = s.roster.conflicts
  conflictFree : t.roster.conflictFree = s.roster.conflictFree
  raised : Raised s t

theorem PhaseKeeps.trans {a b c : State} (h : PhaseKeeps a b) (k : PhaseKeeps b c) : PhaseKeeps a c where
  now := k.now.trans h.now
  clock := by rw [k.clock, h.clock]
  builder := k.builder.trans h.builder
  adjust := k.adjust.trans h.adjust
  ctl := k.ctl.trans h.ctl
  channels := k.channels.trans h.channels
  rules := fun i => ⟨(k.rules i).1.trans (h.rules i).1, (k.rules i).2.trans (h.rules i).2⟩
  table := k.table.trans h.table
  foldPoint := k.foldPoint.trans h.foldPoint
  history := k.history.trans h.history
  gaps := k.gaps.trans h.gaps
  holdBack := k.holdBack.trans h.holdBack
  pins := fun p => k.pins (h.pins p)
  discarded := k.discarded.trans h.discarded
  resends := fun e p => k.resends e (h.resends e p)
  conflicts := k.conflicts.trans h.conflicts
  conflictFree := k.conflictFree.trans h.conflictFree
  raised := h.raised.trans k.raised

/-- A state that differs in roster entries, reference, window, send queue and draws at most, and in what the pool unit may
write. -/
theorem PhaseKeeps.of_fields {s t : State} (hn : t.now = s.now) (hc : t.clock = s.clock) (hb : t.builder = s.builder)
    (ha : t.adjust = s.adjust) (hl : t.ctl = s.ctl) (hch : t.channels = s.channels) (hd : t.drives = s.drives)
    (hp : s.pool.RefersAnew t.pool)
    (hdisc : t.line.discarded = s.line.discarded) (hq : ResendsWait s t)
    (hk : t.roster.conflicts = s.roster.conflicts ∧ t.roster.conflictFree = s.roster.conflictFree) (hr : Raised s t) :
    PhaseKeeps s t where
  now := hn
  clock := by rw [hc]
  builder := hb
  adjust := ha
  ctl := hl
  channels := hch
  rules := fun i => by rw [hd]; exact ⟨rfl, rfl⟩
  table := by rw [hp]
  foldPoint := by rw [hp]
  history := by rw [hp]
  gaps := by rw [hp]
  holdBack := by rw [hp]
  pins := fun h => h.congr hl (by rw [hp]) (by rw [hd])
  discarded := hdisc
  resends := hq
  conflicts := hk.1
  conflictFree := hk.2
  raised := hr

theorem PhaseKeeps.refl (s : State) : PhaseKeeps s s :=
  .of_fields rfl rfl rfl rfl rfl rfl rfl rfl rfl (fun _ k => k) ⟨rfl, rfl⟩ (.refl s)

/-- A draw and a new window are nothing of what a slot-phase end keeps. -/
theorem State.draw_keeps (s : State) : PhaseKeeps s s.draw :=
  .of_fields rfl rfl rfl rfl rfl rfl rfl rfl rfl (fun _ k => k) ⟨rfl, rfl⟩ (.of_port rfl)

theorem State.withWindow_keeps (s : State) (w : Window) : PhaseKeeps s { s with window := w } :=
  .of_fields rfl rfl rfl rfl rfl rfl rfl rfl rfl (fun _ k => k) ⟨rfl, rfl⟩ (.of_port rfl)

/-- The parts of the pool unit that a slot-phase end may write, the agreement state apart. -/
theorem State.withPool_keeps (s : State) (p : Pool) (hp : s.pool.RefersAnew p) : PhaseKeeps s { s with pool := p } :=
  .of_fields rfl rfl rfl rfl rfl rfl rfl hp rfl (fun _ k => k) ⟨rfl, rfl⟩ (.of_port rfl)

theorem State.raise_keeps (s : State) (b : Block) (k : EventKind) (n : Option Station) (v : BitVec 16) :
    PhaseKeeps s (s.raise b k n v) :=
  .of_fields rfl rfl rfl rfl rfl rfl rfl rfl rfl (fun _ k => k) ⟨rfl, rfl⟩ (s.raise_raised b k n v)

/-- A move of the agreement state takes the pins with it (R89, R158). -/
theorem State.agree_keeps (s : State) (a : Agreement) : PhaseKeeps s (s.agree a) where
  now := by simp
  clock := by simp
  builder := by simp
  adjust := by simp
  ctl := by simp
  channels := by simp
  rules := s.agree_rule a
  table := by simp
  foldPoint := by simp
  history := by simp
  gaps := by simp
  holdBack := by simp
  pins := fun _ => (s.setAgreement a).refreshDrives_follow
  discarded := by simp
  resends := fun e h => by simpa using h
  conflicts := by simp
  conflictFree := by simp
  raised := s.agree_raised a

theorem State.offer_keeps (s : State) (k : QKey) (t : Option Station) (p : Option (List Pair)) :
    PhaseKeeps s (s.offer k t p).1 := by
  refine .of_fields (by simp) (by simp) (by simp) (by simp) (by simp) (by simp) (by simp) (by simp) (s.offer_line k t p).2
    (fun e h => ?_) (by simp) (.of_port (by simp))
  obtain ⟨q, hq, key⟩ := h
  obtain ⟨x, hx, same⟩ := s.offer_keeps_keys k t p hq
  exact ⟨x, hx, same.trans key⟩

theorem State.offerResends_keeps (l : List OutEntry) : ∀ s : State, PhaseKeeps s (s.offerResends l) := by
  induction l with
  | nil => exact fun s => .refl s
  | cons e t ih =>
    intro s
    have offered := s.offer_keeps (.resend e.epoch) none none
    simp only [State.offerResends]
    split
    · exact offered.trans (ih _)
    · exact offered

theorem State.offerPairs_keeps (s : State) : PhaseKeeps s s.offerPairs := by
  unfold State.offerPairs
  split
  · exact .refl s
  · exact s.offer_keeps _ _ _

theorem State.offerAdjust_keeps (s : State) : PhaseKeeps s s.offerAdjust := by
  unfold State.offerAdjust
  split
  · exact .refl s
  · split
    · exact s.offer_keeps _ _ _
    · exact .refl s

theorem State.offerSnapshotPart_keeps (s : State) : PhaseKeeps s s.offerSnapshotPart.1 := by
  unfold State.offerSnapshotPart
  split
  · exact .refl s
  · split
    · exact s.offer_keeps _ _ _
    · exact .refl s

theorem State.requestSnapshot_keeps (s : State) : PhaseKeeps s s.requestSnapshot := by
  simp only [State.requestSnapshot]
  split
  · exact (s.offerSnapshotPart_keeps.trans (State.withPool_keeps _ _ rfl)).trans (State.agree_keeps _ _)
  · exact s.offerSnapshotPart_keeps

theorem State.selfReference_keeps (s : State) : PhaseKeeps s s.selfReference := by
  simp only [State.selfReference]
  split
  · exact (s.withPool_keeps _ rfl).trans (State.agree_keeps _ _)
  · have uncertain : ∀ p : Pool, s.pool.RefersAnew p → PhaseKeeps s (({ s with pool := p } : State).agree .uncertain) :=
      fun p hp => (s.withPool_keeps p hp).trans (State.agree_keeps _ _)
    split
    · exact (((uncertain _ rfl).trans (State.withPool_keeps _ _ rfl)).trans (State.agree_keeps _ _)).trans
        (State.raise_keeps _ _ _ _ _)
    · exact uncertain _ rfl

theorem State.countNoComparison_keeps (s : State) : PhaseKeeps s s.countNoComparison := by
  simp only [State.countNoComparison]
  split
  · exact ((s.withPool_keeps _ rfl).trans (State.agree_keeps _ _)).trans (State.offerSnapshotPart_keeps _)
  · exact s.withPool_keeps _ rfl

/-- The station has another for its reference: its count as an unclean reference of its own is 0 (R91). -/
def State.refersToOther (s : State) : State := { s with pool := { s.pool with uncleanSelf := 0 } }

/-- The pool unit's slot-phase-end work where this station is not its own reference, by agreement state (R92, R93). -/
theorem State.poolPhaseEnd_other (s : State) (h : s.roster.reference ≠ some s.own) :
    (s.pool.agreement = .uncertain → s.poolPhaseEnd = s.refersToOther.countNoComparison) ∧
    (s.pool.agreement = .diverged → s.poolPhaseEnd = s.refersToOther.requestSnapshot) ∧
    (s.pool.agreement = .resyncing → s.poolPhaseEnd =
      if s.pool.held = none then s.refersToOther.offerSnapshotPart.1 else s.refersToOther) ∧
    (s.pool.agreement = .none ∨ s.pool.agreement = .agreed → s.poolPhaseEnd = s.refersToOther) := by
  unfold State.poolPhaseEnd
  rw [if_neg h]
  refine ⟨fun k => ?_, fun k => ?_, fun k => ?_, fun k => ?_⟩
  · rw [k]; rfl
  · rw [k]; rfl
  · rw [k]; rfl
  · rcases k with k | k
    · rw [k]; rfl
    · rw [k]; rfl

theorem State.poolPhaseEnd_keeps (s : State) : PhaseKeeps s s.poolPhaseEnd := by
  have start : PhaseKeeps s s.refersToOther := s.withPool_keeps { s.pool with uncleanSelf := 0 } rfl
  by_cases h : s.roster.reference = some s.own
  · rw [State.poolPhaseEnd, if_pos h]
    exact s.selfReference_keeps
  · obtain ⟨uncertain, diverged, resyncing, settled⟩ := s.poolPhaseEnd_other h
    cases ha : s.pool.agreement with
    | none => rw [settled (.inl ha)]; exact start
    | agreed => rw [settled (.inr ha)]; exact start
    | uncertain => rw [uncertain ha]; exact start.trans (State.countNoComparison_keeps _)
    | diverged => rw [diverged ha]; exact start.trans (State.requestSnapshot_keeps _)
    | resyncing =>
      rw [resyncing ha]
      split
      · exact start.trans (State.offerSnapshotPart_keeps _)
      · exact start

theorem State.phaseOffers_keeps (s : State) : PhaseKeeps s s.phaseOffers := by
  have offered := fun l => (((State.offerResends_keeps l s).trans (State.offerPairs_keeps _)).trans
    (State.poolPhaseEnd_keeps _)).trans (State.offerAdjust_keeps _)
  simp only [State.phaseOffers]
  split
  · exact (offered _).trans (State.offer_keeps _ _ _ _)
  · exact offered _

/-- The roster's part moves no conflict count (R50). -/
theorem State.phaseRoster_counts (s : State) : s.phaseRoster.roster.conflicts = s.roster.conflicts ∧
    s.phaseRoster.roster.conflictFree = s.roster.conflictFree := by
  have missed : ∀ x : State, x.countMisses.roster.conflicts = x.roster.conflicts ∧
      x.countMisses.roster.conflictFree = x.roster.conflictFree := fun x => by
    unfold State.countMisses
    split
    · exact ⟨rfl, rfl⟩
    · exact ⟨foldl_keeps (fun s : State => s.roster.conflicts) State.countMiss
          (fun s n => (s.setEntry_counts n _).1) _ x,
        foldl_keeps (fun s : State => s.roster.conflictFree) State.countMiss (fun s n => (s.setEntry_counts n _).2) _ x⟩
  have lapses : ∀ x : State, x.lapseJoins.roster.conflicts = x.roster.conflicts ∧
      x.lapseJoins.roster.conflictFree = x.roster.conflictFree := fun x =>
    ⟨foldl_keeps (fun s : State => s.roster.conflicts) (fun (s : State) (n : Station) => s.setEntry n .blank)
        (fun s n => (s.setEntry_counts n .blank).1) _ x,
      foldl_keeps (fun s : State => s.roster.conflictFree) (fun (s : State) (n : Station) => s.setEntry n .blank)
        (fun s n => (s.setEntry_counts n .blank).2) _ x⟩
  have chosen : ∀ x : State, x.chooseReference.roster.conflicts = x.roster.conflicts ∧
      x.chooseReference.roster.conflictFree = x.roster.conflictFree := fun x => by
    simp only [State.chooseReference]
    split
    · exact ⟨rfl, rfl⟩
    · split <;> exact ⟨rfl, rfl⟩
  obtain ⟨c1, f1⟩ := missed s
  obtain ⟨c2, f2⟩ := lapses s.countMisses
  obtain ⟨c3, f3⟩ := chosen s.countMisses.lapseJoins
  exact ⟨c3.trans (c2.trans c1), f3.trans (f2.trans f1)⟩

theorem State.phaseRoster_keeps (s : State) : PhaseKeeps s s.phaseRoster := by
  obtain ⟨now, clock, line, builder, -, adjust, ctl, channels, drives⟩ := s.phaseRoster_frame
  refine .of_fields now clock builder adjust ctl channels drives ?_ (by rw [line]) (fun e h => by rw [line]; exact h)
    s.phaseRoster_counts ?_
  · rw [s.phaseRoster_pool]
  · exact (s.countMisses_raised.trans s.countMisses.lapseJoins_raised).keep (by simp [State.phaseRoster])

/-- The line's part drops the REQUEST alone (R33, R34). -/
theorem State.phaseBegun_keeps (s : State) : PhaseKeeps s s.phaseBegun := by
  have same := PhaseKeeps.refl s
  exact ⟨rfl, rfl, rfl, rfl, rfl, rfl, same.rules, rfl, rfl, rfl, rfl, rfl, fun h => h.congr rfl rfl rfl, rfl,
    fun e ⟨q, hq, key⟩ => ⟨q, List.mem_filter.mpr ⟨hq, by simp [key]⟩, key⟩, rfl, rfl, .of_port rfl⟩

/-- A slot-phase end in RUN, and one in JOINING with no third JOIN unanswered, in what it keeps (R8). -/
theorem State.phaseEnd_keeps (s : State) (h : s.ctl.life = .run ∨
    (s.ctl.life = .joining ∧ ¬s.phaseBegun.phaseRoster.joinUnanswered)) : PhaseKeeps s s.phaseEnd := by
  have roster := s.phaseBegun_keeps.trans s.phaseBegun.phaseRoster_keeps
  rcases h with hr | ⟨hj, hu⟩
  · rw [s.phaseEnd_run hr]
    exact roster.trans (State.phaseOffers_keeps _)
  · obtain ⟨-, due, idle⟩ := s.phaseEnd_joining hj
    by_cases hd : s.phaseBegun.phaseRoster.joinDue
    · rw [due hu hd]
      exact roster.trans (State.offer_keeps _ _ _ _)
    · rw [idle hu hd]
      exact roster

end Sys2Proof.Machine
end


section
/-! The slot-phase end that follows the implied mark of a RESEND, and the frame before or after it (R16, R43, notes/assumptions/6.md). -/

namespace Sys2Proof.Machine

/-! ### Roster, clock and pool unit at a slot-phase end -/

/-- Whether a third JOIN is unanswered no part of the slot-phase end before it decides (R129). -/
theorem State.phaseBegun_unanswered (s : State) : s.phaseBegun.phaseRoster.joinUnanswered ↔ s.joinUnanswered := by
  have ctl : s.phaseBegun.phaseRoster.ctl = s.ctl := s.phaseBegun.phaseRoster_frame.2.2.2.2.2.2.1
  have held : s.phaseBegun.phaseRoster.pool.held = s.pool.held := by rw [s.phaseBegun.phaseRoster_pool]; rfl
  rw [State.joinUnanswered, State.joinUnanswered, ctl, held]

/-- Clock, window and roster entries after a slot-phase end that leaves the station in RUN or JOINING (R8, R43, R44). -/
theorem State.phaseEnd_fields (s : State) (h : s.ctl.life = .run ∨ (s.ctl.life = .joining ∧ ¬s.joinUnanswered)) :
    s.phaseEnd.clock = { s.clock with slotCount := 32, slotTimer := .window } ∧ s.phaseEnd.window = s.window ∧
    s.phaseEnd.roster.entries = s.countMisses.lapseJoins.roster.entries := by
  have entries := s.phaseBegun_alike.phaseRoster.2
  obtain ⟨-, clock, -, -, window, -⟩ := s.phaseBegun.phaseRoster_frame
  rcases h with hr | ⟨hj, hu⟩
  · obtain ⟨-, oclock, oroster, -, owindow, -⟩ := s.phaseBegun.phaseRoster.phaseOffers_frame
    rw [s.phaseEnd_run hr, oclock, oroster, owindow]
    exact ⟨clock, window, entries⟩
  · obtain ⟨-, due, idle⟩ := s.phaseEnd_joining hj
    rw [s.phaseBegun_unanswered] at due idle
    by_cases hd : s.phaseBegun.phaseRoster.joinDue
    · rw [due hu hd]
      simp only [State.offerKey_frame]
      exact ⟨clock, window, entries⟩
    · rw [idle hu hd]
      exact ⟨clock, window, entries⟩

/-- Only in DIVERGED and RESYNCING does a new reference move the pool unit (R94). -/
theorem State.phaseRoster_pool_settled (s : State) (h : s.pool.agreement ≠ .diverged ∧ s.pool.agreement ≠ .resyncing) :
    s.phaseRoster.pool = s.pool := by
  have chosen : ∀ x : State, x.pool = s.pool → x.chooseReference.pool = s.pool := fun x hx => by
    simp only [State.chooseReference, hx]
    split
    · exact hx
    · rw [if_neg (not_or.mpr h)]
  exact chosen _ (by simp)

/-- The pool unit after a slot-phase end in RUN is as its own part leaves it, on the reference then chosen (R8, R91 to R93). -/
theorem State.phaseOffers_pool (s : State) : ∃ x : State, x.roster = s.roster ∧ x.ctl = s.ctl ∧ x.pool = s.pool ∧
    s.phaseOffers.pool = x.poolPhaseEnd.pool := by
  refine ⟨(s.offerResends (s.builder.outbox.filter (fun e => !e.transmitted))).offerPairs, by simp, by simp, by simp, ?_⟩
  simp only [State.phaseOffers]
  split <;> simp

theorem State.offerSnapshotPart_pool (s : State) : s.offerSnapshotPart.1.pool = s.pool := by simp

/-- A station with another for its reference keeps clean flag, held snapshot and AGREED at a slot-phase end (R92, R93). -/
theorem State.poolPhaseEnd_settled (s : State) (h : s.roster.reference ≠ some s.own) :
    s.poolPhaseEnd.pool.clean = s.pool.clean ∧ s.poolPhaseEnd.pool.held = s.pool.held ∧
    (s.pool.agreement = .agreed → s.poolPhaseEnd.pool.agreement = .agreed) := by
  obtain ⟨uncertain, diverged, resyncing, settled⟩ := s.poolPhaseEnd_other h
  cases ha : s.pool.agreement with
  | none => rw [settled (.inl ha)]; exact ⟨rfl, rfl, fun k => nomatch k⟩
  | agreed => rw [settled (.inr ha)]; exact ⟨rfl, rfl, fun _ => ha⟩
  | uncertain =>
    rw [uncertain ha]
    simp only [State.countNoComparison]
    split
    · simp [State.refersToOther]
    · exact ⟨rfl, rfl, fun k => nomatch k⟩
  | diverged =>
    rw [diverged ha, (State.requestSnapshot_effect _).1]
    split <;> exact ⟨rfl, rfl, fun k => nomatch k⟩
  | resyncing =>
    rw [resyncing ha]
    split
    · rw [State.offerSnapshotPart_pool]; exact ⟨rfl, rfl, fun k => nomatch k⟩
    · exact ⟨rfl, rfl, fun k => nomatch k⟩

/-- A clean AGREED station with no snapshot held and no target stays so at a slot-phase end, whichever its reference (R91). -/
theorem State.poolPhaseEnd_agreed (s : State) (ha : s.pool.agreement = .agreed) (hc : s.pool.clean = true)
    (hh : s.pool.held = none) (ht : s.pool.target = none) : s.poolPhaseEnd.pool = { s.pool with uncleanSelf := 0 } := by
  by_cases h : s.roster.reference = some s.own
  · have self : s.poolPhaseEnd = ({ s with pool := { s.pool with target := none, held := none, uncleanSelf := 0 } } : State).agree
        .agreed := by
      rw [State.poolPhaseEnd, if_pos h, State.selfReference, if_pos hc]
    rw [self, State.agree_pool, ← ha, ← hh, ← ht]
  · rw [(s.poolPhaseEnd_other h).2.2.2 (.inr ha)]; rfl

theorem State.phaseEnd_settled (s : State) (hr : s.ctl.life = .run) (h : s.phaseEnd.roster.reference ≠ some s.own) :
    s.phaseEnd.pool.clean = s.pool.clean ∧ s.phaseEnd.pool.held = s.pool.held ∧
    (s.pool.agreement = .agreed → s.phaseEnd.pool.agreement = .agreed) := by
  have roster := s.phaseBegun.phaseRoster.phaseOffers_frame.2.2.1
  have ctl : s.phaseBegun.phaseRoster.ctl = s.ctl := s.phaseBegun.phaseRoster_frame.2.2.2.2.2.2.1
  have before := s.phaseBegun.phaseRoster_pool
  obtain ⟨x, xroster, xctl, xpool, pool⟩ := s.phaseBegun.phaseRoster.phaseOffers_pool
  rw [s.phaseEnd_run hr] at h ⊢
  obtain ⟨clean, held, agreed⟩ := x.poolPhaseEnd_settled (by
    rw [xroster, State.own, xctl, ctl, ← roster]; exact h)
  rw [pool, clean, held, xpool, before]
  refine ⟨rfl, rfl, fun k => agreed ?_⟩
  rw [xpool, before]
  exact k

theorem State.phaseEnd_agreed (s : State) (hr : s.ctl.life = .run) (ha : s.pool.agreement = .agreed) (hc : s.pool.clean = true)
    (hh : s.pool.held = none) (ht : s.pool.target = none) : s.phaseEnd.pool = { s.pool with uncleanSelf := 0 } := by
  have before : s.phaseBegun.phaseRoster.pool = s.pool := State.phaseRoster_pool_settled s.phaseBegun (by
    rw [show s.phaseBegun.pool = s.pool from rfl, ha]; decide)
  obtain ⟨x, -, -, xpool, pool⟩ := s.phaseBegun.phaseRoster.phaseOffers_pool
  have same : x.pool = s.pool := xpool.trans before
  rw [s.phaseEnd_run hr, pool, x.poolPhaseEnd_agreed (by rw [same, ha]) (by rw [same, hc]) (by rw [same, hh]) (by rw [same, ht]),
    same]

/-- In JOINING the pool unit's target and wait count move at most, and with agreement state NONE nothing of it (R47, R94). -/
theorem State.phaseEnd_pool_joining (s : State) (hj : s.ctl.life = .joining) (hu : ¬s.joinUnanswered) :
    (∃ (tg : Option Station) (w : Nat), s.phaseEnd.pool = { s.pool with target := tg, wait := w }) ∧
    (s.pool.agreement = .none → s.phaseEnd.pool = s.pool) := by
  have pool : s.phaseEnd.pool = s.phaseBegun.phaseRoster.pool := by
    obtain ⟨-, due, idle⟩ := s.phaseEnd_joining hj
    rw [s.phaseBegun_unanswered] at due idle
    by_cases hd : s.phaseBegun.phaseRoster.joinDue
    · rw [due hu hd]; simp
    · rw [idle hu hd]
  rw [pool]
  refine ⟨⟨_, _, s.phaseBegun.phaseRoster_pool⟩, fun ha => State.phaseRoster_pool_settled s.phaseBegun ?_⟩
  rw [show s.phaseBegun.pool = s.pool from rfl, ha]
  decide

/-! ### The sender's entry -/

theorem State.countLapse_entry (s : State) (n : Station) : s.countMisses.lapseJoins.entry n =
    if lapsed s.clock.cur (if s.misses n then (s.entry n).missed s.ctl.profile.eviction else s.entry n) then .blank
    else if s.misses n then (s.entry n).missed s.ctl.profile.eviction else s.entry n := by
  rw [State.lapseJoins_entry, State.countMisses_entry, show s.countMisses.clock = s.clock by simp]

theorem lapsed_of_state {c : Epoch} {e : RosterEntry} (h : e.state ≠ .joining) : lapsed c e = false := by
  simp [lapsed, h]

/-- A PRESENT station that the newest record has heard stays as it is (R43). -/
theorem State.countLapse_heard (s : State) {n : Station} {r : Record} (hr : s.record (s.clock.cur - 1) = some r)
    (hh : mapHas r.heard n = true) (hp : (s.entry n).state = .present) : s.countMisses.lapseJoins.entry n = s.entry n := by
  have heard : s.misses n = false := by rw [State.misses, hr]; simp [hh]
  rw [s.countLapse_entry, heard]
  simp [lapsed_of_state (show (s.entry n).state ≠ .joining by rw [hp]; decide)]

/-- A PRESENT station that the newest record expects and has not heard has missed it (R43). -/
theorem State.countLapse_missed (s : State) {n : Station} {r : Record} (hr : s.record (s.clock.cur - 1) = some r)
    (he : mapHas r.expected n = true) (hh : r.heard = 0) (hn : n ≠ s.own) (hp : (s.entry n).state = .present) :
    s.countMisses.lapseJoins.entry n = (s.entry n).missed s.ctl.profile.eviction := by
  have unheard : mapHas r.heard n = false := by rw [hh]; exact BitVec.getLsbD_zero
  have missed : s.misses n = true := by rw [State.misses, hr]; simp [he, unheard, hn, hp]
  have state : ((s.entry n).missed s.ctl.profile.eviction).state ≠ .joining := by
    simp only [RosterEntry.missed]
    split <;> decide
  rw [s.countLapse_entry, missed]
  simp [lapsed_of_state state]

end Sys2Proof.Machine
end


section
/-! A RESEND's frame and the slot-phase end of its implied mark, in either order (R16, R43, R129, notes/assumptions/6.md). -/

namespace Sys2Proof.Machine

/-- y has just taken the implied mark of frame f: its newest record expects the sender, which stands PRESENT, and has heard no
station. -/
structure Awaits (y : State) (f : ReportFrame) : Prop where
  other : f.sender ≠ y.own
  present : (y.entry f.sender).state = .present
  unmissed : (y.entry f.sender).miss = 0
  newest : ∃ r : Record, y.window.records.head? = some r ∧ r.epoch = y.clock.cur - 1 ∧ r.epoch = f.epoch ∧ r.heard = 0 ∧
    r.state ≠ .folded ∧ mapHas r.expected f.sender = true

/-- x is y after frame f and a slot-phase end that left it in RUN or JOINING, whichever came first. -/
structure AfterPhase (y x : State) (f : ReportFrame) : Prop where
  keeps : PhaseKeeps y x
  window : x.window = y.window.took f
  clock : x.clock = { y.clock with slotCount := 32, slotTimer := .window }
  present : (x.entry f.sender).state = .present
  unmissed : (x.entry f.sender).miss = 0
  phase : ∃ v : State, v.pool = y.pool ∧ v.ctl = y.ctl ∧ x.pool = v.phaseEnd.pool ∧
    x.roster.reference = v.phaseEnd.roster.reference

theorem State.rosterReport_keeps (s : State) (f : ReportFrame) (ho : f.sender ≠ s.own) : PhaseKeeps s (s.rosterReport f) := by
  obtain ⟨now, clock, line, builder, -, pool, adjust, ctl, channels, drives⟩ := s.rosterReport_frame f
  obtain ⟨-, -, -, -, conflicts, free, raised⟩ := s.rosterReport_effect f ho
  exact .of_fields now clock builder adjust ctl channels drives (by rw [pool]) (by rw [line]) (fun e h => by rw [line]; exact h)
    ⟨conflicts, free⟩ raised

/-- The window of such a state takes the frame, and nothing else moves (R65, R66). -/
theorem Awaits.windowTake {y v : State} {f : ReportFrame} (h : Awaits y f) (hl : v.ctl.life = .run ∨ v.ctl.life = .joining)
    (hw : v.window = y.window) : v.windowTake f = { v with window := v.window.took f } := by
  obtain ⟨r, head, -, epoch, -, unfolded, -⟩ := h.newest
  exact v.windowTake_newest f hl (by rw [hw, head]) epoch unfolded

/-- With the frame taken, the record before cur has heard its sender (R43, R66). -/
theorem Awaits.heard {y v : State} {f : ReportFrame} (h : Awaits y f) (hw : v.window = y.window.took f)
    (hc : v.clock.cur = y.clock.cur) : ∃ r : Record, v.record (v.clock.cur - 1) = some r ∧ mapHas r.heard f.sender = true := by
  obtain ⟨r, head, before, epoch, unheard, -, -⟩ := h.newest
  have none : mapHas r.heard f.sender = false := by rw [unheard]; exact BitVec.getLsbD_zero
  refine ⟨r.take f.sender f.deltas, v.record_newest ?_ ?_, ?_⟩
  · rw [hw, Window.took_head head epoch]
  · rw [r.take_epoch, before, hc]
  · rw [(r.take_new f.sender f.deltas none).1, mapHas_or, mapHas_mapOf]
    simp

/-- With the frame before the slot-phase end its sender is passed over, in the roster's part of every life-cycle state (R43). -/
theorem Awaits.passed {y v : State} {f : ReportFrame} (h : Awaits y f) (hw : v.window = y.window.took f)
    (hc : v.clock.cur = y.clock.cur) (he : v.entry f.sender = y.entry f.sender) :
    v.countMisses.lapseJoins.entry f.sender = y.entry f.sender := by
  obtain ⟨r, record, heard⟩ := h.heard hw hc
  rw [v.countLapse_heard record heard (by rw [he, h.present]), he]

/-- The two orders of the frame and a slot-phase end that leaves the station in RUN or JOINING (notes/assumptions/6.md). -/
theorem Awaits.phaseEnd {y : State} {f : ReportFrame} (h : Awaits y f)
    (hl : y.ctl.life = .run ∨ (y.ctl.life = .joining ∧ ¬y.joinUnanswered)) : AfterPhase y (y.impliedPhaseEnd f) f := by
  have works : y.ctl.life = .run ∨ y.ctl.life = .joining := hl.imp_right And.left
  have keeps : ∀ v : State, v.ctl = y.ctl → v.pool = y.pool → PhaseKeeps v v.phaseEnd ∧
      v.phaseEnd.clock = { v.clock with slotCount := 32, slotTimer := .window } ∧ v.phaseEnd.window = v.window ∧
      v.phaseEnd.roster.entries = v.countMisses.lapseJoins.roster.entries := fun v hv hp => by
    have ready : v.ctl.life = .run ∨ (v.ctl.life = .joining ∧ ¬v.joinUnanswered) := by
      rw [State.joinUnanswered, hv, hp]; exact hl
    exact ⟨v.phaseEnd_keeps (ready.imp_right fun k => ⟨k.1, v.phaseBegun_unanswered.not.mpr k.2⟩), v.phaseEnd_fields ready⟩
  cases coin : y.coin with
  | true =>
    obtain ⟨kept, clock, window, -⟩ := keeps y.draw rfl rfl
    have listens : y.draw.phaseEnd.listening = true := by
      rw [State.listening, kept.ctl]
      rcases works with k | k <;> rw [State.draw_ctl, k] <;> rfl
    have first : y.impliedPhaseEnd f = (y.draw.phaseEnd.rosterReport f).windowTake f := by
      rw [State.impliedPhaseEnd, if_pos coin]
      exact if_pos listens
    have ctl : y.draw.phaseEnd.ctl = y.ctl := kept.ctl
    have began := y.draw_keeps.trans kept
    generalize hp : y.draw.phaseEnd = p at *
    have own : f.sender ≠ p.own := by rw [State.own, ctl]; exact h.other
    obtain ⟨-, rclock, -, -, rwindow, rpool, -, rctl, -, -⟩ := p.rosterReport_frame f
    obtain ⟨-, present, unmissed, reference, -, -, -⟩ := p.rosterReport_effect f own
    have reported := p.rosterReport_keeps f own
    rw [first, h.windowTake (by rw [rctl, ctl]; exact works) (rwindow.trans window)]
    refine ⟨(began.trans reported).trans (State.withWindow_keeps _ _), ?_, rclock.trans clock, present, unmissed,
      y.draw, rfl, rfl, ?_, ?_⟩
    · exact congrArg (Window.took · f) (rwindow.trans window)
    · rw [hp]; exact rpool
    · rw [hp]; exact reference
  | false =>
    have second : y.impliedPhaseEnd f = ({ y.draw with window := y.window.took f } : State).phaseEnd := by
      rw [State.impliedPhaseEnd, if_neg (by rw [coin]; decide), h.windowTake (v := y.draw) works rfl]
      rfl
    obtain ⟨kept, clock, window, entries⟩ := keeps { y.draw with window := y.window.took f } rfl rfl
    have passed := h.passed (v := { y.draw with window := y.window.took f }) rfl rfl rfl
    have began := (y.draw_keeps.trans (State.withWindow_keeps _ (y.window.took f))).trans kept
    have entry : ({ y.draw with window := y.window.took f } : State).phaseEnd.entry f.sender = y.entry f.sender := by
      rw [State.entry, entries]; exact passed
    rw [second]
    exact ⟨began, window, clock, by rw [entry, h.present], by rw [entry, h.unmissed],
      { y.draw with window := y.window.took f }, rfl, rfl, rfl, rfl⟩

/-- What the end of such a step shows of the mark (R16). -/
theorem AfterMark.of_phase {y x t : State} {f : ReportFrame} (h : AfterPhase y x f) (ht : t = x.finish) : AfterMark y t f := by
  have shows := x.finish_shows
  have roster : x.finish.roster = x.roster := x.finish_frame.2.2.2.1
  rw [← ht] at shows roster
  have keeps := h.keeps
  refine ⟨shows.now.trans keeps.now, by rw [shows.clock, h.clock], shows.window.trans h.window, shows.builder.trans keeps.builder,
    shows.channels.trans keeps.channels, fun i => ?_, by rw [shows.pool, keeps.table], fun p => ?_, ?_, fun e p => ?_,
    shows.adjust.trans keeps.adjust, shows.ctl.trans keeps.ctl, by rw [roster, keeps.conflicts],
    by rw [roster, keeps.conflictFree], fun b e k => shows.reported b e (keeps.raised.mem k)⟩
  · rw [shows.drives]; exact keeps.rules i
  · exact (keeps.pins p).congr shows.ctl (by rw [shows.pool]) shows.drives
  · rw [shows.line, keeps.discarded]
  · rw [shows.line]; exact keeps.resends e p

/-- p stands at the muting slot-phase end that follows the implied mark of frame f on y, before it enters MUTE (R129). -/
structure BeforeMute (y p : State) (f : ReportFrame) : Prop where
  keeps : PhaseKeeps y p
  clock : p.clock = { y.clock with slotCount := 32, slotTimer := .window }
  drives : p.drives = y.drives
  pool : ∃ (tg : Option Station) (w : Nat), p.pool = { y.pool with target := tg, wait := w }
  sender : (p.window = y.window.took f ∧ p.entry f.sender = y.entry f.sender) ∨
    (p.window = y.window ∧ p.entry f.sender = (y.entry f.sender).missed y.ctl.profile.eviction)

/-- With a third JOIN unanswered the slot-phase end mutes, before or after the frame (R129, notes/assumptions/6.md). -/
theorem Awaits.givesUp {y : State} {f : ReportFrame} (h : Awaits y f) (hj : y.ctl.life = .joining) (hu : y.joinUnanswered) :
    ∃ p : State, y.impliedPhaseEnd f = p.enterFrozen .mute .join ∧ BeforeMute y p f := by
  have mutes : ∀ v : State, v.ctl = y.ctl → v.pool = y.pool → v.drives = y.drives → PhaseKeeps y v → v.clock = y.clock →
      ((v.window = y.window.took f ∧ v.countMisses.lapseJoins.entry f.sender = y.entry f.sender) ∨
        (v.window = y.window ∧
          v.countMisses.lapseJoins.entry f.sender = (y.entry f.sender).missed y.ctl.profile.eviction)) →
      v.phaseEnd = v.phaseBegun.phaseRoster.enterFrozen .mute .join ∧ BeforeMute y v.phaseBegun.phaseRoster f :=
    fun v hv hp hd hk hc sender => by
    obtain ⟨-, clock, -, -, window, -, -, -, drives⟩ := v.phaseBegun.phaseRoster_frame
    have entries := v.phaseBegun_alike.phaseRoster.2
    have pool := v.phaseBegun.phaseRoster_pool
    rw [show v.phaseBegun.pool = y.pool from hp] at pool
    have muted := (v.phaseEnd_joining (by rw [hv, hj])).1
    rw [v.phaseBegun_unanswered, State.joinUnanswered, hv, hp] at muted
    refine ⟨muted hu, (hk.trans v.phaseBegun_keeps).trans (State.phaseRoster_keeps _), ?_, drives.trans hd, ⟨_, _, pool⟩, ?_⟩
    · rw [clock, ← hc]; rfl
    · rw [window, State.entry, entries]; exact sender
  cases coin : y.coin with
  | true =>
    obtain ⟨r, head, before, -, unheard, -, expected⟩ := h.newest
    have missed := y.draw.countLapse_missed (y.draw.record_newest head before) expected unheard h.other h.present
    obtain ⟨muted, stands⟩ := mutes y.draw rfl rfl rfl y.draw_keeps rfl (.inr ⟨rfl, missed⟩)
    refine ⟨_, ?_, stands⟩
    have silent : y.draw.phaseEnd.listening = false := by
      rw [muted, State.listening, (State.enterFrozen_fields _ _ _).1]; rfl
    rw [State.impliedPhaseEnd, if_pos coin]
    exact (if_neg (by rw [silent]; decide)).trans muted
  | false =>
    have passed := h.passed (v := { y.draw with window := y.window.took f }) rfl rfl rfl
    obtain ⟨muted, stands⟩ := mutes { y.draw with window := y.window.took f } rfl rfl rfl
      (y.draw_keeps.trans (State.withWindow_keeps _ _)) rfl (.inl ⟨rfl, passed⟩)
    refine ⟨_, ?_, stands⟩
    rw [State.impliedPhaseEnd, if_neg (by rw [coin]; decide), h.windowTake (v := y.draw) (.inr hj) rfl]
    exact muted

/-- A slot-phase end that follows the implied mark at once leaves the station in RUN or JOINING, or mutes it (R129). -/
theorem Awaits.ends {y : State} {f : ReportFrame} (h : Awaits y f) (hl : y.ctl.life = .run ∨ y.ctl.life = .joining) :
    (¬(y.ctl.life = .joining ∧ y.joinUnanswered) ∧ AfterPhase y (y.impliedPhaseEnd f) f) ∨
    (y.ctl.life = .joining ∧ y.joinUnanswered) ∧
      ∃ p : State, y.impliedPhaseEnd f = p.enterFrozen .mute .join ∧ BeforeMute y p f := by
  by_cases hu : y.ctl.life = .joining ∧ y.joinUnanswered
  · exact .inr ⟨hu, h.givesUp hu.1 hu.2⟩
  · exact .inl ⟨hu, h.phaseEnd (hl.imp_right fun hj => ⟨hj, fun k => hu ⟨hj, k⟩⟩)⟩

end Sys2Proof.Machine
end


section
/-! The implied mark of a RESEND, its parts by life-cycle state, and the obligation about it (R16, R43, R99, R127, R129). -/

namespace Sys2Proof.Machine

/-! ### The RESEND -/

/-- A RESEND of the present epoch implies a mark whose slot-phase end follows at once (R16). -/
theorem State.windowResend_implies (s : State) (f : ReportFrame) (hl : s.ctl.life = .run ∨ s.ctl.life = .joining)
    (ho : f.sender ≠ s.own) (he : f.epoch = s.clock.cur) : s.windowResend f =
      ((s.impliedEpoch (s.now - s.bits 10240) 32).takeMark false).impliedPhaseEnd f := by
  unfold State.windowResend
  rw [if_pos ⟨hl.symm, ho⟩, if_neg (by rw [he, ahead_self]; simp), if_pos he]
  rfl

/-- A RESEND that implies a mark, at the end of its step: the state the mark is taken on, and the step (R16, R38, R90). -/
theorem exec_resendReceived_implies (s : State) (dt : Nat) (f : ReportFrame) (h : Ready s) (hc : s.canReceive = true)
    (hw : f.wf = true) (hk : f.deltas.length = s.ctl.profile.pools) (hl : s.ctl.life = .run ∨ s.ctl.life = .joining)
    (hleave : s.ctl.leave ≠ .leaving) (ho : f.sender ≠ s.own) (he : f.epoch = s.clock.cur) :
    ∃ a : State, exec (.resendReceived dt f) s = .next ((a.takeMark false).impliedPhaseEnd f).finish ∧ a.now = s.now + dt ∧
      a.clock = { s.clock with
        cur := s.clock.cur + 1, origin := some (s.now + dt - s.bits 10240), slotTimer := .slots, slotCount := 32
        pending := false
        timer := if s.ctl.life = .run then .running (s.now + dt + s.markInterval) else s.clock.timer } ∧
      ImpliedBooks s a f := by
  have books := s.reported_books dt f ho
  obtain ⟨cnow, cclock, cctl⟩ := (s.heard dt).reported_frame f
  have received : exec (.resendReceived dt f) s = .next (((s.heard dt).reported f).windowResend f).finish := by
    refine (s.frameIn_outside dt (.resend f) _ h hc ?_).trans ?_
    · simp [Frame.good, hw, hk]
    · rw [(s.heard dt).reportIn_other f _ _ ho hleave hl]
  generalize (s.heard dt).reported f = c at books cnow cclock cctl received
  rw [c.windowResend_implies f (by rw [cctl]; exact hl) (by rw [State.own, cctl]; exact ho) (by rw [cclock]; exact he)]
    at received
  obtain ⟨anow, aclock, -, -⟩ := c.impliedEpoch_frame (c.now - c.bits 10240) 32
  refine ⟨_, received, anow.trans cnow, ?_, books.impliedEpoch _ _⟩
  rw [aclock, cclock, cnow]
  simp only [State.markInterval, State.period, State.bits, State.own, cctl]
  rfl

/-- After the mark the newest record awaits the frame that implied it (R64). -/
theorem ImpliedBooks.awaits {s a : State} {f : ReportFrame} (h : ImpliedBooks s a f) (hc : a.clock.cur = s.clock.cur + 1)
    (hl : s.ctl.life = .run ∨ s.ctl.life = .joining) (ho : f.sender ≠ s.own) (he : f.epoch = s.clock.cur) :
    Awaits (a.takeMark false) f := by
  have alife : a.ctl.life = .run ∨ a.ctl.life = .joining := by rw [h.ctl]; exact hl
  obtain ⟨⟨r, head, fresh⟩, -⟩ := a.takeMark_newest alife
  have own : (a.takeMark false).own = s.own := by rw [State.own, (a.takeMark_frame false).2.2.2.2.1, h.ctl]; rfl
  have cur : (a.takeMark false).clock.cur = a.clock.cur := by rw [a.takeMark_clock false alife]
  refine ⟨by rw [own]; exact ho, ?_, ?_, r, head, by rw [cur]; exact fresh.epoch, ?_, fresh.heard, fresh.unfolded,
    fresh.expects _ h.present⟩
  · rw [a.takeMark_entry, h.present]
  · rw [a.takeMark_entry, h.unmissed]
  · rw [fresh.epoch, hc, he]; simp

/-! ### The end of the step -/

/-- t ends the step of an implied mark with its slot-phase end, y being the state after the mark: clock, counts, events and
the host's answer (R16, R24, R50). -/
structure ShowsPhase (y t : State) : Prop where
  now : t.now = y.now
  cur : t.clock.cur = y.clock.cur
  pacing : t.clock.pacing = y.clock.pacing
  origin : t.clock.origin = y.clock.origin
  pending : y.clock.pending = false → t.clock.pending = false
  slotCount : t.clock.slotCount = 32
  discarded : y.line.discarded = 0 → t.line.discarded = 0
  conflicts : t.roster.conflicts = y.roster.conflicts
  conflictFree : t.roster.conflictFree = y.roster.conflictFree
  reported : ∀ (b : Block) (e : Event), (b, e) ∈ y.port.arising → Reported t e
  reply : t.port.reply = y.port.reply

theorem AfterPhase.shows {y x : State} {f : ReportFrame} (h : AfterPhase y x f) : ShowsPhase y x.finish := by
  have shows := x.finish_shows
  have roster : x.finish.roster = x.roster := x.finish_frame.2.2.2.1
  have keeps := h.keeps
  have clock := shows.clock.trans h.clock
  generalize x.finish = t at shows roster clock
  refine ⟨shows.now.trans keeps.now, by rw [clock], by rw [clock], by rw [clock], fun k => by rw [clock]; exact k, by rw [clock],
    fun k => ?_, by rw [roster, keeps.conflicts], by rw [roster, keeps.conflictFree],
    fun b e k => shows.reported b e (keeps.raised.mem k), shows.reply.trans keeps.raised.reply⟩
  rw [shows.line, keeps.discarded, k]

theorem BeforeMute.shows {y p : State} {f : ReportFrame} (h : BeforeMute y p f) :
    ShowsPhase y (p.enterFrozen .mute .join).finish := by
  obtain ⟨-, fclock, fline, -, -⟩ := p.enterFrozen_fields .mute .join
  have shows := (p.enterFrozen .mute .join).finish_shows
  have roster : (p.enterFrozen .mute .join).finish.roster = (p.enterFrozen .mute .join).roster :=
    (p.enterFrozen .mute .join).finish_frame.2.2.2.1
  obtain ⟨fnow, -, froster, -⟩ := p.enterFrozen_frame .mute .join
  have raised := h.keeps.raised.trans (p.enterFrozen_raised .mute .join)
  generalize (p.enterFrozen .mute .join).finish = t at shows roster
  rw [froster] at roster
  have clock := shows.clock.trans fclock
  rw [Clock.frozen, h.clock] at clock
  refine ⟨(shows.now.trans fnow).trans h.keeps.now, by rw [clock], by rw [clock], by rw [clock], fun _ => by rw [clock],
    by rw [clock], fun _ => by rw [shows.line, fline], by rw [roster, h.keeps.conflicts], by rw [roster, h.keeps.conflictFree],
    fun b e k => shows.reported b e (raised.mem k), shows.reply.trans raised.reply⟩

/-! ### By life-cycle state -/

/-- In RUN the slot-phase end leaves the pool unit's balances, history and gaps as the mark left them (R16, R64, R91 to R93). -/
theorem ImpliedBooks.resend_run {s a x t : State} {f : ReportFrame} (h : ImpliedBooks s a f)
    (hc : a.clock.cur = s.clock.cur + 1) (hr : s.ctl.life = .run) (hx : AfterPhase (a.takeMark false) x f) (ht : t = x.finish) :
    ∃ m u : State, AtImpliedMark s m (s.clock.cur + 1) f ∧ PoolAtMark m u ∧ t.window = m.windowInRun.took f ∧
      t.pool.table = u.pool.table ∧ t.pool.foldPoint = u.pool.foldPoint ∧ t.pool.history = u.pool.history ∧
      t.pool.gaps = u.pool.gaps ∧ t.pool.holdBack = u.pool.holdBack ∧ t.adjust = u.adjust ∧
      (t.roster.reference ≠ some s.own → t.pool.clean = u.pool.clean ∧ t.pool.held = u.pool.held ∧
        (u.pool.agreement = .agreed → t.pool.agreement = .agreed)) := by
  have after := AfterMark.of_phase hx ht
  have shows := x.finish_shows
  rw [← ht] at shows
  obtain ⟨marked, window⟩ := h.pool_run hr after
  obtain ⟨v, vpool, vctl, pool, reference⟩ := hx.phase
  have life := (h.run_frame hr).1
  have own : v.own = s.own := by rw [State.own, vctl, (a.takeMark_frame false).2.2.2.2.1, h.ctl]; rfl
  refine ⟨_, a.takeMark false, by rw [← hc]; exact h.atMark, marked, window, ?_, ?_, ?_, ?_, ?_, after.adjust, fun k => ?_⟩
  · rw [shows.pool, hx.keeps.table]
  · rw [shows.pool, hx.keeps.foldPoint]
  · rw [shows.pool, hx.keeps.history]
  · rw [shows.pool, hx.keeps.gaps]
  · rw [shows.pool, hx.keeps.holdBack]
  · have settled := v.phaseEnd_settled (by rw [vctl, life]) (by rw [own, ← reference, ← shows.reference]; exact k)
    rw [shows.pool, pool, ← vpool]
    exact settled

/-- A joiner that enters RUN at the implied mark is AGREED there, and the slot-phase end leaves it so (R91, R99). -/
theorem ImpliedBooks.resend_installed {s a x t : State} {f : ReportFrame} (h : ImpliedBooks s a f)
    (hc : a.clock.cur = s.clock.cur + 1) (hj : s.ctl.life = .joining) (hi : a.joinInstall = true) {held : HeldSnapshot}
    (hh : s.pool.held = some held) (hx : AfterPhase (a.takeMark false) x f) (ht : t = x.finish) :
    JoinerEnters s t (s.clock.cur + 1) false ∧
    t.pool = { ((a.reportDiscarded.conflictFreeMark.windowMark true).install held).pool with uncleanSelf := 0 } ∧
    t.adjust.queue = (a.reportDiscarded.conflictFreeMark.windowMark true).adjust.queue ∧
    t.window = ((a.reportDiscarded.conflictFreeMark.windowMark true).install held).window.took f ∧
    (s.line.queue.length < 8 → ∃ q ∈ t.line.queue, q.key = .resend s.clock.cur) := by
  have after := AfterMark.of_phase hx ht
  have shows := x.finish_shows
  rw [← ht] at shows
  have installing : a.installing = true := a.installing_iff.mpr ⟨by rw [h.ctl, hj], hi⟩
  obtain ⟨⟨installed, adjusted, agreed, clean, none, target⟩, window, resend⟩ := h.installed hc hj installing hh after
  obtain ⟨v, vpool, vctl, pool, -⟩ := hx.phase
  have life : v.ctl.life = .run := by rw [vctl, (a.takeMark_ctl_enters false installing).1]
  refine ⟨by rw [← hc]; exact h.enters installing after, ?_, by rw [after.adjust]; exact adjusted, window, resend⟩
  rw [shows.pool, pool, v.phaseEnd_agreed life (by rw [vpool, agreed]) (by rw [vpool, clean]) (by rw [vpool, none])
    (by rw [vpool, target]), vpool, installed]

/-- A joiner whose third JOIN is not unanswered stays one past the slot-phase end (R99, R127, R130). -/
theorem ImpliedBooks.resend_stays {s a x t : State} {f : ReportFrame} (h : ImpliedBooks s a f) (hj : s.ctl.life = .joining)
    (hi : a.joinInstall = false) (htimer : a.clock.timer = s.clock.timer) (hu : ¬(a.takeMark false).joinUnanswered)
    (hx : AfterPhase (a.takeMark false) x f) (ht : t = x.finish) :
    JoinerStays s a.reportDiscarded.conflictFreeMark t ∧ FoldedFrom a.reportDiscarded.conflictFreeMark t ∧
    t.window = (a.reportDiscarded.conflictFreeMark.windowMark false).window.took f := by
  have after := AfterMark.of_phase hx ht
  have shows := x.finish_shows
  rw [← ht] at shows
  obtain ⟨-, -, -, window, -, ctl, -⟩ := a.takeMark_joining false (by rw [h.ctl, hj]) hi
  obtain ⟨v, vpool, vctl, pool, -⟩ := hx.phase
  obtain ⟨⟨tg, w, moved⟩, none⟩ := v.phaseEnd_pool_joining (by rw [vctl, ctl, h.ctl, hj])
    (by rw [State.joinUnanswered, vctl, vpool]; exact hu)
  rw [← pool, vpool] at moved none
  obtain ⟨stays, folded, -⟩ := h.stays hj hi htimer after.now after.ctl after.timer after.builder after.channels after.adjust
    ⟨tg, w, shows.pool.trans moved⟩ (fun k => shows.pool.trans (none k))
  exact ⟨stays, folded, by rw [after.window, window]⟩

/-- What MUTE leaves of the pool unit after the fold and the ageing is theirs (R64, R100). -/
theorem FoldedFrom.frozen {m y : State} (h : FoldedFrom m y) :
    ({ y.pool with agreement := .none, target := none, held := none, holdBack := 0, wait := 0, noComparison := 0
                   uncleanSelf := 0 } : Pool) =
      { (m.windowMark false).pool with agreement := .none, target := none, held := none, holdBack := 0, wait := 0
                                       noComparison := 0, uncleanSelf := 0 } := by
  obtain ⟨table, foldPoint, history, -, gaps, clean, -, -⟩ := h
  obtain ⟨aged, agedPoint, agedHistory⟩ := m.foldAtMark.age_balances
  have marked : (m.windowMark false).pool = m.foldAtMark.age.pool := rfl
  rw [marked]
  dsimp only
  rw [table, foldPoint, history, gaps, clean, aged, agedPoint, agedHistory]

/-- A joiner whose third JOIN is unanswered gives up at the slot-phase end (R129, R134, R135, notes/assumptions/6.md). -/
theorem ImpliedBooks.resend_givesUp {s a p t : State} {f : ReportFrame} (h : ImpliedBooks s a f)
    (hc : a.clock.cur = s.clock.cur + 1) (hreset : s.ctl.inReset = false) (hj : s.ctl.life = .joining)
    (hi : a.joinInstall = false) (hw : 3 ≤ s.ctl.joinWait) (hp : BeforeMute (a.takeMark false) p f)
    (ht : t = (p.enterFrozen .mute .join).finish) : JoinerGivesUp s a.reportDiscarded.conflictFreeMark t f := by
  obtain ⟨folded, -, -, window, adjust, ctl, -, -, builder, channels, drives⟩ := a.takeMark_joining false (by rw [h.ctl, hj]) hi
  have pctl : p.ctl = { s.ctl with joinWait := 4, silence := some (a.now + a.listenSpan) } := by
    have counted : (if s.ctl.joinWait < 4 then s.ctl.joinWait + 1 else 4) = 4 := by split <;> omega
    rw [hp.keeps.ctl, ctl, h.ctl, counted]
  have frozen := p.enterFrozen_finish .mute .join (.inl rfl) (by rw [pctl]; exact hreset)
  have tctl := (p.enterFrozen .mute .join).finish_shows.ctl.trans (p.enterFrozen_fields .mute .join).1
  rw [← ht] at frozen tctl
  obtain ⟨-, -, -, -, -, -, -, -, tclock, tx, queue, -, slotWaiting, roster, outbox, carry, twindow, tadjust, tchannels, pool,
    follow, fault, -, -, -, -, event⟩ := frozen
  have pbuilder : p.builder = s.builder := by rw [hp.keeps.builder, builder, h.builder]
  have pdrives : p.drives = s.drives := by rw [hp.drives, drives, (h.joining (by rw [hj]; decide)).2]
  have pcur : p.clock.cur = s.clock.cur + 1 := by
    rw [hp.clock, a.takeMark_clock false (by rw [h.ctl]; exact .inr hj), hc]
  have entry : t.entry f.sender = p.entry f.sender := by rw [State.entry, roster]; rfl
  rw [pbuilder] at outbox carry
  rw [pcur] at follow event
  refine ⟨by rw [tctl, pctl], by rw [tclock], by rw [tclock], by rw [tclock], tx, queue, slotWaiting, outbox, carry, ?_, ?_, ?_,
    ?_, fault, event, ?_⟩
  · obtain ⟨tg, w, moved⟩ := hp.pool
    rw [pool, moved, ← folded.frozen]
  · rw [tadjust, hp.keeps.adjust, adjust]
  · rw [tchannels, hp.keeps.channels, channels, h.channels]
  · rw [DrivesFollow, pdrives, pctl] at follow
    exact follow
  · rw [twindow, entry]
    refine hp.sender.imp (fun k => ⟨?_, ?_, ?_⟩) (fun k => ⟨?_, ?_, ?_⟩)
    · rw [k.1, window]
    · rw [k.2, a.takeMark_entry, h.present]
    · rw [k.2, a.takeMark_entry, h.unmissed]
    · rw [k.1, window]
    · rw [k.2, RosterEntry.missed, a.takeMark_entry, h.unmissed]
    · rw [k.2, RosterEntry.missed, a.takeMark_entry, h.unmissed, ctl, h.ctl]

/-- After the mark a joiner that stays has its third JOIN unanswered as the counts before the mark tell (R127, R129). -/
theorem ImpliedBooks.unanswered_iff {s a : State} {f : ReportFrame} (h : ImpliedBooks s a f) (hj : s.ctl.life = .joining)
    (hi : a.joinInstall = false) : (a.takeMark false).ctl.life = .joining ∧
    ((a.takeMark false).joinUnanswered ↔ s.ctl.joinAttempts = 3 ∧ 3 ≤ s.ctl.joinWait) := by
  obtain ⟨-, held, -, -, -, ctl, -⟩ := a.takeMark_joining false (by rw [h.ctl, hj]) hi
  have waited : (if s.ctl.joinWait < 4 then s.ctl.joinWait + 1 else 4) = 4 ↔ 3 ≤ s.ctl.joinWait := by split <;> omega
  refine ⟨by rw [ctl, h.ctl, hj], ?_⟩
  rw [State.joinUnanswered, held, ctl, h.ctl]
  simp only [waited, and_true]

/-- Settles O43: the mark is taken on the books of s with the sender's entry and the comparison made; the frame and the
slot-phase end follow in either order, and the slot-phase end mutes a joiner that gives up. -/
theorem resendImpliesMark : Obligations.ResendImpliesMark := by
  unfold Obligations.ResendImpliesMark
  intro s dt f h hc hw hk hl hleave ho he givesUp
  obtain ⟨a, exec_eq, anow, aclock, books⟩ := exec_resendReceived_implies s dt f h hc hw hk hl hleave ho he
  have acur : a.clock.cur = s.clock.cur + 1 := by rw [aclock]
  have alife : a.ctl.life = .run ∨ a.ctl.life = .joining := by rw [books.ctl]; exact hl
  have atimer : s.ctl.life = .joining → a.clock.timer = s.clock.timer := fun hj => by
    rw [aclock]; exact if_neg (by rw [hj]; decide)
  have clock := a.takeMark_clock false alife
  have ends := (books.awaits acur hl ho he).ends (a.takeMark_newest alife).2
  generalize (a.takeMark false).impliedPhaseEnd f = x at exec_eq ends
  have shows : ShowsPhase (a.takeMark false) x.finish := by
    rcases ends with ⟨-, phase⟩ | ⟨-, p, muted, before⟩
    · exact phase.shows
    · rw [muted]; exact before.shows
  have atMark := books.atMark
  rw [acur] at atMark
  refine ⟨x.finish, exec_eq, ?_, ?_, ?_, ?_, ?_, shows.slotCount, fun hm => ?_, ?_, fun hr => ?_,
    fun hj => ⟨_, atMark, fun held hh hi => ?_, fun hi hg => ?_, fun hi hg => ?_⟩, ?_⟩
  · rw [shows.now, (a.takeMark_frame false).1, anow]
  · rw [shows.cur, clock, aclock]
  · rw [shows.pacing, clock, aclock]
  · exact shows.pending (by rw [clock, aclock])
  · rw [shows.origin, clock, aclock]
  · rcases ends with ⟨-, phase⟩ | ⟨-, p, muted, -⟩
    · have entry : x.finish.entry f.sender = x.entry f.sender := by rw [State.entry, x.finish_shows.entries]; rfl
      have window := x.finish_shows.window.trans phase.window
      rw [entry, x.finish_shows.clock, phase.clock]
      exact ⟨rfl, books.newest acur he hk hl window, phase.present, phase.unmissed⟩
    · refine absurd ?_ hm
      rw [x.finish_shows.ctl, muted, (State.enterFrozen_fields _ _ _).1]
  · rw [← acur]
    exact books.counted (shows.discarded (a.takeMark_discarded false)) shows.conflicts shows.conflictFree shows.reported
  · obtain ⟨run, same⟩ := books.run_frame hr
    obtain ⟨-, phase⟩ := ends.resolve_right fun k => by rw [run] at k; exact nomatch k.1.1
    have after := AfterMark.of_phase phase rfl
    refine ⟨by rw [after.ctl, run], ?_, .of_after books acur he hk ho hr after, books.resend_run acur hr phase rfl⟩
    rw [after.timer, same, aclock]
    simp only [hr, if_true, State.markInterval, State.period, State.bits, add_assoc]
  · rw [a.joinInstall_atMark] at hi
    have installing : a.installing = true := a.installing_iff.mpr ⟨by rw [books.ctl, hj], hi⟩
    have run := congrArg Controller.life (a.takeMark_ctl_enters false installing).1
    obtain ⟨-, phase⟩ := ends.resolve_right fun k => by rw [run] at k; exact nomatch k.1.1
    exact books.resend_installed acur hj hi hh phase rfl
  · rw [a.joinInstall_atMark] at hi
    have answered := (books.unanswered_iff hj hi).2.not.mpr hg
    obtain ⟨-, phase⟩ := ends.resolve_right fun k => answered k.1.2
    obtain ⟨stays, folded, window⟩ := books.resend_stays hj hi (atimer hj) answered phase rfl
    exact ⟨stays, fun _ => folded, window⟩
  · rw [a.joinInstall_atMark] at hi
    obtain ⟨joining, unanswered⟩ := books.unanswered_iff hj hi
    obtain ⟨-, p, muted, before⟩ := ends.resolve_left fun k => k.1 ⟨joining, unanswered.mpr hg⟩
    exact books.resend_givesUp acur h.1 hj hi hg.2 before (by rw [muted])
  · rw [shows.reply, a.takeMark_reply, books.reply]

end Sys2Proof.Machine
end


section
/-! Every step keeps every buffer within its bound (R31, R53, R62, R75, R83, R86, R101, R182): the operations of flags, line,
roster and folds. -/

namespace Sys2Proof.Machine

/-- Each buffer of t is within its bound if that of s is. -/
structure KeepsBounds (s t : State) : Prop where
  queue : s.line.queue.length ≤ 8 → t.line.queue.length ≤ 8
  outbox : s.builder.outbox.length ≤ 8 → t.builder.outbox.length ≤ 8
  records : s.window.records.length ≤ 8 → t.window.records.length ≤ 8
  asked : s.window.asked.length ≤ 32 → t.window.asked.length ≤ 32
  history : s.pool.history.length ≤ 8 → t.pool.history.length ≤ 8
  gaps : s.pool.gaps.length ≤ 16 → t.pool.gaps.length ≤ 16
  adjustments : s.adjust.queue.length ≤ 4 → t.adjust.queue.length ≤ 4
  events : s.port.events.length ≤ 32 → t.port.events.length ≤ 32

theorem KeepsBounds.bounded {s t : State} (h : KeepsBounds s t) (hs : Bounded s) : Bounded t := by
  obtain ⟨queue, outbox, records, asked, history, gaps, adjustments, events⟩ := hs
  exact ⟨h.queue queue, h.outbox outbox, h.records records, h.asked asked, h.history history, h.gaps gaps,
    h.adjustments adjustments, h.events events⟩

theorem KeepsBounds.refl (s : State) : KeepsBounds s s := ⟨id, id, id, id, id, id, id, id⟩

/-- The lengths of the bounded buffers. -/
def State.sizes (s : State) : List Nat :=
  [s.line.queue.length, s.builder.outbox.length, s.window.records.length, s.window.asked.length, s.pool.history.length,
    s.pool.gaps.length, s.adjust.queue.length, s.port.events.length]

/-- Buffers that are as long as before keep their bounds. -/
theorem KeepsBounds.of_sizes {s t : State} (h : t.sizes = s.sizes) : KeepsBounds s t := by
  simp only [State.sizes, List.cons.injEq, and_true] at h
  obtain ⟨queue, outbox, records, asked, history, gaps, adjustments, events⟩ := h
  constructor <;> omega

theorem KeepsBounds.trans {a b c : State} (h : KeepsBounds a b) (k : KeepsBounds b c) : KeepsBounds a c where
  queue := k.queue ∘ h.queue
  outbox := k.outbox ∘ h.outbox
  records := k.records ∘ h.records
  asked := k.asked ∘ h.asked
  history := k.history ∘ h.history
  gaps := k.gaps ∘ h.gaps
  adjustments := k.adjustments ∘ h.adjustments
  events := k.events ∘ h.events

theorem KeepsBounds.foldl {α : Type} (f : State → α → State) (h : ∀ s a, KeepsBounds s (f s a)) (l : List α) (s : State) :
    KeepsBounds s (l.foldl f s) := by
  induction l generalizing s with
  | nil => exact .refl s
  | cons a t ih => exact (h s a).trans (ih _)

/-! ### Flags, agreement and drives -/

theorem State.raise_bounds (s : State) (b : Block) (k : EventKind) (u : Option Station) (v : BitVec 16) :
    KeepsBounds s (s.raise b k u v) := .of_sizes rfl

theorem State.setLife_bounds (s : State) (l : Life) (c : MuteCause) : KeepsBounds s (s.setLife l c) := .of_sizes rfl

theorem State.setAgreementFor_bounds (s : State) (u : Option Station) (a : Agreement) :
    KeepsBounds s (s.setAgreementFor u a) := by
  unfold State.setAgreementFor
  split
  · exact .refl s
  · exact .of_sizes rfl

theorem State.setAgreement_bounds (s : State) (a : Agreement) : KeepsBounds s (s.setAgreement a) :=
  s.setAgreementFor_bounds _ a

theorem State.loseClean_bounds (s : State) : KeepsBounds s s.loseClean := by
  have cleared : KeepsBounds s (s.setClean false) := .of_sizes rfl
  unfold State.loseClean
  split
  · exact cleared.trans (State.setAgreement_bounds _ _)
  · exact cleared

theorem State.refreshDrive_bounds (s : State) (ag : Agreement) (i : Fin 4) : KeepsBounds s (s.refreshDrive ag i) := by
  unfold State.refreshDrive
  dsimp only
  split <;> exact .of_sizes rfl

theorem State.refreshDrivesFor_bounds (s : State) (ag : Agreement) : KeepsBounds s (s.refreshDrivesFor ag) :=
  .foldl _ (fun s i => s.refreshDrive_bounds ag i) _ s

theorem State.refreshDrives_bounds (s : State) : KeepsBounds s s.refreshDrives := s.refreshDrivesFor_bounds _

theorem State.agree_bounds (s : State) (a : Agreement) : KeepsBounds s (s.agree a) :=
  (s.setAgreement_bounds a).trans (State.refreshDrives_bounds _)

theorem State.evaluateDrives_bounds (s : State) : KeepsBounds s s.evaluateDrives :=
  .of_sizes (by simp [State.sizes])

/-! ### Line and roster -/

theorem State.reportDiscarded_bounds (s : State) : KeepsBounds s s.reportDiscarded := by
  unfold State.reportDiscarded
  split
  · exact .refl s
  · exact .of_sizes rfl

theorem State.conflictFreeMark_bounds (s : State) : KeepsBounds s s.conflictFreeMark :=
  .of_sizes (by simp [State.sizes])

theorem State.offer_bounds (s : State) (k : QKey) (t : Option Station) (p : Option (List Pair)) :
    KeepsBounds s (s.offer k t p).1 := by
  refine ⟨s.offer_bound k t p, ?_, ?_, ?_, ?_, ?_, ?_, ?_⟩ <;> simp

theorem State.offerKey_bounds (s : State) (k : QKey) : KeepsBounds s (s.offerKey k) := s.offer_bounds k none none

theorem State.dropEntry_bounds (s : State) (k : QKey) : KeepsBounds s (s.dropEntry k) :=
  ⟨(List.length_filter_le _ _).trans, id, id, id, id, id, id, id⟩

theorem State.cutOff_bounds (s : State) : KeepsBounds s s.cutOff :=
  ⟨fun _ => Nat.zero_le _, id, id, id, id, id, id, id⟩

theorem State.setEntry_bounds (s : State) (n : Station) (e : RosterEntry) : KeepsBounds s (s.setEntry n e) := by
  unfold State.setEntry
  dsimp only
  split <;> exact .of_sizes rfl

theorem State.countMisses_bounds (s : State) : KeepsBounds s s.countMisses := by
  unfold State.countMisses
  split
  · exact .refl s
  · exact .foldl _ (fun s n => s.setEntry_bounds n _) _ s

theorem State.lapseJoins_bounds (s : State) : KeepsBounds s s.lapseJoins := .foldl _ (fun s n => s.setEntry_bounds n _) _ s

theorem State.chooseReference_bounds (s : State) : KeepsBounds s s.chooseReference := by
  unfold State.chooseReference
  dsimp only
  split
  · exact .refl s
  · split <;> exact .of_sizes rfl

/-! ### Builder -/

theorem State.withdrawAll_bounds (s : State) : KeepsBounds s s.withdrawAll :=
  ⟨id, (List.length_filter_le _ _).trans, id, id, id, id, id, id⟩

theorem State.clearDesignation_bounds (s : State) : KeepsBounds s s.clearDesignation :=
  ⟨id, (List.length_map _).le.trans, id, id, id, id, id, id⟩

theorem State.capture_bounds (s : State) (direct : Bool) : KeepsBounds s (s.capture direct) := by
  have placed : KeepsBounds s { s with
      builder := placeReport { s.builder with carry := s.captureCarry } (s.clock.cur - 1) s.captureDeltas direct
      channels := s.captureChannels } :=
    ⟨id, placeReport_length { s.builder with carry := s.captureCarry } _ _ _, id, id, id, id, id, id⟩
  unfold State.capture
  dsimp only
  split
  · exact placed
  · exact placed.trans (State.offerKey_bounds _ _)

/-! ### Folds -/

theorem State.addBalance_bounds (s : State) (p : Fin 8) (v : BitVec 32) : KeepsBounds s (s.addBalance p v) := by
  unfold State.addBalance
  dsimp only
  split
  · exact .of_sizes rfl
  · split <;> exact .of_sizes rfl

theorem State.addEach_bounds (l : List (BitVec 32)) (s : State) (i : Nat) : KeepsBounds s (s.addEach i l) := by
  induction l generalizing s i with
  | nil => exact .refl s
  | cons v t ih =>
    rw [State.addEach]
    refine KeepsBounds.trans ?_ (ih _ _)
    split
    · exact s.addBalance_bounds _ v
    · exact .refl s

theorem State.applyItem_bounds (s : State) (i : AdjItem) : KeepsBounds s (s.applyItem i) := by
  unfold State.applyItem
  split
  · split
    · exact .of_sizes rfl
    · exact s.addBalance_bounds _ _
  · exact .refl s

theorem State.applyItems_bounds (s : State) (a : Adjustment) : KeepsBounds s (s.applyItems a) :=
  .foldl _ State.applyItem_bounds _ s

theorem State.applyDue_bounds (s : State) (a : Adjustment) : KeepsBounds s (s.applyDue a) :=
  (s.applyItems_bounds a).trans (State.raise_bounds _ _ _ _ _)

theorem State.replayRecord_bounds (s : State) (r : Record) : KeepsBounds s (s.replayRecord r) :=
  (State.addEach_bounds _ s 0).trans (.foldl _ State.applyItems_bounds _ _)

theorem State.openGaps_bounds (s : State) (r : Record) : KeepsBounds s (s.openGaps r) := by
  have entered : KeepsBounds s { s with pool := { s.pool with gaps := (enterGaps s.pool.gaps 0 (s.gapsOf r)).1 } } :=
    ⟨id, id, id, id, id, enterGaps_length _ _ _, id, id⟩
  unfold State.openGaps
  dsimp only
  split
  · exact entered
  · exact (entered.trans (State.raise_bounds _ _ _ _ _)).trans (State.loseClean_bounds _)

theorem State.closeGap_bounds (s : State) (n : Station) (e : Epoch) : KeepsBounds s (s.closeGap n e) :=
  ⟨id, id, id, id, id, (List.length_filter_le _ _).trans, id, id⟩

theorem State.expireGaps_bounds (s : State) (e : Epoch) : KeepsBounds s (s.expireGaps e) := by
  have closed : KeepsBounds s { s with pool := { s.pool with gaps := s.pool.gaps.filter (fun g => g.epoch != e) } } :=
    ⟨id, id, id, id, id, (List.length_filter_le _ _).trans, id, id⟩
  unfold State.expireGaps
  dsimp only
  split
  · exact .refl s
  · exact (closed.trans (.foldl _ (fun s g => s.raise_bounds _ _ _ _) _ _)).trans (State.loseClean_bounds _)

theorem State.changeRecord_bounds (s : State) (e : Epoch) (f : Record → Record) : KeepsBounds s (s.changeRecord e f) :=
  ⟨id, id, (List.length_map _).le.trans, id, id, id, id, id⟩

theorem State.applyDueAt_bounds (s : State) (e : Epoch) : KeepsBounds s (s.applyDueAt e) := by
  have left : KeepsBounds s { s with adjust := { s.adjust with
      queue := s.adjust.queue.filter (fun a => a.effective != e) } } :=
    ⟨id, id, id, id, id, id, (List.length_filter_le _ _).trans, id⟩
  exact (left.trans (.foldl _ State.applyDue_bounds _ _)).trans (State.changeRecord_bounds _ _ _)

theorem State.foldRecord_bounds (s : State) (r : Record) : KeepsBounds s (s.foldRecord r) :=
  (((State.addEach_bounds r.sums s 0).trans (State.openGaps_bounds _ r)).trans (State.applyDueAt_bounds _ r.epoch)).trans
    (State.changeRecord_bounds _ _ _)

/-- Records changed one by one are as many as before. -/
theorem State.mapRecords_bounds (s : State) (f : Record → Record) :
    KeepsBounds s { s with window := { s.window with records := s.window.records.map f } } :=
  ⟨id, id, (List.length_map _).le.trans, id, id, id, id, id⟩

theorem State.lateFold_bounds (s : State) (skip : Option Epoch) : KeepsBounds s (s.lateFold skip) :=
  (KeepsBounds.foldl _ (fun (s : State) (r : Record) => State.addEach_bounds r.late s 0) _ s).trans
    (State.mapRecords_bounds _ _)

theorem State.recordDigest_bounds (s : State) (e : Epoch) : KeepsBounds s (s.recordDigest e) := by
  refine ⟨id, id, id, id, fun h => ?_, id, id, id⟩
  simp only [State.recordDigest, List.length_append, List.length_singleton]
  split
  · omega
  · rw [List.length_tail]; omega

theorem State.foldAtMark_bounds (s : State) : KeepsBounds s s.foldAtMark := by
  unfold State.foldAtMark
  dsimp only
  split
  · split
    · exact s.lateFold_bounds _
    · exact ((s.foldRecord_bounds _).trans (State.lateFold_bounds _ _)).trans (State.recordDigest_bounds _ _)
  · exact s.lateFold_bounds _

theorem State.age_bounds (s : State) : KeepsBounds s s.age := by
  unfold State.age
  split
  · exact .refl s
  · split
    · exact .refl s
    · refine KeepsBounds.trans (b := { s with window := { s.window with records := s.window.records.dropLast } }) ?_
        (State.expireGaps_bounds _ _)
      exact ⟨id, id, fun h => by simp only [List.length_dropLast]; omega, id, id, id, id, id⟩

/-- Ageing leaves room for the record a mark creates (R73). -/
theorem State.age_makes_room (s : State) (h : s.window.records.length ≤ 8) : s.age.window.records.length ≤ 7 := by
  unfold State.age
  split
  · omega
  · split
    next none =>
      have : s.window.records = [] := List.getLast?_eq_none_iff.mp none
      simp [this]
    next => simp only [State.expireGaps_frame, List.length_dropLast]; omega

theorem State.windowMark_bounds (s : State) (inRun : Bool) : KeepsBounds s (s.windowMark inRun) := by
  have aged := s.foldAtMark_bounds.trans (State.age_bounds _)
  exact { aged with
    records := fun h => Nat.succ_le_succ (s.foldAtMark.age_makes_room (s.foldAtMark_bounds.records h))
    asked := fun _ => Nat.zero_le _ }

theorem State.emergencyFold_bounds (s : State) : KeepsBounds s s.emergencyFold := by
  have added := (KeepsBounds.foldl _ (fun (s : State) (r : Record) => State.addEach_bounds r.sums s 0)
    (s.window.records.reverse.filter (fun r => r.state != .folded)) s).trans
    (.foldl _ (fun (s : State) (r : Record) => State.addEach_bounds r.late s 0)
      (s.window.records.reverse.filter (fun r => r.state == .folded)) _)
  exact { added with records := fun _ => Nat.zero_le _, asked := fun _ => Nat.zero_le _ }

theorem State.install_bounds (s : State) (h : HeldSnapshot) : KeepsBounds s (s.install h) := by
  have set : KeepsBounds s { s with pool := { s.pool with
      table := setBalances s.pool.table 0 (h.balances.take s.ctl.profile.pools) } } := .of_sizes rfl
  have base := (set.trans (.foldl _ State.replayRecord_bounds (s.replayed h.point) _)).trans
    (State.mapRecords_bounds _ (fun r => { r with late := r.late.map (fun _ => 0) }))
  have begun (x : State) (g : Gap → Bool) : KeepsBounds x { x with pool := { x.pool with
      gaps := x.pool.gaps.filter g, clean := true, history := [] } } :=
    ⟨id, id, id, id, fun _ => Nat.zero_le _, (List.length_filter_le _ _).trans, id, id⟩
  have ended (x : State) : KeepsBounds x { x.setAgreement .agreed with pool := { (x.setAgreement .agreed).pool with
      target := none, held := none, wait := 0, holdBack := 0, noComparison := 0 } } :=
    (x.setAgreement_bounds .agreed).trans (.of_sizes rfl)
  unfold State.install
  dsimp only
  split
  · exact (base.trans (begun _ _)).trans (ended _)
  · exact ((base.trans (begun _ _)).trans (State.recordDigest_bounds _ _)).trans (ended _)

theorem State.installHeld_bounds (s : State) (b : Bool) : KeepsBounds s (s.installHeld b) := by
  unfold State.installHeld
  split
  · exact .refl s
  · split
    · exact s.install_bounds _
    · split <;> exact .of_sizes rfl

theorem State.takeReport_bounds (s : State) (n : Station) (e : Epoch) (d : List (BitVec 16)) :
    KeepsBounds s (s.takeReport n e d) := by
  unfold State.takeReport
  split
  · exact .refl s
  · dsimp only
    split
    · exact (s.changeRecord_bounds _ _).trans (State.closeGap_bounds _ _ _)
    · exact s.changeRecord_bounds _ _

end Sys2Proof.Machine
end


section
/-! Every step keeps every buffer within its bound: marks, the slot-phase end, changes of life and the receiver. -/

namespace Sys2Proof.Machine

theorem Raised.events {s t : State} (h : Raised s t) : t.port.events = s.port.events := by
  obtain ⟨l, hl⟩ := h; rw [hl]

/-! ### Marks -/

theorem State.countMark_bounds (s : State) : KeepsBounds s s.countMark := by
  unfold State.countMark
  split
  · exact .of_sizes rfl
  · split
    · split <;> exact .of_sizes rfl
    · exact .refl s

theorem State.joinerRuns_bounds (s : State) (b : Bool) : KeepsBounds s (s.joinerRuns b) := by
  unfold State.joinerRuns
  split
  · exact .of_sizes rfl
  · exact .refl s

theorem State.controllerMark_bounds (s : State) (b : Bool) : KeepsBounds s (s.controllerMark b) :=
  .of_sizes (by simp [State.sizes])

theorem State.driveMark_bounds (s : State) (ag : Agreement) : KeepsBounds s (s.driveMark ag) := by
  have drawn : KeepsBounds s s.draw := .of_sizes rfl
  have evaluated (x : State) : KeepsBounds x (x.refreshDrives.evaluateDrives.refreshDrives) :=
    (x.refreshDrives_bounds.trans (State.evaluateDrives_bounds _)).trans (State.refreshDrives_bounds _)
  unfold State.driveMark
  split
  · exact ((drawn.trans (State.evaluateDrives_bounds _)).trans (State.refreshDrivesFor_bounds _ _)).trans
      (State.refreshDrives_bounds _)
  · split
    · exact drawn.trans (evaluated _)
    · exact evaluated s

theorem State.takeMark_bounds (s : State) (direct : Bool) : KeepsBounds s (s.takeMark direct) := by
  have counted := s.reportDiscarded_bounds.trans (State.conflictFreeMark_bounds _)
  have dropped (x : State) : KeepsBounds x x.dropHeld := .of_sizes rfl
  have responses (x : State) (i b : Bool) : KeepsBounds x ((x.windowMark b).countMark.installHeld i) :=
    ((x.windowMark_bounds b).trans (State.countMark_bounds _)).trans (State.installHeld_bounds _ i)
  have captured (x : State) (i : Bool) (ag : Agreement) :
      KeepsBounds x (((x.capture direct).controllerMark i).driveMark ag) :=
    ((x.capture_bounds direct).trans (State.controllerMark_bounds _ i)).trans (State.driveMark_bounds _ ag)
  by_cases hr : s.ctl.life = .run
  · rw [s.takeMark_run direct hr]
    exact (counted.trans (responses _ _ _)).trans (captured _ _ _)
  · by_cases hi : s.installing = true
    · rw [s.takeMark_enters direct hi]
      exact ((counted.trans (State.joinerRuns_bounds _ _)).trans (responses _ _ _)).trans (captured _ _ _)
    · rw [s.takeMark_stays direct hr (by simpa using hi)]
      refine (KeepsBounds.trans ?_ (responses _ _ _)).trans (State.controllerMark_bounds _ _)
      split
      · exact counted.trans (dropped _)
      · exact counted

theorem State.beginEpoch_bounds (s : State) (x : Epoch) (p : Option Station) (o : Instant) (n : Nat) :
    KeepsBounds s (s.beginEpoch x p o n) := .of_sizes rfl

theorem State.reloadInRun_bounds (s : State) (t : Instant) : KeepsBounds s (s.reloadInRun t) :=
  .of_sizes (by simp [State.sizes])

/-- An epoch begins and its mark is taken. -/
theorem State.markedEpoch_bounds (s : State) (x : Epoch) (p : Option Station) (o t : Instant) (n : Nat) (direct : Bool) :
    KeepsBounds s (((s.beginEpoch x p o n).reloadInRun t).takeMark direct) :=
  ((s.beginEpoch_bounds x p o n).trans (State.reloadInRun_bounds _ t)).trans (State.takeMark_bounds _ direct)

theorem State.discontinuityResponses_bounds (s : State) : KeepsBounds s s.discontinuityResponses := by
  have folded : KeepsBounds s (s.reportDiscarded.conflictFreeMark.dropEntry .request).emergencyFold.withdrawAll :=
    (((s.reportDiscarded_bounds.trans (State.conflictFreeMark_bounds _)).trans (State.dropEntry_bounds _ _)).trans
      (State.emergencyFold_bounds _)).trans (State.withdrawAll_bounds _)
  have cleared (x : State) (n : Nat) : KeepsBounds x { x with
      pool := x.pool.discontinued n, adjust := { x.adjust with queue := [] }, builder := { x.builder with outbox := [] } } :=
    ⟨id, fun _ => Nat.zero_le _, id, id, fun _ => Nat.zero_le _, fun _ => Nat.zero_le _, fun _ => Nat.zero_le _, id⟩
  have retargeted (x : State) (n : Option Station) : KeepsBounds x { x with pool := { x.pool with target := n } } := .of_sizes rfl
  have waited (x : State) : KeepsBounds x { x with ctl := { x.ctl with joinWait := 0, joinAttempts := 0 } }.reloadSilence :=
    .of_sizes rfl
  unfold State.discontinuityResponses
  dsimp only
  split
  · exact ((folded.trans (cleared _ _)).trans (retargeted _ _)).trans (State.agree_bounds _ _)
  · split
    · exact (folded.trans (cleared _ _)).trans (waited _)
    · exact folded.trans (cleared _ _)

theorem State.takeDiscontinuity_bounds (s : State) (x : Epoch) (n : Station) : KeepsBounds s (s.takeDiscontinuity x n) :=
  (((s.beginEpoch_bounds x (some n) s.now 0).trans (State.reloadInRun_bounds _ _)).trans (State.raise_bounds _ _ _ _ _)).trans
    (State.discontinuityResponses_bounds _)

/-! ### The slot-phase end -/

theorem State.offerResends_bounds (l : List OutEntry) (s : State) : KeepsBounds s (s.offerResends l) := by
  induction l generalizing s with
  | nil => exact .refl s
  | cons e t ih =>
    rw [State.offerResends]
    split
    · exact (s.offer_bounds _ _ _).trans (ih _)
    · exact s.offer_bounds _ _ _

theorem State.offerPairs_bounds (s : State) : KeepsBounds s s.offerPairs := by
  unfold State.offerPairs
  split
  · exact .refl s
  · exact s.offer_bounds _ _ _

theorem State.offerSnapshotPart_bounds (s : State) : KeepsBounds s s.offerSnapshotPart.1 := by
  unfold State.offerSnapshotPart
  split
  · exact .refl s
  · split
    · exact s.offer_bounds _ _ _
    · exact .refl s

theorem State.requestSnapshot_bounds (s : State) : KeepsBounds s s.requestSnapshot := by
  unfold State.requestSnapshot
  dsimp only
  split
  · refine .trans ?_ (State.agree_bounds _ _)
    exact s.offerSnapshotPart_bounds.trans (.of_sizes rfl)
  · exact s.offerSnapshotPart_bounds

theorem State.compareWith_bounds (s : State) (h : HistEntry) (d : Digest) (c : Bool) :
    KeepsBounds s (s.compareWith h d c) := by
  unfold State.compareWith
  dsimp only
  split
  · refine .trans ?_ (State.agree_bounds _ _)
    exact .of_sizes rfl
  · split
    · exact .refl s
    · split
      · refine .trans ?_ (State.requestSnapshot_bounds _)
        have start : KeepsBounds s { s with pool := { s.pool with noComparison := 0 } } := .of_sizes rfl
        have diverged := start.trans (State.agree_bounds _ .diverged)
        generalize State.agree _ _ = t at diverged ⊢
        refine .trans diverged ?_
        exact .of_sizes rfl
      · exact .of_sizes rfl

theorem State.compare_bounds (s : State) (f : ReportFrame) : KeepsBounds s (s.compare f) := by
  unfold State.compare
  split
  · split
    · exact .refl s
    · split
      · exact .refl s
      · exact s.compareWith_bounds _ _ _
  · exact .refl s

theorem State.selfReference_bounds (s : State) : KeepsBounds s s.selfReference := by
  unfold State.selfReference
  dsimp only
  split
  · refine .trans ?_ (State.agree_bounds _ _)
    exact .of_sizes rfl
  · split
    · refine .trans ?_ (State.raise_bounds _ _ _ _ _)
      refine .trans ?_ (State.agree_bounds _ _)
      have start : KeepsBounds s { s with pool := { s.pool with
        target := none, held := none, uncleanSelf := s.pool.uncleanSelf + 1 } } := .of_sizes rfl
      have uncertain := start.trans (State.agree_bounds _ .uncertain)
      generalize State.agree _ _ = t at uncertain ⊢
      refine .trans uncertain ?_
      exact .of_sizes rfl
    · refine .trans ?_ (State.agree_bounds _ _)
      exact .of_sizes rfl

theorem State.countNoComparison_bounds (s : State) : KeepsBounds s s.countNoComparison := by
  unfold State.countNoComparison
  dsimp only
  split
  · refine .trans ?_ (State.offerSnapshotPart_bounds _)
    refine .trans ?_ (State.agree_bounds _ _)
    exact .of_sizes rfl
  · exact .of_sizes rfl

theorem State.poolPhaseEnd_bounds (s : State) : KeepsBounds s s.poolPhaseEnd := by
  have start : KeepsBounds s { s with pool := { s.pool with uncleanSelf := 0 } } := .of_sizes rfl
  unfold State.poolPhaseEnd
  dsimp only
  split
  · exact s.selfReference_bounds
  · split
    · exact start.trans (State.countNoComparison_bounds _)
    · exact start.trans (State.requestSnapshot_bounds _)
    · split
      · exact start.trans (State.offerSnapshotPart_bounds _)
      · exact start
    · exact start
    · exact start

theorem State.offerAdjust_bounds (s : State) : KeepsBounds s s.offerAdjust := by
  unfold State.offerAdjust
  split
  · exact .refl s
  · split
    · exact s.offerKey_bounds _
    · exact .refl s

theorem State.phaseOffers_bounds (s : State) : KeepsBounds s s.phaseOffers := by
  have offered := ((((State.offerResends_bounds (s.builder.outbox.filter (fun e => !e.transmitted)) s).trans
    (State.offerPairs_bounds _)).trans (State.poolPhaseEnd_bounds _)).trans (State.offerAdjust_bounds _))
  unfold State.phaseOffers
  dsimp only
  split
  · exact offered.trans (State.offerKey_bounds _ _)
  · exact offered

/-! ### Changes of life -/

theorem State.enterFrozen_bounds (s : State) (l : Life) (c : MuteCause) : KeepsBounds s (s.enterFrozen l c) := by
  obtain ⟨-, -, line, builder, pool⟩ := s.enterFrozen_fields l c
  have withdrawn := s.withdrawAll_bounds.trans (State.clearDesignation_bounds _)
  refine ⟨?_, ?_, ?_, ?_, ?_, ?_, ?_, ?_⟩
  · simp [line]
  · rw [builder]; exact withdrawn.outbox
  · simp
  · simp
  · simp [pool, Pool.frozen]
  · simp [pool, Pool.frozen]
  · simp
  · simp [(s.enterFrozen_raised l c).events]

theorem State.countConflict_bounds (s : State) : KeepsBounds s s.countConflict := by
  have counted : KeepsBounds s s.conflictCounted := .trans (b := { s with roster := { s.roster with
    conflicts := s.roster.conflicts + 1, conflictFree := 0 } }) (.of_sizes rfl) (State.raise_bounds _ _ _ _ _)
  rw [s.countConflict_eq]
  split
  · exact counted.trans (State.enterFrozen_bounds _ _ _)
  · exact counted

theorem State.restartPath_bounds (s : State) : KeepsBounds s s.restartPath := by
  obtain ⟨-, -, -, line, -, builder, window, pool, adjust, -, -, -, -⟩ := s.restartListens_fields
  refine ⟨?_, ?_, ?_, ?_, ?_, ?_, ?_, ?_⟩
  · simp [s.restartPath_eq, line]
  · simp [s.restartPath_eq, builder]
  · simp [s.restartPath_eq, window, Window.reset]
  · simp [s.restartPath_eq, window, Window.reset]
  · simp [s.restartPath_eq, pool, Pool.reset]
  · simp [s.restartPath_eq, pool, Pool.reset]
  · simp [s.restartPath_eq, adjust]
  · simp [s.restartPath_raised.events]

theorem State.leaveConfig_bounds (s : State) : KeepsBounds s s.leaveConfig := by
  unfold State.leaveConfig
  refine .trans ?_ (State.refreshDrives_bounds _)
  exact .of_sizes rfl

theorem State.found_bounds (s : State) : KeepsBounds s s.found := by
  have blocks (x : State) : KeepsBounds x x.foundBlocks := by
    unfold State.foundBlocks
    refine .trans ?_ (State.refreshDrives_bounds _)
    refine .trans ?_ (State.setAgreement_bounds _ _)
    exact .of_sizes rfl
  have clock (x : State) : KeepsBounds x x.foundClock := .of_sizes rfl
  have drawn : KeepsBounds s s.draw := .of_sizes rfl
  unfold State.found
  split
  · exact (drawn.trans (blocks _)).trans (clock _)
  · exact (drawn.trans (clock _)).trans (blocks _)

theorem State.enterJoining_bounds (s : State) : KeepsBounds s s.enterJoining := by
  unfold State.enterJoining
  refine .trans ?_ (State.refreshDrives_bounds _)
  exact .of_sizes rfl

theorem State.phaseEnd_bounds (s : State) : KeepsBounds s s.phaseEnd := by
  have begun : KeepsBounds s s.phaseBegun := by
    unfold State.phaseBegun State.linePhaseEnd
    exact ⟨(List.length_filter_le _ _).trans, id, id, id, id, id, id, id⟩
  have roster : KeepsBounds s s.phaseBegun.phaseRoster :=
    ((begun.trans (State.countMisses_bounds _)).trans (State.lapseJoins_bounds _)).trans (State.chooseReference_bounds _)
  cases h : s.ctl.life with
  | config => rw [State.phaseEnd, h]; exact begun
  | mute => rw [State.phaseEnd, h]; exact begun
  | quiet => rw [State.phaseEnd, h]; exact begun
  | listen => rw [s.phaseEnd_listen h]; exact begun.trans (State.lapseJoins_bounds _)
  | joining =>
    obtain ⟨unanswered, due, idle⟩ := s.phaseEnd_joining h
    by_cases hu : s.phaseBegun.phaseRoster.joinUnanswered
    · rw [unanswered hu]; exact roster.trans (State.enterFrozen_bounds _ _ _)
    · by_cases hd : s.phaseBegun.phaseRoster.joinDue
      · rw [due hu hd]; exact roster.trans (State.offerKey_bounds _ _)
      · rw [idle hu hd]; exact roster
  | run => rw [s.phaseEnd_run h]; exact roster.trans (State.phaseOffers_bounds _)

end Sys2Proof.Machine
end


section
/-! Every step keeps every buffer within its bound: the receiver, timers, transmitter, pins and service port, and the obligation
about it. -/

namespace Sys2Proof.Machine

/-! ### The receiver -/

theorem State.lineIdle_bounds (s : State) (t : Instant) : KeepsBounds s (s.lineIdle t) := .of_sizes rfl

theorem State.countDiscarded_bounds (s : State) : KeepsBounds s s.countDiscarded := .of_sizes rfl

theorem State.frameIn_bounds (s : State) (f : Frame) (blocks : Bool → State → State)
    (h : ∀ b x, KeepsBounds x (blocks b x)) : KeepsBounds s (s.frameIn f blocks) := by
  unfold State.frameIn
  split
  · split
    · exact (s.lineIdle_bounds _).trans (h _ _)
    · exact (s.lineIdle_bounds s.now).trans (State.countDiscarded_bounds _)
  · exact .refl s

theorem State.ownNumber_bounds (s : State) (n : Station) (overlap : Bool) : KeepsBounds s (s.ownNumber n overlap) := by
  unfold State.ownNumber
  split
  · exact s.countConflict_bounds
  · exact .refl s

theorem State.listenClock_bounds (s : State) (f : MarkFrame) : KeepsBounds s (s.listenClock f) :=
  ((s.beginEpoch_bounds f.epoch (some f.sender) s.now 0).trans (State.reportDiscarded_bounds _)).trans
    (State.conflictFreeMark_bounds _)

theorem State.listenMap_bounds (s : State) (f : MarkFrame) : KeepsBounds s (s.listenMap f) := by
  unfold State.listenMap
  dsimp only
  split
  · exact (s.raise_bounds _ _ _ _).trans (State.enterFrozen_bounds _ _ _)
  · split
    · refine .trans ?_ (State.enterJoining_bounds _)
      exact .of_sizes rfl
    · exact .of_sizes rfl

theorem State.continuity_bounds (s : State) (f : MarkFrame) : KeepsBounds s (s.continuity f) := by
  unfold State.continuity
  split
  · exact s.markedEpoch_bounds _ _ _ _ _ _
  · split
    · exact .refl s
    · split
      · exact s.takeDiscontinuity_bounds _ _
      · exact s.raise_bounds _ _ _ _

theorem State.countMismatched_bounds (s : State) : KeepsBounds s s.countMismatched := .of_sizes rfl

theorem State.clockMark_bounds (s : State) (f : MarkFrame) : KeepsBounds s (s.clockMark f) := by
  unfold State.clockMark
  split
  · exact .refl s
  · exact .refl s
  · exact .refl s
  · split
    · exact (s.listenClock_bounds f).trans (State.listenMap_bounds _ f)
    · exact KeepsBounds.trans (s.raise_bounds .clock .profileConflict (some f.sender) f.digest) (State.countMismatched_bounds _)
  · split
    · exact s.continuity_bounds f
    · exact s.raise_bounds _ _ _ _
  · split
    · split
      · unfold State.probationMark
        split
        · exact s.raise_bounds _ _ _ _
        · exact s.restartPath_bounds
      · exact s.continuity_bounds f
    · exact s.raise_bounds _ _ _ _

theorem State.ownNumberMark_bounds (s : State) (f : MarkFrame) : KeepsBounds s (s.ownNumberMark f) := by
  have drawn : KeepsBounds s s.draw := .of_sizes rfl
  unfold State.ownNumberMark
  dsimp only
  split
  · exact (drawn.trans (State.countConflict_bounds _)).trans (State.clockMark_bounds _ f)
  · split
    · have listened := (drawn.trans (State.listenClock_bounds _ f)).trans (State.countConflict_bounds _)
      split
      · exact listened.trans (State.listenMap_bounds _ f)
      · exact listened
    · exact (drawn.trans (State.clockMark_bounds _ f)).trans (State.countConflict_bounds _)

theorem State.markIn_bounds (s : State) (f : MarkFrame) (overlap : Bool) : KeepsBounds s (s.markIn f overlap) := by
  unfold State.markIn
  split
  · exact s.enterFrozen_bounds _ _
  · split
    · exact s.ownNumberMark_bounds f
    · exact s.clockMark_bounds f

theorem State.rosterReport_bounds (s : State) (f : ReportFrame) : KeepsBounds s (s.rosterReport f) := by
  unfold State.rosterReport
  split
  · exact .refl s
  · exact s.setEntry_bounds _ _

theorem State.windowTake_bounds (s : State) (f : ReportFrame) : KeepsBounds s (s.windowTake f) := by
  unfold State.windowTake
  split
  · exact s.takeReport_bounds _ _ _
  · exact .refl s

theorem State.windowReport_bounds (s : State) (f : ReportFrame) : KeepsBounds s (s.windowReport f) := by
  unfold State.windowReport
  split
  · split
    · exact .refl s
    · split
      · exact (s.markedEpoch_bounds _ _ _ _ _ _).trans (State.windowTake_bounds _ f)
      · exact s.windowTake_bounds f
  · exact .refl s

theorem State.impliedPhaseEnd_bounds (s : State) (f : ReportFrame) : KeepsBounds s (s.impliedPhaseEnd f) := by
  have drawn : KeepsBounds s s.draw := .of_sizes rfl
  unfold State.impliedPhaseEnd
  dsimp only
  split
  · have ended := drawn.trans (State.phaseEnd_bounds _)
    split
    · exact (ended.trans (State.rosterReport_bounds _ f)).trans (State.windowTake_bounds _ f)
    · exact ended
  · exact (drawn.trans (State.windowTake_bounds _ f)).trans (State.phaseEnd_bounds _)

theorem State.windowResend_bounds (s : State) (f : ReportFrame) : KeepsBounds s (s.windowResend f) := by
  unfold State.windowResend
  split
  · split
    · exact .refl s
    · split
      · exact (s.markedEpoch_bounds _ _ _ _ _ _).trans (State.impliedPhaseEnd_bounds _ f)
      · exact s.windowTake_bounds f
  · exact .refl s

theorem State.reportIn_bounds (s : State) (f : ReportFrame) (overlap : Bool) (window : State → State)
    (h : ∀ x, KeepsBounds x (window x)) : KeepsBounds s (s.reportIn f overlap window) := by
  unfold State.reportIn
  dsimp only
  split
  · exact s.enterFrozen_bounds _ _
  · have numbered := s.ownNumber_bounds f.sender overlap
    split
    · exact ((numbered.trans (State.rosterReport_bounds _ f)).trans (State.compare_bounds _ f)).trans (h _)
    · exact numbered

theorem State.requestIn_bounds (s : State) (f : RequestFrame) (overlap : Bool) : KeepsBounds s (s.requestIn f overlap) := by
  have numbered := s.ownNumber_bounds f.sender overlap
  have answered (x : State) : KeepsBounds x (x.answerPairs f.pairs) := .foldl _ (fun s p => s.offerKey_bounds _) _ x
  have asked (x : State) : KeepsBounds x { x with window := { x.window with asked := addAsked x.window.asked f.pairs } } :=
    ⟨id, id, id, addAsked_length _ _, id, id, id, id⟩
  have targeted (x : State) : KeepsBounds x (x.answerTarget f.target) := by
    unfold State.answerTarget
    split
    · exact x.offerKey_bounds _
    · exact .refl x
  unfold State.requestIn
  dsimp only
  split
  · exact ((numbered.trans (answered _)).trans (asked _)).trans (targeted _)
  · exact numbered

theorem State.snapshotIn_bounds (s : State) (f : SnapshotFrame) (overlap : Bool) : KeepsBounds s (s.snapshotIn f overlap) := by
  have held (x : State) : KeepsBounds x (x.holdSnapshot f) := by
    unfold State.holdSnapshot
    dsimp only
    split
    · exact .of_sizes rfl
    · split
      · exact .of_sizes rfl
      · exact .refl x
  unfold State.snapshotIn
  dsimp only
  split
  · exact (s.ownNumber_bounds _ _).trans (held _)
  · exact s.ownNumber_bounds _ _

/-- An adjustment is queued only where the queue holds fewer than four (R101). -/
theorem State.judgeAdjust_bounds (s : State) (f : AdjustFrame) : KeepsBounds s (s.judgeAdjust f) := by
  have refused (r : RefusalReason) : KeepsBounds s (s.refuseAdjust f r) :=
    (s.loseClean_bounds.trans (State.refreshDrives_bounds _)).trans (State.raise_bounds _ _ _ _ _)
  unfold State.judgeAdjust
  dsimp only
  split
  · exact .refl s
  split
  · exact .refl s
  split
  · exact .refl s
  split
  · exact .refl s
  split
  · exact refused _
  split
  · exact refused _
  split
  · exact refused _
  next room =>
    have queued (a : Adjustment) : (insertAdj s.adjust.queue a).length ≤ 4 := by rw [insertAdj_length]; omega
    exact ⟨id, id, id, id, id, id, fun _ => queued _, id⟩

theorem State.adjustIn_bounds (s : State) (f : AdjustFrame) (overlap : Bool) : KeepsBounds s (s.adjustIn f overlap) := by
  unfold State.adjustIn
  dsimp only
  split
  · exact (s.ownNumber_bounds _ _).trans (State.judgeAdjust_bounds _ f)
  · exact s.ownNumber_bounds _ _

theorem State.joinIn_bounds (s : State) (f : JoinFrame) (overlap : Bool) : KeepsBounds s (s.joinIn f overlap) := by
  have numbered := s.ownNumber_bounds f.sender overlap
  have entered (x : State) : KeepsBounds x (if f.sender = x.own then x
      else x.setEntry f.sender ((x.entry f.sender).joined x.clock.cur)) := by
    split
    · exact .refl x
    · exact x.setEntry_bounds _ _
  have offered (x : State) (c : Prop) [Decidable c] : KeepsBounds x (if c then x.offerKey .snapshot else x) := by
    split
    · exact x.offerKey_bounds _
    · exact .refl x
  unfold State.joinIn
  dsimp only
  by_cases hl : (s.ownNumber f.sender overlap).listening = true
  · rw [if_pos hl]
    exact (numbered.trans (entered _)).trans (offered _ _)
  · rw [if_neg hl]
    exact numbered

theorem State.leaveIn_bounds (s : State) (f : LeaveFrame) (overlap : Bool) : KeepsBounds s (s.leaveIn f overlap) := by
  have numbered := s.ownNumber_bounds f.sender overlap
  unfold State.leaveIn
  dsimp only
  split
  · exact (numbered.trans (State.setEntry_bounds _ _ _)).trans (State.mapRecords_bounds _ _)
  · exact numbered

theorem State.discardFrame_bounds (s : State) (bytes : List Byte) : KeepsBounds s (s.discardFrame bytes) := by
  unfold State.discardFrame
  split
  · exact .of_sizes rfl
  · exact .refl s

theorem State.abandonFrame_bounds (s : State) : KeepsBounds s s.abandonFrame := by
  unfold State.abandonFrame
  dsimp only
  split
  · exact .of_sizes rfl
  · exact .refl s

theorem State.abandonedEnd_bounds (s : State) : KeepsBounds s s.abandonedEnd := by
  unfold State.abandonedEnd
  split
  · exact .of_sizes rfl
  · exact .refl s

theorem State.glitched_bounds (s : State) : KeepsBounds s s.glitched := by
  unfold State.glitched
  split
  · split
    · exact .of_sizes rfl
    · exact .refl s
  all_goals exact .refl s

/-! ### Timers -/

theorem State.until_bounds (s : State) (t : Instant) : KeepsBounds s (s.until t) := .of_sizes rfl

theorem State.autoExpiry_bounds (s : State) : KeepsBounds s s.autoExpiry := by
  unfold State.autoExpiry
  split
  · exact .refl s
  · split
    · split
      · exact (s.until_bounds _).trans (State.leaveConfig_bounds _)
      · exact .of_sizes rfl
    · exact .refl s

theorem State.listenExpiry_bounds (s : State) : KeepsBounds s s.listenExpiry := by
  have decided (x : State) : KeepsBounds x x.listenDecision := by
    unfold State.listenDecision
    split
    · split
      · exact x.found_bounds
      · exact x.enterFrozen_bounds _ _
    · exact .of_sizes rfl
  unfold State.listenExpiry
  split
  · exact .refl s
  · split
    · exact (s.until_bounds _).trans (decided _)
    · exact .refl s

theorem State.silenceExpiry_bounds (s : State) : KeepsBounds s s.silenceExpiry := by
  unfold State.silenceExpiry
  split
  · exact .refl s
  · split
    · exact (s.until_bounds _).trans (State.restartPath_bounds _)
    · exact .refl s

theorem State.markExpiry_bounds (s : State) : KeepsBounds s s.markExpiry := by
  unfold State.markExpiry
  split
  · split
    · exact .of_sizes rfl
    · exact .refl s
  all_goals exact .refl s

theorem State.nextSlot_bounds (s : State) : KeepsBounds s s.nextSlot := by
  have handed (x : State) : KeepsBounds x x.handOver := by
    unfold State.handOver
    split
    · exact .refl x
    · split
      · exact .refl x
      · exact x.clearDesignation_bounds.trans (.of_sizes rfl)
  have started (t : Instant) (n : Nat) : KeepsBounds s { s.until t with clock := { s.clock with slotCount := n } } := .of_sizes rfl
  unfold State.nextSlot
  dsimp only
  split
  · exact .refl s
  · split
    · split
      · exact (started _ _).trans (handed _)
      · exact started _ _
    · exact .refl s

theorem State.slotsOver_bounds (s : State) : KeepsBounds s s.slotsOver := by
  unfold State.slotsOver
  split
  · exact .refl s
  · split
    · exact (s.until_bounds _).trans (State.phaseEnd_bounds _)
    · exact .refl s

theorem State.leaveDeadline_bounds (s : State) : KeepsBounds s s.leaveDeadline := by
  unfold State.leaveDeadline
  split
  · exact .refl s
  · split
    · exact (s.until_bounds _).trans (State.enterFrozen_bounds _ _ _)
    · exact .refl s

/-! ### The transmitter -/

theorem State.markBegins_bounds (s : State) : KeepsBounds s s.markBegins := by
  unfold State.markBegins
  split
  · split
    · exact .of_sizes rfl
    · exact .refl s
  all_goals exact .refl s

theorem State.slotReportBegins_bounds (s : State) : KeepsBounds s s.slotReportBegins := by
  unfold State.slotReportBegins
  split
  · dsimp only
    split
    · exact .of_sizes rfl
    · exact .refl s
  · exact .refl s

theorem State.slotMissed_bounds (s : State) : KeepsBounds s s.slotMissed := by
  unfold State.slotMissed
  split
  · split
    · dsimp only
      refine .trans ?_ (State.offerKey_bounds _ _)
      exact .of_sizes rfl
    · exact .refl s
  · exact .refl s

/-- Taking the queue adds no entry to it (R33). -/
theorem State.takeQueue_length (s : State) (latest : Instant) (q : List QEntry) :
    (s.takeQueue latest q).1.length ≤ q.length := (s.takeQueue_sublist latest q).length_le

theorem State.gapComplete_bounds (s : State) : KeepsBounds s s.gapComplete := by
  unfold State.gapComplete
  split
  · split
    · dsimp only
      split
      · exact ⟨(State.takeQueue_length _ _ _).trans, id, id, id, id, id, id, id⟩
      · exact ⟨(State.takeQueue_length _ _ _).trans, id, id, id, id, id, id, id⟩
    · exact .refl s
  · exact .refl s

theorem State.frameOut_bounds (s : State) (t : Tx) : KeepsBounds s (s.frameOut t) := .of_sizes rfl

theorem State.whenSent_bounds (s : State) (key : QKey) (f : State → State) (h : ∀ x, KeepsBounds x (f x)) :
    KeepsBounds s (s.whenSent key f) := by
  have out (t : Tx) : KeepsBounds s (s.queueFrameOut t key) := by
    unfold State.queueFrameOut
    split
    · exact s.frameOut_bounds t
    · exact (s.frameOut_bounds t).trans (State.dropEntry_bounds _ _)
  unfold State.whenSent
  split
  · exact .refl s
  · split
    · exact (out _).trans (h _)
    · exact .refl s

theorem State.ownMark_bounds (s : State) : KeepsBounds s s.ownMark := by
  have taken (x : State) (t : Instant) : KeepsBounds x (x.reloadMarkTimer t) := .of_sizes rfl
  have probation (x : State) (n : Nat) : KeepsBounds x { x with clock := { x.clock with probation := n } } := .of_sizes rfl
  unfold State.ownMark
  dsimp only
  split
  · exact .refl s
  · split
    · exact (((((s.frameOut_bounds _).trans (State.beginEpoch_bounds _ _ _ _ _)).trans (taken _ _)).trans
        (probation _ _)).trans (State.takeMark_bounds _ _))
    · exact .refl s

/-- Outbox entries changed one by one are as many as before. -/
theorem State.mapOutbox_bounds (s : State) (f : OutEntry → OutEntry) :
    KeepsBounds s { s with builder := { s.builder with outbox := s.builder.outbox.map f } } :=
  ⟨id, (List.length_map _).le.trans, id, id, id, id, id, id⟩

theorem State.enterOwnReport_bounds (s : State) (e : Epoch) : KeepsBounds s (s.enterOwnReport e) := by
  unfold State.enterOwnReport
  split
  · exact .refl s
  · exact s.takeReport_bounds _ _ _

theorem State.transmitted_bounds (s : State) (e : Epoch) : KeepsBounds s ((s.markTransmitted e).enterOwnReport e) :=
  (s.mapOutbox_bounds _).trans (State.enterOwnReport_bounds _ e)

theorem State.slotReportSent_bounds (s : State) : KeepsBounds s s.slotReportSent := by
  unfold State.slotReportSent
  split
  · exact .refl s
  · split
    · exact (s.frameOut_bounds _).trans (State.transmitted_bounds _ _)
    all_goals exact .refl s

theorem State.resendSent_bounds (s : State) : KeepsBounds s s.resendSent := by
  have out (e : Epoch) (x : State) : KeepsBounds x (x.resendOut e) := by
    unfold State.resendOut
    split
    · exact .refl x
    · split
      · exact x.mapOutbox_bounds _
      · exact (x.mapOutbox_bounds _).trans (State.transmitted_bounds _ e)
  unfold State.resendSent
  split
  · exact .refl s
  · split
    · exact s.whenSent_bounds _ _ (out _)
    · exact .refl s

theorem State.adjustSent_bounds (s : State) : KeepsBounds s s.adjustSent := by
  unfold State.adjustSent
  split
  · exact .refl s
  · split
    · exact s.whenSent_bounds _ _ .refl
    · exact .refl s

theorem State.joinOut_bounds (s : State) : KeepsBounds s s.joinOut := .of_sizes rfl

theorem State.arbitrationLost_bounds (s : State) : KeepsBounds s s.arbitrationLost := by
  have outbid : KeepsBounds s s.outbid := .of_sizes rfl
  cases h : s.line.tx with
  | none => rw [State.arbitrationLost, h]; exact .refl s
  | some t =>
    by_cases ho : ∃ e : Epoch, t.owner = .slot e
    · obtain ⟨e, ho⟩ := ho
      rw [s.arbitrationLost_slot t e h ho]
      exact (outbid.trans (State.offerKey_bounds _ _)).trans (State.countConflict_bounds _)
    · rw [s.arbitrationLost_other t h fun e k => ho ⟨e, k⟩]
      exact outbid

theorem State.driveFault_bounds (s : State) : KeepsBounds s s.driveFault := by
  cases h : s.line.tx with
  | none => rw [State.driveFault, h]; exact .refl s
  | some t =>
    by_cases ho : ∃ e : Epoch, t.owner = .slot e
    · obtain ⟨e, ho⟩ := ho
      rw [s.driveFault_slot t e h ho]
      exact KeepsBounds.trans (b := s.faulted) (.of_sizes rfl) (State.offerKey_bounds _ _)
    · obtain ⟨taken, heq⟩ := s.driveFault_other t h fun e k => ho ⟨e, k⟩
      rw [heq]
      exact .of_sizes rfl

end Sys2Proof.Machine
end


section
/-! Every step keeps every buffer within its bound: pins and service port, the commands, and the obligation about it. -/

namespace Sys2Proof.Machine

/-! ### Channels and wires -/

theorem State.cntRise_bounds (s : State) (i : Fin 4) : KeepsBounds s (s.cntRise i) := by
  have set (c : Channel) : KeepsBounds s (s.setChannel i c) := .of_sizes rfl
  have counted (x : State) (down : Bool) : KeepsBounds x (x.count i down) := by
    unfold State.count
    dsimp only
    split <;> exact .of_sizes rfl
  unfold State.cntRise
  dsimp only
  split
  · split
    · exact (set _).trans (counted _ _)
    · exact set _
  · exact .refl s

theorem State.cntEdge_bounds (s : State) (i : Fin 4) : KeepsBounds s (s.cntEdge i) := by
  have set (c : Channel) : KeepsBounds s (s.setChannel i c) := .of_sizes rfl
  unfold State.cntEdge
  dsimp only
  split
  · exact set _
  · exact (set _).trans (State.cntRise_bounds _ i)

theorem State.gateFall_bounds (s : State) (i : Fin 4) : KeepsBounds s (s.gateFall i) := by
  unfold State.gateFall
  dsimp only
  split
  · exact .refl s
  · split <;> exact .of_sizes rfl

theorem State.gateRise_bounds (s : State) (i : Fin 4) : KeepsBounds s (s.gateRise i) :=
  .of_sizes (by simp [State.sizes])

theorem State.dirEdge_bounds (s : State) (i : Fin 4) : KeepsBounds s (s.dirEdge i) := .of_sizes rfl

theorem State.sawPin_bounds (s : State) (i : Fin 4) (x : InputPin) (high : Bool) : KeepsBounds s (s.sawPin i x high) :=
  .of_sizes (by simp [State.sizes])

theorem State.filtered_bounds (s : State) (i : Fin 4) (x : InputPin) : KeepsBounds s (s.filtered i x) := by
  cases x <;> simp only [State.filtered]
  case cnt =>
    split
    · exact s.cntEdge_bounds i
    · exact .of_sizes rfl
  case dir => exact s.dirEdge_bounds i
  case gate =>
    split
    · exact s.gateRise_bounds i
    · exact s.gateFall_bounds i

theorem State.setRx_bounds (s : State) (r : Rx) : KeepsBounds s (s.setRx r) := .of_sizes rfl

theorem State.frameBegins_bounds (s : State) : KeepsBounds s s.frameBegins := by
  unfold State.frameBegins
  split
  · exact .of_sizes rfl
  all_goals exact .refl s

theorem State.lineTakes_bounds (s : State) (high : Bool) : KeepsBounds s (s.lineTakes high) := by
  have falls (x : State) : KeepsBounds x x.lineFalls := by
    unfold State.lineFalls
    split
    · exact .refl x
    · split
      · split
        · exact .refl x
        · exact x.frameBegins_bounds.trans (State.setRx_bounds _ _)
      · exact x.setRx_bounds _
      all_goals exact .refl x
  have moved (p : Pin) : KeepsBounds s { s with inputs := { s.inputs with tally := p } } := .of_sizes rfl
  unfold State.lineTakes
  dsimp only
  split
  · exact .refl s
  · split
    · exact moved _
    · exact (moved _).trans (falls _)

theorem State.csTakes_bounds (s : State) (high : Bool) : KeepsBounds s (s.csTakes high).1 := by
  unfold State.csTakes
  dsimp only
  split
  · exact .of_sizes rfl
  · split <;> exact .of_sizes rfl

theorem State.sckTakes_bounds (s : State) (high : Bool) : KeepsBounds s (s.sckTakes high).1 := by
  unfold State.sckTakes
  dsimp only
  split
  · exact .of_sizes rfl
  · split
    · exact .of_sizes rfl
    · split <;> exact .of_sizes rfl

theorem State.wireTakes_bounds (s : State) (w : Wire) : KeepsBounds s (s.wireTakes w).1 := by
  cases w with
  | input i x high => exact ⟨by simp [State.wireTakes], by simp, by simp, by simp, by simp, by simp, by simp,
      by simp [State.wireTakes]⟩
  | cs high => exact s.csTakes_bounds high
  | sck high => exact s.sckTakes_bounds high
  | sdi high => exact .of_sizes rfl
  | line high => exact s.lineTakes_bounds high
  | frameBegins =>
    unfold State.wireTakes
    dsimp only
    split
    · exact .refl s
    · exact s.frameBegins_bounds

theorem State.sample_bounds (s : State) : KeepsBounds s s.sample.1 := by
  unfold State.sample
  split
  · split
    · exact s.setRx_bounds _
    · exact .refl s
  · split
    · exact .refl s
    · unfold State.sampleStart
      dsimp only
      split
      · split
        · split <;> exact .of_sizes rfl
        · exact s.setRx_bounds _
      · split <;> exact s.setRx_bounds _
    · unfold State.sampleData
      split
      · exact s.setRx_bounds _
      · split <;> exact s.setRx_bounds _
    · exact s.setRx_bounds _
    · exact s.setRx_bounds _

theorem State.idleFromGlitch_bounds (s : State) (p : Pin) : KeepsBounds s (s.idleFromGlitch p) := by
  unfold State.idleFromGlitch
  split
  · exact .of_sizes rfl
  all_goals exact .refl s

/-! ### The service port -/

theorem State.answer_bounds (s : State) (o : PortOutcome) (r : List Byte) : KeepsBounds s (s.answer o r) :=
  .of_sizes rfl

theorem State.readPool_bounds (s : State) (i : Byte) : KeepsBounds s (s.readPool i) := by
  unfold State.readPool
  dsimp only
  split <;> exact s.answer_bounds _ _

theorem State.readRoster_bounds (s : State) (n : Byte) : KeepsBounds s (s.readRoster n) := by
  unfold State.readRoster
  split <;> exact s.answer_bounds _ _

theorem State.readRecord_bounds (s : State) (p : Byte) : KeepsBounds s (s.readRecord p) := by
  unfold State.readRecord
  split
  · split <;> exact s.answer_bounds _ _
  · exact s.answer_bounds _ _

theorem State.readChannel_bounds (s : State) (c : Byte) : KeepsBounds s (s.readChannel c) := by
  unfold State.readChannel
  dsimp only
  split <;> exact s.answer_bounds _ _

theorem State.takeBatch_bounds (s : State) (c : Byte) : KeepsBounds s (s.takeBatch c) := by
  unfold State.takeBatch
  dsimp only
  split
  · refine .trans ?_ (State.answer_bounds _ _ _)
    exact .of_sizes rfl
  · exact s.answer_bounds _ _

theorem State.takeEvent_bounds (s : State) : KeepsBounds s s.takeEvent := by
  unfold State.takeEvent
  split
  · exact s.answer_bounds _ _
  next e t h =>
    refine .trans ?_ (State.answer_bounds _ _ _)
    exact ⟨id, id, id, id, id, id, id, fun k => by rw [h] at k; exact (Nat.le_succ _).trans k⟩

theorem State.writeProfile_bounds (s : State) (n : Byte) (v : BitVec 32) : KeepsBounds s (s.writeProfile n v) := by
  unfold State.writeProfile
  split
  · split
    · exact s.answer_bounds _ _
    · refine .trans ?_ (State.answer_bounds _ _ _)
      exact .of_sizes rfl
  · exact s.answer_bounds _ _

theorem State.startCommand_bounds (s : State) : KeepsBounds s s.startCommand := by
  unfold State.startCommand
  split
  · split
    · exact s.answer_bounds _ _
    · exact s.leaveConfig_bounds.trans (State.answer_bounds _ _ _)
  · exact s.answer_bounds _ _

/-- A post is accepted only where the adjustment queue holds fewer than four (R103). -/
theorem State.judgePost_room (s : State) (count : Byte) (items : List RawItem) (h : s.judgePost count items = .done) :
    s.adjust.queue.length < 4 := by
  unfold State.judgePost at h
  split at h
  · cases h
  split at h
  · cases h
  split at h
  · cases h
  split at h
  · cases h
  · omega

theorem State.postAdjustment_bounds (s : State) (count : Byte) (sent : List RawItem) :
    KeepsBounds s (s.postAdjustment count sent) := by
  unfold State.postAdjustment
  dsimp only
  split
  · exact .refl s
  · split
    next done =>
      have room := s.judgePost_room _ _ done
      refine .trans ?_ (State.answer_bounds _ _ _)
      unfold State.acceptPost
      dsimp only
      refine .trans ?_ (State.offerKey_bounds _ _)
      exact ⟨id, id, id, id, id, id, fun _ => by simp only [insertAdj_length]; omega, id⟩
    next => exact s.answer_bounds _ _

theorem State.setDrive_bounds (s : State) (i m : Byte) : KeepsBounds s (s.setDrive i m) := by
  unfold State.setDrive
  split
  · split
    · exact s.answer_bounds _ _
    · refine .trans ?_ (State.answer_bounds _ _ _)
      unfold State.setDriveMode
      refine .trans ?_ (State.refreshDrive_bounds _ _ _)
      exact .of_sizes rfl
  · exact s.answer_bounds _ _

theorem State.leaveTaken_bounds (s : State) : KeepsBounds s s.leaveTaken := by
  unfold State.leaveTaken
  split
  · refine .trans ?_ (State.answer_bounds _ _ _)
    exact .of_sizes rfl
  · exact s.answer_bounds _ _

theorem State.restart_bounds (s : State) : KeepsBounds s s.restart := by
  unfold State.restart
  split
  · exact s.answer_bounds _ _
  · exact s.restartPath_bounds.trans (State.answer_bounds _ _ _)

/-! ### Steps -/

theorem State.finish_bounds (s : State) : KeepsBounds s s.finish :=
  ⟨id, id, id, id, id, id, id, enterEvents_length _ _ _⟩

/-- An outcome whose next state keeps the bounds of s. -/
def OutcomeKeeps (s : State) (o : Host.Outcome State Fault Refusal) : Prop := ∀ t : State, o = .next t → KeepsBounds s t

theorem OutcomeKeeps.of_next {s t : State} (h : KeepsBounds s t) : OutcomeKeeps s (.next t) := by
  rintro _ ⟨⟩; exact h

theorem OutcomeKeeps.after {s x : State} {o : Host.Outcome State Fault Refusal} (h : KeepsBounds s x) (k : OutcomeKeeps x o) :
    OutcomeKeeps s o := fun t ht => h.trans (k t ht)

theorem State.outside_keeps (s : State) (dt : Nat) (f : State → State) (h : ∀ x, KeepsBounds x (f x)) :
    OutcomeKeeps s (s.outside dt f) := by
  have later : KeepsBounds s { s with now := s.now + dt } := .of_sizes rfl
  refine .of_next (.trans ?_ (State.finish_bounds _))
  split
  · exact later
  · exact later.trans (h _)

theorem State.inside_keeps (s : State) (f : State → State) (h : ∀ x, KeepsBounds x (f x)) :
    OutcomeKeeps s (s.inside f) := by
  refine .of_next (.trans ?_ (State.finish_bounds _))
  split
  · exact .refl s
  · exact h s

theorem State.frame_keeps (s : State) (dt : Nat) (f : Frame) (blocks : Bool → State → State)
    (h : ∀ b x, KeepsBounds x (blocks b x)) : OutcomeKeeps s (s.outside dt (fun x => x.frameIn f blocks)) :=
  s.outside_keeps dt _ fun x => x.frameIn_bounds f blocks h

/-- Every command keeps every buffer within its bound. -/
theorem exec_keeps (c : Instr) (s : State) : OutcomeKeeps s (exec c s) := by
  cases c with
  | hardwareReset dt => exact .of_next (.of_sizes rfl)
  | hardwareResetEnd dt id rate auto =>
    refine .of_next ?_
    split
    · exact ⟨fun _ => Nat.zero_le _, fun _ => Nat.zero_le _, fun _ => Nat.zero_le _, fun _ => Nat.zero_le _,
        fun _ => Nat.zero_le _, fun _ => Nat.zero_le _, fun _ => Nat.zero_le _, fun _ => Nat.zero_le _⟩
    · exact .of_sizes rfl
  | autoTimerExpiry => exact s.inside_keeps _ State.autoExpiry_bounds
  | listenTimerExpiry => exact s.inside_keeps _ State.listenExpiry_bounds
  | joinSilenceExpiry => exact s.inside_keeps _ State.silenceExpiry_bounds
  | markTimerExpiry => exact s.inside_keeps _ State.markExpiry_bounds
  | markBegin => exact s.inside_keeps _ State.markBegins_bounds
  | ownMark => exact s.inside_keeps _ State.ownMark_bounds
  | slotStart => exact s.inside_keeps _ State.nextSlot_bounds
  | slotReportBegin => exact s.inside_keeps _ State.slotReportBegins_bounds
  | slotReportMissed => exact s.inside_keeps _ State.slotMissed_bounds
  | slotReportSent => exact s.inside_keeps _ State.slotReportSent_bounds
  | slotPhaseEnd => exact s.inside_keeps _ State.slotsOver_bounds
  | openWindowGapComplete => exact s.inside_keeps _ State.gapComplete_bounds
  | resendSent => exact s.inside_keeps _ State.resendSent_bounds
  | snapshotSent => exact s.inside_keeps (fun x => x.whenSent .snapshot (fun y => y)) fun x => x.whenSent_bounds _ _ .refl
  | adjustSent => exact s.inside_keeps _ State.adjustSent_bounds
  | requestSent => exact s.inside_keeps (fun x => x.whenSent .request (fun y => y)) fun x => x.whenSent_bounds _ _ .refl
  | joinSent => exact s.inside_keeps (fun x => x.whenSent .join State.joinOut) fun x => x.whenSent_bounds _ _ State.joinOut_bounds
  | leaveSent =>
    exact s.inside_keeps (fun x => x.whenSent .leave (fun y => y.enterFrozen .quiet .none)) fun x =>
      x.whenSent_bounds _ _ fun y => y.enterFrozen_bounds _ _
  | leaveDeadline => exact s.inside_keeps _ State.leaveDeadline_bounds
  | arbitrationLost dt => exact s.outside_keeps dt _ State.arbitrationLost_bounds
  | driveFault dt => exact s.outside_keeps dt _ State.driveFault_bounds
  | frameAbandoned dt => exact s.outside_keeps dt _ State.abandonFrame_bounds
  | frameDiscarded dt bytes => exact s.outside_keeps dt (fun x => x.discardFrame bytes) fun x => x.discardFrame_bounds bytes
  | markReceived dt f => exact s.frame_keeps dt (.mark f) (fun b x => x.markIn f b) fun b x => x.markIn_bounds f b
  | reportReceived dt f =>
    exact s.frame_keeps dt (.report f) (fun b x => x.reportIn f b fun y => y.windowReport f) fun b x =>
      x.reportIn_bounds f b _ fun y => y.windowReport_bounds f
  | resendReceived dt f =>
    exact s.frame_keeps dt (.resend f) (fun b x => x.reportIn f b fun y => y.windowResend f) fun b x =>
      x.reportIn_bounds f b _ fun y => y.windowResend_bounds f
  | requestReceived dt f =>
    exact s.frame_keeps dt (.request f) (fun b x => x.requestIn f b) fun b x => x.requestIn_bounds f b
  | snapshotReceived dt f =>
    exact s.frame_keeps dt (.snapshot f) (fun b x => x.snapshotIn f b) fun b x => x.snapshotIn_bounds f b
  | adjustReceived dt f => exact s.frame_keeps dt (.adjust f) (fun b x => x.adjustIn f b) fun b x => x.adjustIn_bounds f b
  | joinReceived dt f => exact s.frame_keeps dt (.join f) (fun b x => x.joinIn f b) fun b x => x.joinIn_bounds f b
  | leaveReceived dt f => exact s.frame_keeps dt (.leave f) (fun b x => x.leaveIn f b) fun b x => x.leaveIn_bounds f b
  | filteredCntRise dt i =>
    exact s.outside_keeps dt (fun x => (x.sawPin i .cnt true).cntEdge i) fun x =>
      (x.sawPin_bounds _ _ _).trans (State.cntEdge_bounds _ i)
  | filteredDirChange dt i =>
    exact s.outside_keeps dt (fun x => (x.sawPin i .dir (!(x.channels.get i).dirHigh)).dirEdge i) fun x =>
      (x.sawPin_bounds _ _ _).trans (State.dirEdge_bounds _ i)
  | filteredGateRise dt i =>
    exact s.outside_keeps dt (fun x => (x.sawPin i .gate true).gateRise i) fun x =>
      (x.sawPin_bounds _ _ _).trans (State.gateRise_bounds _ i)
  | filteredGateFall dt i =>
    exact s.outside_keeps dt (fun x => (x.sawPin i .gate false).gateFall i) fun x =>
      (x.sawPin_bounds _ _ _).trans (State.gateFall_bounds _ i)
  | status dt => exact s.outside_keeps dt State.readStatus fun _ => .of_sizes rfl
  | readPool dt i => exact s.outside_keeps dt (fun x => x.readPool i) fun x => x.readPool_bounds i
  | readRoster dt n => exact s.outside_keeps dt (fun x => x.readRoster n) fun x => x.readRoster_bounds n
  | readRecord dt p => exact s.outside_keeps dt (fun x => x.readRecord p) fun x => x.readRecord_bounds p
  | readGaps dt => exact s.outside_keeps dt State.readGaps fun x => x.answer_bounds _ _
  | readChannel dt c => exact s.outside_keeps dt (fun x => x.readChannel c) fun x => x.readChannel_bounds c
  | takeBatch dt c => exact s.outside_keeps dt (fun x => x.takeBatch c) fun x => x.takeBatch_bounds c
  | takeEvent dt => exact s.outside_keeps dt _ State.takeEvent_bounds
  | writeProfile dt n v => exact s.outside_keeps dt (fun x => x.writeProfile n v) fun x => x.writeProfile_bounds n v
  | start dt => exact s.outside_keeps dt _ State.startCommand_bounds
  | postAdjustment dt n l => exact s.outside_keeps dt (fun x => x.postAdjustment n l) fun x => x.postAdjustment_bounds n l
  | setDrive dt i m => exact s.outside_keeps dt (fun x => x.setDrive i m) fun x => x.setDrive_bounds i m
  | leaveCommand dt => exact s.outside_keeps dt _ State.leaveTaken_bounds
  | restart dt => exact s.outside_keeps dt _ State.restart_bounds
  | unknownCommand dt code =>
    refine s.outside_keeps dt (fun x => if commandCodes.contains code then x else x.answer .badArgument []) fun x => ?_
    split
    · exact .refl x
    · exact x.answer_bounds _ _
  | transactionAbandoned dt => exact s.outside_keeps dt (fun x => x) .refl
  | glitch dt => exact s.outside_keeps dt _ State.glitched_bounds
  | abandonedFrameEnd dt => exact s.outside_keeps dt _ State.abandonedEnd_bounds

theorem takeFilter_keeps (c : FilterChange) (s : State) : OutcomeKeeps s (takeFilter c s) := by
  have drawn : KeepsBounds s (s.draw.until c.due) := .of_sizes rfl
  refine .of_next (.trans ((drawn.trans (State.filtered_bounds _ c.ch c.pin)).trans (State.finish_bounds _)) ?_)
  exact .of_sizes rfl

theorem takeWire_keeps (dt : Nat) (w : Wire) (s : State) : OutcomeKeeps s (takeWire dt w s) := by
  have later : KeepsBounds s { s with now := s.now + dt } := .of_sizes rfl
  have taken := later.trans (State.wireTakes_bounds _ w)
  unfold takeWire
  dsimp only
  split
  · exact .of_next (taken.trans (State.finish_bounds _))
  · exact .after taken (exec_keeps _ _)

theorem takeSample_keeps (t : Instant) (s : State) : OutcomeKeeps s (takeSample t s) := by
  have come : KeepsBounds s (s.comeTo t) := .of_sizes rfl
  have sampled := come.trans (State.sample_bounds _)
  unfold takeSample
  dsimp only
  split
  · exact .of_next (sampled.trans (State.finish_bounds _))
  next c at_ _ =>
    have kept := OutcomeKeeps.after (x := { (s.comeTo t).sample.1 with now := at_ })
      (sampled.trans (.of_sizes rfl)) (exec_keeps c _)
    split
    next u hu => exact .of_next (((kept u hu).trans (u.idleFromGlitch_bounds s.inputs.tally)).trans (.of_sizes rfl))
    next => exact fun _ h => nomatch h
    next => exact fun _ h => nomatch h

theorem tickPins_keeps (s : State) : OutcomeKeeps s (tickPins s) := by
  unfold tickPins
  split
  · split
    · exact .of_next (.refl s)
    · exact takeFilter_keeps _ s
  · have taken (x : State) (w : List WireChange) (n : Nat) : KeepsBounds x { x with wires := w, free := n } := .of_sizes rfl
    split
    · exact .after (taken _ _ _) (takeWire_keeps _ _ _)
    · split
      · exact takeFilter_keeps _ s
      · exact .after (taken _ _ _) (takeWire_keeps _ _ _)

theorem tick_keeps (s : State) : OutcomeKeeps s (tick s) := by
  have drawn : KeepsBounds s s.draw := .of_sizes rfl
  unfold tick
  split
  · exact tickPins_keeps s
  · exact takeSample_keeps _ s
  · split
    · exact takeSample_keeps _ s
    · split
      · exact tickPins_keeps s
      · split
        · exact .after drawn (takeSample_keeps _ _)
        · exact .after drawn (tickPins_keeps _)

theorem step_keeps (s : State) : OutcomeKeeps s (step s) := by
  unfold step
  split
  · exact tick_keeps s
  next c rest _ => exact .after (x := { s with pending := rest }) (.of_sizes rfl) (exec_keeps c _)

/-- Settles O5: every operation of a step keeps the bounds, and so does their composition. -/
theorem stepKeepsBounds : Obligations.StepKeepsBounds := by
  unfold Obligations.StepKeepsBounds
  exact fun s t hs ht => (step_keeps s t ht).bounded hs

end Sys2Proof.Machine
end


section
/-! What a sender builds a receiver reads back: the fields of each kind of frame, the CRC over its own bytes, and the bytes on
the line (R19 to R22, R186 to R188). -/

namespace Sys2Proof.Machine

/-! ### The line CRC -/

/-- The second byte of the CRC is at the register's top once the first has been shifted out. -/
theorem extract_shifted (r : Digest) : r.extractLsb' 0 8 = (r <<< 8).extractLsb' 8 8 := by
  ext i hi
  simp only [BitVec.getElem_extractLsb', BitVec.getLsbD_shiftLeft, Nat.zero_add]
  simp
  omega

/-- The line CRC over its own two bytes clears the register (R187). -/
theorem crc_own (bytes : List Byte) : crc (bytes ++ bytes16 (crc bytes)) = 0 := by
  rw [crc_append]
  generalize crc bytes = r
  calc [r.extractLsb' 8 8, r.extractLsb' 0 8].foldl crcByte r
      = crcByte (crcByte r (r.extractLsb' 8 8)) (r.extractLsb' 0 8) := rfl
    _ = (r <<< 8) <<< 8 := by rw [crcByte_top, extract_shifted, crcByte_top]
    _ = 0 := by rw [← BitVec.shiftLeft_add]; exact BitVec.shiftLeft_eq_zero (by decide)

/-! ### The fields of each kind -/

@[simp] theorem flagsByte_one (a : Bool) : (flagsByte [a])[0] = a := by cases a <;> rfl

@[simp] theorem flagsByte_two_low (a b : Bool) : (flagsByte [a, b])[0] = a := by cases a <;> cases b <;> rfl

@[simp] theorem flagsByte_two_high (a b : Bool) : (flagsByte [a, b])[1] = b := by cases a <;> cases b <;> rfl

/-- A count that fits a byte is read back from it. -/
theorem count_toNat (n : Nat) (h : n < 256) : (BitVec.ofNat 8 n).toNat = n := by
  rw [BitVec.toNat_ofNat, Nat.mod_eq_of_lt h]

theorem readMark_fields (f : MarkFrame) : readMark f.sender (Frame.mark f).fields = some f := by
  simp [Frame.fields, readMark, bytes16, bytes32, bytes16_read, bytes32_read]

theorem readReport_fields (f : ReportFrame) (h : f.deltas.length < 256) :
    readReport f.deltas.length f.sender (reportFields f) = some f := by
  obtain ⟨sender, epoch, deltas, fold, clean⟩ := f
  have count := count_toNat deltas.length h
  have readDeltas := words16_flatMap deltas
  have long := flatMap_bytes16_length deltas
  cases fold with
  | none => simp [reportFields, readReport, bytes16, bytes16_read, count, ← long, readDeltas]
  | some m => simp [reportFields, readReport, bytes16, bytes16_read, count, ← long, readDeltas]

theorem readRequest_fields (f : RequestFrame) (h : f.pairs.length ≤ 4) :
    readRequest f.sender (Frame.request f).fields = some f := by
  obtain ⟨sender, target, pairs⟩ := f
  have count := count_toNat pairs.length (by simp only at h; omega)
  cases target <;> simpa [Frame.fields, readRequest, count, -List.length_flatMap] using h

theorem readSnapshot_fields (f : SnapshotFrame) (h : f.balances.length < 256) :
    readSnapshot f.balances.length f.sender (Frame.snapshot f).fields = some f := by
  obtain ⟨sender, point, balances, digest, map⟩ := f
  have count := count_toNat balances.length h
  have readBalances := words32_flatMap balances
  have long := flatMap_bytes32_length balances
  simp [Frame.fields, readSnapshot, bytes16, bytes32, bytes16_read, bytes32_read, count, ← long, readBalances]

theorem readAdjust_fields (f : AdjustFrame) (h : f.wf = true) : readAdjust f.sender (Frame.adjust f).fields = some f := by
  obtain ⟨sender, serial, effective, pools, items⟩ := f
  simp only [AdjustFrame.wf, Bool.and_eq_true, decide_eq_true_eq] at h
  obtain ⟨⟨⟨some, few⟩, used⟩, limit⟩ := h
  have count := count_toNat items.length (by omega)
  simp [Frame.fields, readAdjust, bytes16, bytes16_read, count, some, few, used, limit, -List.length_flatMap]

theorem readJoin_fields (f : JoinFrame) : readJoin f.sender (Frame.join f).fields = some f := by
  simp [Frame.fields, readJoin, bytes16, bytes16_read]

/-- The deltas of a good REPORT or RESEND are one to a pool, 1 to 8 (R22). -/
theorem good_report {k : Nat} {f : ReportFrame} (h : (f.wf && f.deltas.length == k) = true) :
    f.deltas.length ≤ 8 ∧ f.deltas.length = k := by
  simp only [ReportFrame.wf, Bool.and_eq_true, decide_eq_true_eq, beq_iff_eq] at h
  exact ⟨h.1.2, h.2⟩

/-- The balances of a good SNAPSHOT are one to a pool, 1 to 8 (R22). -/
theorem good_snapshot {k : Nat} {f : SnapshotFrame} (h : (f.wf && f.balances.length == k) = true) :
    f.balances.length ≤ 8 ∧ f.balances.length = k := by
  simp only [SnapshotFrame.wf, Bool.and_eq_true, decide_eq_true_eq, beq_iff_eq] at h
  exact ⟨h.1.2, h.2⟩

/-- A good frame's fields are read back by its kind (R22). -/
theorem readFields_fields (k : Nat) (f : Frame) (h : f.good k = true) : readFields k f.kindCode f.sender f.fields = some f := by
  cases f with
  | mark f => simp [readFields, Frame.kindCode, Frame.sender, readMark_fields]
  | report f =>
    obtain ⟨fits, rfl⟩ := good_report h
    simp [readFields, Frame.kindCode, Frame.sender, Frame.fields, readReport_fields f (by omega)]
  | resend f =>
    obtain ⟨fits, rfl⟩ := good_report h
    simp [readFields, Frame.kindCode, Frame.sender, Frame.fields, readReport_fields f (by omega)]
  | request f =>
    have fits : f.pairs.length ≤ 4 := by simpa [Frame.good, RequestFrame.wf] using h
    simp [readFields, Frame.kindCode, Frame.sender, readRequest_fields f fits]
  | snapshot f =>
    obtain ⟨fits, rfl⟩ := good_snapshot h
    simp [readFields, Frame.kindCode, Frame.sender, readSnapshot_fields f (by omega)]
  | adjust f => simp [readFields, Frame.kindCode, Frame.sender, readAdjust_fields f h]
  | join f => simp [readFields, Frame.kindCode, Frame.sender, readJoin_fields]
  | leave f => rfl

theorem readBody_body (k : Nat) (f : Frame) (h : f.good k = true) : readBody k f.body = some f := by
  have number := stationByte_toNat f.sender
  simp [readBody, Frame.body, number, readFields_fields k f h]

/-! ### Length and the whole frame -/

theorem reportFields_length (f : ReportFrame) : (reportFields f).length = 8 + 2 * f.deltas.length := by
  obtain ⟨sender, epoch, deltas, fold, clean⟩ := f
  cases fold <;> simp [reportFields, -List.length_flatMap] <;> omega

/-- A frame is as long as R22's table says. -/
theorem Frame.bytes_length (f : Frame) : f.bytes.length = f.size := by
  have whole : f.bytes.length = f.fields.length + 4 := by simp [Frame.bytes, Frame.body]
  rw [whole]
  cases f with
  | mark f => rfl
  | report f => simp only [Frame.fields, reportFields_length, Frame.size]; omega
  | resend f => simp only [Frame.fields, reportFields_length, Frame.size]; omega
  | request f => simp [Frame.fields, Frame.size, -List.length_flatMap]; omega
  | snapshot f => simp [Frame.fields, Frame.size, -List.length_flatMap]; omega
  | adjust f => simp [Frame.fields, Frame.size, -List.length_flatMap]; omega
  | join f => rfl
  | leave f => rfl

/-- A good frame is 4 to 64 bytes long (R20). -/
theorem Frame.size_good (k : Nat) (f : Frame) (h : f.good k = true) : 4 ≤ f.size ∧ f.size ≤ 64 := by
  cases f with
  | mark f => simp [Frame.size]
  | report f => have := (good_report h).1; simp only [Frame.size]; omega
  | resend f => have := (good_report h).1; simp only [Frame.size]; omega
  | request f => simp only [Frame.good, RequestFrame.wf, decide_eq_true_eq] at h; simp only [Frame.size]; omega
  | snapshot f => have := (good_snapshot h).1; simp only [Frame.size]; omega
  | adjust f =>
    simp only [Frame.good, AdjustFrame.wf, Bool.and_eq_true, decide_eq_true_eq] at h
    simp only [Frame.size]
    omega
  | join f => simp [Frame.size]
  | leave f => simp [Frame.size]

/-- The receiver's checks pass a good frame's bytes and give the frame (R22). -/
theorem checkFrame_bytes (k : Nat) (f : Frame) (h : f.good k = true) : checkFrame k f.bytes = some f := by
  obtain ⟨least, most⟩ := f.size_good k h
  have size := f.bytes_length
  have cut : f.bytes.length - 2 = f.body.length := by simp [Frame.bytes]
  have body : f.bytes.take (f.bytes.length - 2) = f.body := by rw [cut, Frame.bytes, List.take_left]
  have tail : f.bytes.drop (f.bytes.length - 2) = bytes16 (crc f.body) := by rw [cut, Frame.bytes, List.drop_left]
  rw [checkFrame, if_pos (by omega)]
  dsimp only
  rw [body, tail, if_pos rfl, readBody_body k f h]

/-- Settles O9: length, checks and fields by kind; on the line byte by byte. -/
theorem framesRoundTrip : Obligations.FramesRoundTrip := by
  unfold Obligations.FramesRoundTrip
  intro k f h
  refine ⟨checkFrame_bytes k f h, f.bytes_length, by rw [f.lineBits_length, f.bytes_length], fun j b hb => ?_⟩
  have bits := flatMap_lineBits_at f.bytes j b hb
  refine ⟨bits, ?_⟩
  calc flagsByte (((f.lineBits.drop (10 * j)).drop 1).take 8)
      = flagsByte ((((f.lineBits.drop (10 * j)).take 10).drop 1).take 8) := by rw [List.drop_take, List.take_take]; rfl
    _ = flagsByte (((lineBits b).drop 1).take 8) := by rw [Frame.lineBits, bits]
    _ = b := lineBits_read b

/-- The body of a RESEND with one delta and a fold point (R186). -/
theorem resend_body (d : Digest) :
    (Frame.resend { sender := 5, epoch := 11, deltas := [-3], fold := some { point := 9, digest := d }, clean := true }).body =
      [0x42, 0x05, 0x00, 0x0B, 0x01, 0xFF, 0xFD, 0x00, 0x09, d.extractLsb' 8 8, d.extractLsb' 0 8, 0x03] := by
  simp [Frame.body, Frame.kindCode, Frame.sender, Frame.fields, reportFields, bytes16, stationByte, flagsByte]

/-- Settles O10, the layouts by evaluation and the CRC over its own bytes by crc_own. -/
theorem framesAsWritten : Obligations.FramesAsWritten := by
  unfold Obligations.FramesAsWritten
  exact ⟨fun _ => rfl, crc_own, by decide +kernel, resend_body, by decide +kernel, by decide +kernel, by decide +kernel,
    by decide +kernel⟩

end Sys2Proof.Machine
end


section
/-! What the transmitter does with the send queue: which frame the open window's gap begins (R27, R29, R33), and the slot REPORT
that waits for the line or is missed (R28, R58). -/

namespace Sys2Proof.Machine

/-- A step of the station's own whose effect is the ready state t answers t. -/
theorem Ready.inside {s t : State} {f : State → State} (h : Ready s) (effect : f s = t) (ht : Ready t) :
    s.inside f = .next t := by
  subst effect
  exact s.inside_ready f h.1 ht

/-! ### Taking the queue -/

/-- The guard stops the frame of entry e: its end would come after the instant latest (R29). -/
abbrev State.Guarded (s : State) (latest : Instant) (e : QEntry) : Prop :=
  ∀ g : Frame, s.build e = some g → latest < s.now + s.bits (10 * (g.size : Int))

/-- The frame that the queue yields is that of the first entry neither declined nor stopped by the guard (R33). -/
theorem State.takeQueue_begins (s : State) (latest : Instant) (q : List QEntry) {key : QKey} {f : Frame}
    (h : (s.takeQueue latest q).2 = some (key, f)) :
    ∃ (before after : List QEntry) (e : QEntry), q = before ++ e :: after ∧ e.key = key ∧ s.build e = some f ∧
      s.now + s.bits (10 * (f.size : Int)) ≤ latest ∧ (∀ x ∈ before, s.Guarded latest x) ∧
      (s.takeQueue latest q).1 = before.filter (fun x => (s.build x).isSome) ++ e :: after := by
  induction q with
  | nil => simp [State.takeQueue] at h
  | cons a t ih =>
    rw [State.takeQueue] at h ⊢
    cases built : s.build a with
    | none =>
      simp only [built] at h ⊢
      obtain ⟨before, after, e, rfl, hk, hb, fits, stopped, rest⟩ := ih h
      refine ⟨a :: before, after, e, rfl, hk, hb, fits, ?_, by simp [rest, built]⟩
      exact List.forall_mem_cons.mpr ⟨fun g hg => (nomatch built.symm.trans hg), stopped⟩
    | some g =>
      simp only [built] at h ⊢
      split at h
      next fits =>
        obtain ⟨rfl, rfl⟩ : a.key = key ∧ g = f := by simpa using h
        exact ⟨[], t, a, rfl, rfl, built, fits, by simp, by simp [fits]⟩
      next late =>
        obtain ⟨before, after, e, rfl, hk, hb, fits, stopped, rest⟩ := ih h
        refine ⟨a :: before, after, e, rfl, hk, hb, fits, ?_, by simp [rest, built, late]⟩
        refine List.forall_mem_cons.mpr ⟨fun x hx => ?_, stopped⟩
        obtain rfl := Option.some.inj (built.symm.trans hx)
        exact Int.not_le.mp late

/-- A queue that yields no frame keeps the entries that the guard stopped, and no others (R33). -/
theorem State.takeQueue_none (s : State) (latest : Instant) (q : List QEntry) (h : (s.takeQueue latest q).2 = none) :
    (∀ x ∈ q, s.Guarded latest x) ∧ (s.takeQueue latest q).1 = q.filter (fun x => (s.build x).isSome) := by
  induction q with
  | nil => exact ⟨by simp, rfl⟩
  | cons a t ih =>
    rw [State.takeQueue] at h ⊢
    cases built : s.build a with
    | none =>
      simp only [built] at h ⊢
      obtain ⟨stopped, rest⟩ := ih h
      exact ⟨List.forall_mem_cons.mpr ⟨fun g hg => (nomatch built.symm.trans hg), stopped⟩, by simp [rest, built]⟩
    | some g =>
      simp only [built] at h ⊢
      split at h
      next => simp at h
      next late =>
        obtain ⟨stopped, rest⟩ := ih h
        refine ⟨List.forall_mem_cons.mpr ⟨fun x hx => ?_, stopped⟩, by simp [rest, built, late]⟩
        obtain rfl := Option.some.inj (built.symm.trans hx)
        exact Int.not_le.mp late

/-- The queue of s as taken at the instant at which the gap is complete, on a line idle since x in an epoch of origin o. -/
def State.takenAt (s : State) (x o : Instant) : List QEntry × Option (QKey × Frame) :=
  (s.until (s.gapEnd x o)).takeQueue (o + s.period - s.bits 24) s.line.queue

/-- The open window is the station's: its gap may be complete (R27, R33). -/
structure State.WindowOpen (s : State) (x o : Instant) : Prop where
  life : s.ctl.life = .run ∨ s.ctl.life = .joining
  timer : s.clock.slotTimer = .window
  silent : s.line.tx = none
  unmarked : s.clock.pending = false
  unslotted : s.line.slotWaiting = none
  untaken : s.line.taken = false
  idle : s.line.state = .idle x
  origin : s.clock.origin = some o

theorem State.WindowOpen.begins {s : State} {x o : Instant} (h : s.WindowOpen x o) {key : QKey} {f : Frame}
    (ht : (s.takenAt x o).2 = some (key, f)) : s.gapComplete =
      { s.until (s.gapEnd x o) with line := { s.line with
          queue := (s.takenAt x o).1, state := .busy
          tx := some { frame := f, began := (s.until (s.gapEnd x o)).now, owner := .queue key, changed := false } } } := by
  unfold State.takenAt at ht ⊢
  simp only [State.gapComplete, h.idle, h.origin]
  rw [if_pos ⟨h.life, h.timer, h.silent, h.unmarked, h.unslotted, h.untaken⟩]
  simp only [ht]
  rfl

theorem State.WindowOpen.quiet {s : State} {x o : Instant} (h : s.WindowOpen x o) (ht : (s.takenAt x o).2 = none) :
    s.gapComplete =
      { s.until (s.gapEnd x o) with line := { s.line with queue := (s.takenAt x o).1, taken := true } } := by
  unfold State.takenAt at ht ⊢
  simp only [State.gapComplete, h.idle, h.origin]
  rw [if_pos ⟨h.life, h.timer, h.silent, h.unmarked, h.unslotted, h.untaken⟩]
  simp only [ht, State.until_line, h.idle]

/-- Settles O24: the queue by induction on its entries, the gap's end by what the queue yields. -/
theorem openWindowSends : Obligations.OpenWindowSends := by
  unfold Obligations.OpenWindowSends
  refine ⟨fun s latest q => ⟨fun _ _ => s.takeQueue_begins latest q, s.takeQueue_none latest q⟩, ?_⟩
  intro s o x ready life timer silent unmarked unslotted untaken idle origin at_ taken
  have opened : s.WindowOpen x o := ⟨life, timer, silent, unmarked, unslotted, untaken, idle, origin⟩
  have now : s.until (s.gapEnd x o) = { s with now := at_ } := s.until_eq _
  have queue : s.takenAt x o = taken := by rw [State.takenAt, now]
  refine ⟨fun key f ht => ?_, fun ht => ?_⟩
  · have effect := opened.begins (queue.symm ▸ ht)
    rw [queue, now] at effect
    exact ready.inside effect ready
  · have effect := opened.quiet (queue.symm ▸ ht)
    rw [queue, now] at effect
    exact ready.inside effect ready

/-! ### The slot REPORT -/

/-- The end of the slot REPORT f begun at the instant t (R20). -/
abbrev State.reportEnd (s : State) (f : ReportFrame) (t : Instant) : Instant :=
  t + s.bits (10 * (12 + 2 * (f.deltas.length : Int)))

theorem report_size (f : ReportFrame) : ((Frame.report f).size : Int) = 12 + 2 * (f.deltas.length : Int) := by
  simp [Frame.size]

/-- The line is long enough idle, and the slot REPORT ends within the slot: it begins (R28). -/
theorem State.slotReportBegins_fits (s : State) {f : ReportFrame} {o x : Instant} (life : s.ctl.life = .run)
    (origin : s.clock.origin = some o) (waits : s.line.slotWaiting = some f) (silent : s.line.tx = none)
    (idle : s.line.state = .idle x) (fits : s.reportEnd f (s.due (x + s.bits 4)) ≤ s.slotEnd o) : s.slotReportBegins =
      { s with
        now := s.due (x + s.bits 4)
        line := { s.line with
          slotWaiting := none, state := .busy
          tx := some { frame := .report f, began := s.due (x + s.bits 4), owner := .slot f.epoch, changed := false } } } := by
  simp only [State.slotReportBegins, waits, idle, origin, State.until_eq, report_size]
  rw [if_pos ⟨life, silent, fits⟩]
  rfl

/-- The slot REPORT would end after the slot: it does not begin (R28). -/
theorem State.slotReportBegins_late (s : State) {f : ReportFrame} {o x : Instant} (origin : s.clock.origin = some o)
    (waits : s.line.slotWaiting = some f) (idle : s.line.state = .idle x)
    (late : s.slotEnd o < s.reportEnd f (s.due (x + s.bits 4))) : s.slotReportBegins = s := by
  simp only [State.slotReportBegins, waits, idle, origin, State.until_eq, report_size]
  rw [if_neg fun ⟨_, _, fits⟩ => Int.not_le.mpr late fits]

/-- The slot of s is missed at the instant t, before its RESEND is offered (R28). -/
def State.slotGivenUp (s : State) (t : Instant) : State :=
  { s.until t with line := { s.line with slotWaiting := none, state := s.foundBusy t } }

theorem State.slotMissed_run (s : State) {f : ReportFrame} {o : Instant} (life : s.ctl.life = .run)
    (origin : s.clock.origin = some o) (waits : s.line.slotWaiting = some f) :
    s.slotMissed = (s.slotGivenUp (s.lastBegin f o)).offerKey (.resend f.epoch) := by
  simp only [State.slotMissed, waits, origin]
  rw [if_pos life]
  rfl

/-- Settles O17: what the REPORT's beginning and the missed slot do, and that an offer of a RESEND in RUN waits. -/
theorem slotReportWaits : Obligations.SlotReportWaits := by
  unfold Obligations.SlotReportWaits
  intro s o f ready life origin waits
  refine ⟨fun x silent idle fits => ?_, fun x silent idle late => ?_, ?_⟩
  · exact ready.inside (s.slotReportBegins_fits life origin waits silent idle fits) ready
  · exact ready.inside (s.slotReportBegins_late origin waits idle late) ready
  · have effect := s.slotMissed_run life origin waits
    have begins : s.lastBegin f o = o + s.bits (320 * ((s.own.val : Int) + 1)) -
        s.bits (10 * (12 + 2 * (f.deltas.length : Int))) := by rw [State.lastBegin, State.slotEnd, report_size]
    rw [begins] at effect
    generalize o + s.bits _ - s.bits _ = t at effect ⊢
    obtain ⟨tx, state, -, -, slotWaiting⟩ := (s.slotGivenUp t).offerKey_line (.resend f.epoch)
    obtain ⟨now, -, clock, roster, builder, window, pool, adjust, ctl, channels, drives, port, -⟩ :=
      (s.slotGivenUp t).offerKey_frame (.resend f.epoch)
    have unheld (busy : s.line.state = .busy) : s.foundBusy t = .busy := by simp [State.foundBusy, busy]
    have stays := ready.of_same (congrArg _ ctl) (congrArg _ ctl) port (congrArg _ pool) (congrArg _ drives)
    exact ⟨_, ready.inside effect stays, now.trans (s.until_now t), slotWaiting, (s.slotGivenUp t).offerKey_waits _ life,
      fun busy => state.trans (unheld busy), tx, roster, builder, clock, window, pool, adjust, ctl, channels, drives,
      port⟩

end Sys2Proof.Machine
end


section
/-! What a frame of the send queue gone out whole does to the queue, the outbox, the window and the controller (R33, R60, R69,
R76, R96, R106, R127). -/

namespace Sys2Proof.Machine

/-! ### A report enters the window -/

/-- A COLLECTING record that has heard all it expects is SETTLED by the report it takes (R67). -/
theorem Record.take_state (r : Record) (n : Station) (d : List (BitVec 16)) (h : mapHas r.heard n = false) :
    (r.take n d).state =
      if r.state = .collecting ∧ (r.take n d).heard = (r.take n d).expected then .settled else r.state := by
  simp [Record.take, h]

/-- A report whose sender every record of the epoch has heard, or that no record is held for, changes nothing (R65, R68). -/
theorem State.takeReport_heard (s : State) (n : Station) (e : Epoch) (d : List (BitVec 16))
    (h : ∀ r ∈ s.window.records, r.epoch = e → mapHas r.heard n = true) : s.takeReport n e d = s := by
  have same : s.changeRecord e (fun r => r.take n d) = s := by
    have kept : s.window.records.map (fun r => if r.epoch = e then r.take n d else r) = s.window.records := by
      refine (List.map_congr_left fun r hr => ?_).trans (List.map_id _)
      split
      next he => exact r.take_duplicate n d (h r hr he)
      next => rfl
    rw [State.changeRecord, kept]
  unfold State.takeReport
  split
  · rfl
  next r found =>
    have heard := h r (List.mem_of_find?_eq_some found) (by simpa using List.find?_some found)
    simp [same, heard]

/-- What this station's own report does to the window and the gaps. -/
theorem State.takeReport_entered (s : State) (e : OutEntry) : OwnReportEntered s (s.takeReport s.own e.epoch e.deltas) e := by
  refine ⟨fun r held unheard => ?_, fun h => ?_, ?_⟩
  · obtain ⟨heard, expected, sums, late, applied, -⟩ := r.take_new s.own e.deltas unheard
    refine ⟨⟨r.take s.own e.deltas, ?_, heard, expected, sums, late, r.take_state _ _ unheard, applied⟩, fun folded => ?_,
      fun open_ => ?_⟩
    · rw [s.takeReport_record, held, Option.map_some]
    · simp [State.takeReport, held, folded, unheard]
    · simp [State.takeReport, held, open_]
  · rw [s.takeReport_heard _ _ _ h]
    exact ⟨rfl, rfl⟩
  · unfold State.takeReport
    split
    · rfl
    · dsimp only
      split <;> rfl

theorem State.takeReport_agreement (s : State) (n : Station) (e : Epoch) (d : List (BitVec 16)) :
    (s.takeReport n e d).pool.agreement = s.pool.agreement := by
  unfold State.takeReport
  split
  · rfl
  · dsimp only
    split <;> rfl

/-! ### The outbox entry of an epoch -/

theorem outEntry_congr {s t : State} (h : t.builder.outbox = s.builder.outbox) (e : Epoch) : t.outEntry e = s.outEntry e := by
  simp only [State.outEntry, h]

/-- The outbox entry of an epoch whose entries were changed by an update that keeps the epoch. -/
theorem outEntry_changed {s t : State} {e : Epoch} {f : OutEntry → OutEntry} (keeps : ∀ x, (f x).epoch = x.epoch)
    (ht : t.builder.outbox = s.builder.outbox.map (fun x => if x.epoch = e then f x else x)) :
    t.outEntry e = (s.outEntry e).map f := by
  simp only [State.outEntry, ht]
  induction s.builder.outbox with
  | nil => rfl
  | cons x l ih =>
    by_cases hx : x.epoch = e
    · simp [hx, keeps]
    · simp [hx, ih]

theorem State.countResend_outEntry (s : State) (e : Epoch) : (s.countResend e).outEntry e = (s.outEntry e).map
    (fun x => { x with resends := if x.resends < 255 then x.resends + 1 else 255 }) :=
  outEntry_changed (fun _ => rfl) rfl

theorem State.markTransmitted_outEntry (s : State) (e : Epoch) : (s.markTransmitted e).outEntry e = (s.outEntry e).map
    (fun x => { x with transmitted := true, designated := false }) :=
  outEntry_changed (fun _ => rfl) rfl

/-- A RESEND of a transmitted entry only counts (R60). -/
theorem State.resendOut_transmitted (s : State) {e : OutEntry} (found : s.outEntry e.epoch = some e)
    (sent : e.transmitted = true) : s.resendOut e.epoch = s.countResend e.epoch := by
  simp [State.resendOut, found, sent]

theorem State.resent_outEntry (s : State) {e : OutEntry} (found : s.outEntry e.epoch = some e) :
    ((s.countResend e.epoch).markTransmitted e.epoch).outEntry e.epoch = some
      { e with transmitted := true, designated := false, resends := if e.resends < 255 then e.resends + 1 else 255 } := by
  rw [State.markTransmitted_outEntry, State.countResend_outEntry, found]
  rfl

/-- A RESEND of an untransmitted entry enters the window as this station's report (R60, R69). -/
theorem State.resendOut_first (s : State) {e : OutEntry} (found : s.outEntry e.epoch = some e)
    (unsent : e.transmitted = false) : s.resendOut e.epoch =
      ((s.countResend e.epoch).markTransmitted e.epoch).takeReport s.own e.epoch e.deltas := by
  simp only [State.resendOut, found, unsent, State.enterOwnReport, s.resent_outEntry found]
  rfl

/-! ### The frame's end -/

/-- The line once a frame of the send queue has gone out whole (R19, R25, R33). -/
theorem State.queueFrameOut_eq (s : State) (x : Tx) (key : QKey) : s.queueFrameOut x key =
    { s with
      now := s.due (s.txEnd x)
      line := { s.line with
        tx := none, state := .idle (s.due (s.txEnd x)), overlap := false, taken := false
        queue := if x.changed then s.line.queue else s.line.queue.filter (fun e => e.key != key) } } := by
  unfold State.queueFrameOut State.frameOut
  rw [State.until_eq]
  split <;> rfl

theorem State.whenSent_eq (s : State) {x : Tx} {key : QKey} (f : State → State) (sends : s.line.tx = some x)
    (owner : x.owner = .queue key) : s.whenSent key f = f (s.queueFrameOut x key) := by
  simp [State.whenSent, sends, owner]

/-- Settles O25: the frame's end, then what each owner does with it. -/
theorem queueFramesAreSent : Obligations.QueueFramesAreSent := by
  unfold Obligations.QueueFramesAreSent
  intro s x key ready sends owner line t
  have ended : s.queueFrameOut x key = t := s.queueFrameOut_eq x key
  have sent (f : State → State) : s.whenSent key f = f t := by rw [s.whenSent_eq f sends owner, ended]
  refine ⟨?_, ?_, ?_, ?_, ?_⟩
  · rintro rfl
    exact ready.inside (f := fun y => y.whenSent .snapshot fun z => z) (sent _) ready
  · rintro n rfl
    have effect : s.adjustSent = t := by simp only [State.adjustSent, sends, owner, sent]
    exact ready.inside effect ready
  · rintro rfl
    exact ready.inside (f := fun y => y.whenSent .request fun z => z) (sent _) ready
  · rintro rfl
    exact ready.inside (f := fun y => y.whenSent .join State.joinOut) (sent _) ready
  · rintro e rfl found
    have effect : s.resendSent = t.resendOut e.epoch := by simp only [State.resendSent, sends, owner, sent]
    cases sentBefore : e.transmitted with
    | true =>
      have counts : t.resendOut e.epoch = t.countResend e.epoch := t.resendOut_transmitted found sentBefore
      have entry : (t.countResend e.epoch).outEntry e.epoch = some
          { e with resends := if e.resends < 255 then e.resends + 1 else 255 } := by
        rw [State.countResend_outEntry]; exact congrArg _ found
      exact ⟨_, ready.inside (effect.trans counts) ready, rfl, rfl, rfl, ⟨_, entry, sentBefore, rfl, rfl, nofun⟩,
        fun _ => ⟨rfl, rfl⟩, nofun, rfl, rfl, rfl, rfl, rfl, rfl, rfl⟩
    | false =>
      have enters := t.resendOut_first found sentBefore
      have entry := t.resent_outEntry found
      let m := (t.countResend e.epoch).markTransmitted e.epoch
      obtain ⟨now, -, clock, uline, roster, builder, adjust, ctl, channels, drives, port, -⟩ :=
        m.takeReport_frame s.own e.epoch e.deltas
      have stays : Ready (m.takeReport s.own e.epoch e.deltas) :=
        ready.of_same (congrArg _ ctl) (congrArg _ ctl) port (m.takeReport_agreement _ _ _) (congrArg _ drives)
      have entered : OwnReportEntered s (m.takeReport s.own e.epoch e.deltas) e := m.takeReport_entered e
      have uentry := (outEntry_congr (congrArg _ builder) e.epoch).trans entry
      exact ⟨_, ready.inside (effect.trans enters) stays, now, uline, (congrArg Builder.carry builder).trans rfl,
        ⟨_, uentry, rfl, rfl, rfl, fun _ => rfl⟩, nofun, fun _ => entered, clock, roster, adjust, ctl, channels, drives,
        port⟩

end Sys2Proof.Machine
end


section
/-! The answers to another station's REQUEST: the asked set, and what stands in the send queue after offers without parts (R31,
R32, R59, R75, R96). -/

namespace Sys2Proof.Machine

/-! ### The asked set -/

theorem addAsked_cons (asked pairs : List Pair) (p : Pair) : addAsked asked (p :: pairs) =
    addAsked (if asked.contains p || decide (32 ≤ asked.length) then asked else asked ++ [p]) pairs := rfl

/-- The asked set grows at its end, by pairs that are new to it and to each other (R75). -/
theorem addAsked_appends (asked pairs : List Pair) :
    ∃ new : List Pair, addAsked asked pairs = asked ++ new ∧ new.Nodup ∧ ∀ p ∈ new, p ∈ pairs ∧ p ∉ asked := by
  induction pairs generalizing asked with
  | nil => exact ⟨[], by simp [addAsked], .nil, by simp⟩
  | cons p t ih =>
    rw [addAsked_cons]
    split
    · obtain ⟨new, heq, nodup, fresh⟩ := ih asked
      exact ⟨new, heq, nodup, fun x hx => ⟨.tail _ (fresh x hx).1, (fresh x hx).2⟩⟩
    next admits =>
      obtain ⟨unasked, -⟩ : p ∉ asked ∧ asked.length < 32 := by simpa using admits
      obtain ⟨new, heq, nodup, fresh⟩ := ih (asked ++ [p])
      have apart (x : Pair) (hx : x ∈ new) : x ∈ t ∧ x ∉ asked ∧ x ≠ p := by simpa using fresh x hx
      refine ⟨p :: new, by rw [heq, List.append_assoc]; rfl, ?_, ?_⟩
      · exact List.nodup_cons.mpr ⟨fun hp => (apart p hp).2.2 rfl, nodup⟩
      · rintro x (_ | ⟨_, hx⟩)
        · exact ⟨.head _, unasked⟩
        · exact ⟨.tail _ (apart x hx).1, (apart x hx).2.1⟩

theorem addAsked_grows (asked pairs : List Pair) {p : Pair} (h : p ∈ asked) : p ∈ addAsked asked pairs := by
  obtain ⟨new, heq, -⟩ := addAsked_appends asked pairs
  rw [heq]
  exact List.mem_append_left _ h

/-- A set that is not full in the end has taken every pair (R75). -/
theorem addAsked_takes (asked pairs : List Pair) (room : (addAsked asked pairs).length < 32) :
    ∀ p ∈ pairs, p ∈ addAsked asked pairs := by
  induction pairs generalizing asked with
  | nil => simp
  | cons p t ih =>
    rw [addAsked_cons] at room ⊢
    refine List.forall_mem_cons.mpr ⟨addAsked_grows _ _ ?_, ih _ room⟩
    obtain ⟨new, heq, -⟩ := addAsked_appends
      (if asked.contains p || decide (32 ≤ asked.length) then asked else asked ++ [p]) t
    rw [heq, List.length_append] at room
    split at room
    next refused =>
      rw [if_pos refused]
      have : p ∈ asked ∨ 32 ≤ asked.length := by simpa using refused
      exact this.resolve_right (by omega)
    next admits =>
      rw [if_neg admits]
      simp

/-! ### Offers without parts -/

/-- The entry of a key without parts. -/
def QEntry.plain (k : QKey) : QEntry := { key := k, target := none, pairs := none }

/-- The send queue of a station in RUN after an offer without parts (R31, R32). -/
def queueOffered (q : List QEntry) (k : QKey) : List QEntry :=
  if (q.any fun e => e.key == k) || decide (8 ≤ q.length) then q else placeEntry q (.plain k)

/-- In RUN, an offer without parts to a queue not taken in this gap changes the queue alone (R32, R33). -/
theorem State.offerKey_eq (s : State) (k : QKey) (run : s.ctl.life = .run) (untaken : s.line.taken = false) :
    s.offerKey k = { s with line := { s.line with queue := queueOffered s.line.queue k } } := by
  unfold State.offerKey State.offer queueOffered
  rw [if_neg (by simp [acceptsOffer, run])]
  split
  next e found =>
    have key := List.find?_some found
    have waits : (s.line.queue.any fun e => e.key == k) = true :=
      List.any_eq_true.mpr ⟨e, List.mem_of_find?_eq_some found, key⟩
    have notes : s.line.tx.map (fun t => t.noteMerge e e) = s.line.tx := by simp [Tx.noteMerge_same]
    simp only [waits, notes, QEntry.merged_none, Bool.true_or, if_true, ite_self, List.map_id']
  next absent =>
    have none_waits : (s.line.queue.any fun e => e.key == k) = false := by simpa using absent
    by_cases room : s.line.queue.length < 8
    · rw [if_pos room, if_neg (by simp [none_waits, room]), ← untaken]
      rfl
    · rw [if_neg room, if_pos (by simp [Nat.not_lt.mp room])]

/-- The same for offers one after another. -/
theorem State.offerKeys_eq (keys : List QKey) (s : State) (run : s.ctl.life = .run) (untaken : s.line.taken = false) :
    keys.foldl State.offerKey s = { s with line := { s.line with queue := keys.foldl queueOffered s.line.queue } } := by
  induction keys generalizing s with
  | nil => rfl
  | cons k t ih => rw [List.foldl_cons, s.offerKey_eq k run untaken]; exact ih _ run untaken

/-- What stands in the queue stays as it is. -/
theorem mem_queueOffered {q : List QEntry} {k : QKey} {x : QEntry} (h : x ∈ q) : x ∈ queueOffered q k := by
  unfold queueOffered
  split
  · exact h
  · exact mem_placeEntry.mpr (.inr h)

theorem mem_queueOffered_cases {q : List QEntry} {k : QKey} {x : QEntry} (h : x ∈ queueOffered q k) :
    x ∈ q ∨ x = .plain k := by
  unfold queueOffered at h
  split at h
  · exact .inl h
  · exact (mem_placeEntry.mp h).symm

theorem queueOffered_full {q : List QEntry} (k : QKey) (h : 8 ≤ q.length) : queueOffered q k = q := by
  simp [queueOffered, h]

theorem queueOffered_length (q : List QEntry) (k : QKey) : (queueOffered q k).length ≤ q.length + 1 := by
  unfold queueOffered
  split
  · omega
  · rw [placeEntry_length]

/-- With room in the queue the key waits. -/
theorem queueOffered_waits {q : List QEntry} (k : QKey) (h : q.length < 8) : ∃ x ∈ queueOffered q k, x.key = k := by
  unfold queueOffered
  split
  next waits =>
    have : (∃ x ∈ q, x.key = k) ∨ 8 ≤ q.length := by simpa using waits
    exact this.resolve_right (by omega)
  next => exact ⟨.plain k, mem_placeEntry.mpr (.inl rfl), rfl⟩

theorem mem_queueOffered_all (keys : List QKey) {q : List QEntry} {x : QEntry} (h : x ∈ q) :
    x ∈ keys.foldl queueOffered q := by
  induction keys generalizing q with
  | nil => exact h
  | cons k t ih => exact ih (mem_queueOffered h)

theorem mem_queueOffered_all_cases (keys : List QKey) {q : List QEntry} {x : QEntry} (h : x ∈ keys.foldl queueOffered q) :
    x ∈ q ∨ x = .plain x.key ∧ x.key ∈ keys := by
  induction keys generalizing q with
  | nil => exact .inl h
  | cons k t ih =>
    rcases ih h with h | ⟨plain, later⟩
    · rcases mem_queueOffered_cases h with h | rfl
      · exact .inl h
      · exact .inr ⟨rfl, .head _⟩
    · exact .inr ⟨plain, .tail _ later⟩

theorem queueOffered_all_full (keys : List QKey) {q : List QEntry} (h : 8 ≤ q.length) : keys.foldl queueOffered q = q := by
  induction keys with
  | nil => rfl
  | cons k t ih => rw [List.foldl_cons, queueOffered_full k h, ih]

/-- With room for all of them every key waits in the end. -/
theorem queueOffered_all_waits (keys : List QKey) {q : List QEntry} (h : q.length + keys.length ≤ 8) :
    ∀ k ∈ keys, ∃ x ∈ keys.foldl queueOffered q, x.key = k := by
  induction keys generalizing q with
  | nil => simp
  | cons k t ih =>
    rw [List.length_cons] at h
    have longer := queueOffered_length q k
    refine List.forall_mem_cons.mpr ⟨?_, ih (by omega)⟩
    obtain ⟨x, waits, key⟩ := queueOffered_waits k (q := q) (by omega)
    exact ⟨x, mem_queueOffered_all t waits, key⟩

/-! ### The REQUEST -/

/-- The keys under which the pairs of a REQUEST are answered, in the order of their offers (R59). -/
def State.resendKeys (s : State) (pairs : List Pair) : List QKey :=
  (pairs.filter (fun p => p.station == stationByte s.own && s.builder.outbox.any (fun e => e.epoch == p.epoch))).map
    (fun p => .resend p.epoch)

/-- The key under which a snapshot request is answered, if it is (R96). -/
def State.snapshotKeys (s : State) (target : Option Byte) : List QKey :=
  if target = some (stationByte s.own) ∧ s.pool.agreement = .agreed then [.snapshot] else []

/-- The keys under which REQUEST f is answered. -/
def State.answerKeys (s : State) (f : RequestFrame) : List QKey := s.resendKeys f.pairs ++ s.snapshotKeys f.target

theorem State.answerPairs_eq (s : State) (pairs : List Pair) :
    s.answerPairs pairs = (s.resendKeys pairs).foldl State.offerKey s := by
  rw [State.resendKeys, List.foldl_map]
  rfl

theorem State.answerTarget_eq (s : State) (target : Option Byte) :
    s.answerTarget target = (s.snapshotKeys target).foldl State.offerKey s := by
  unfold State.answerTarget State.snapshotKeys
  split <;> rfl

theorem State.mem_answerKeys (s : State) (f : RequestFrame) (k : QKey) : k ∈ s.answerKeys f ↔
    (∃ p ∈ f.pairs, p.station = stationByte s.own ∧ (∃ e ∈ s.builder.outbox, e.epoch = p.epoch) ∧
      k = .resend p.epoch) ∨
    (k = .snapshot ∧ f.target = some (stationByte s.own) ∧ s.pool.agreement = .agreed) := by
  rw [State.answerKeys, List.mem_append]
  refine or_congr ?_ ?_
  · simp only [State.resendKeys, List.mem_map, List.mem_filter, Bool.and_eq_true, beq_iff_eq, List.any_eq_true, and_assoc,
      eq_comm (a := k)]
  · unfold State.snapshotKeys
    split <;> simp_all

theorem State.answerKeys_length (s : State) (f : RequestFrame) : (s.answerKeys f).length ≤ f.pairs.length + 1 := by
  rw [State.answerKeys, State.resendKeys, List.length_append, List.length_map]
  refine Nat.add_le_add (List.length_filter_le _ _) ?_
  unfold State.snapshotKeys
  split <;> simp

/-- In RUN a REQUEST of another station fills the asked set and offers its answers, and changes nothing else (R59, R75,
R96). -/
theorem State.requestIn_run (s : State) (f : RequestFrame) (overlap : Bool) (other : f.sender ≠ s.own)
    (run : s.ctl.life = .run) (untaken : s.line.taken = false) : s.requestIn f overlap =
      { s with
        window := { s.window with asked := addAsked s.window.asked f.pairs }
        line := { s.line with queue := (s.answerKeys f).foldl queueOffered s.line.queue } } := by
  have stranger : s.ownNumber f.sender overlap = s := if_neg fun h => other h.1
  unfold State.requestIn
  simp only [stranger, if_pos run]
  rw [State.answerPairs_eq, s.offerKeys_eq _ run untaken, State.answerTarget_eq, State.offerKeys_eq]
  · rw [State.answerKeys, List.foldl_append]
    rfl
  · exact run
  · exact untaken

/-- Outside RUN a REQUEST of another station does nothing (R59, R75, R96). -/
theorem State.requestIn_aside (s : State) (f : RequestFrame) (overlap : Bool) (other : f.sender ≠ s.own)
    (aside : s.ctl.life ≠ .run) : s.requestIn f overlap = s := by
  have stranger : s.ownNumber f.sender overlap = s := if_neg fun h => other h.1
  simp only [State.requestIn, stranger, if_neg aside]

/-- Settles O44: the asked set by induction on the pairs, the send queue as the offers of the answers leave it. -/
theorem requestsAreAnswered : Obligations.RequestsAreAnswered := by
  unfold Obligations.RequestsAreAnswered
  refine ⟨fun asked pairs => ?_, ?_⟩
  · obtain ⟨new, grows, nodup, fresh⟩ := addAsked_appends asked pairs
    exact ⟨new, grows, nodup, fresh, addAsked_length asked pairs, addAsked_takes asked pairs⟩
  · intro s dt f ready takes wf other answers
    have comes := s.frameIn_outside dt (.request f) (fun overlap s => s.requestIn f overlap) ready takes wf
    refine ⟨fun run => ?_, fun aside => ?_⟩
    · have effect := (s.heard dt).requestIn_run f s.line.overlap other run rfl
      have stays : Ready ((s.heard dt).requestIn f s.line.overlap) := by rw [effect]; exact ready
      rw [stays.finish, effect] at comes
      have keys (k : QKey) : k ∈ (s.heard dt).answerKeys f ↔ answers k := (s.heard dt).mem_answerKeys f k
      refine ⟨_, comes, rfl, rfl, rfl, fun q waits => mem_queueOffered_all _ waits, fun q waits => ?_,
        fun full => queueOffered_all_full _ full, fun room key answered => ?_, rfl, rfl, rfl, rfl, rfl, rfl, rfl, rfl, rfl⟩
      · exact (mem_queueOffered_all_cases _ waits).imp_right fun ⟨plain, offered⟩ => ⟨plain, (keys _).mp offered⟩
      · have few := (s.heard dt).answerKeys_length f
        exact queueOffered_all_waits _ (q := s.line.queue) (by omega) key ((keys key).mpr answered)
    · rw [(s.heard dt).requestIn_aside f _ other aside, (ready.heard dt).finish] at comes
      exact comes

end Sys2Proof.Machine
end


section
/-! The receiver's own steps: frames not good, what a wire brings, and what each sample of the line brings (R19 to R25). -/

namespace Sys2Proof.Machine

/-- A step from outside whose effect is the ready state t answers t. -/
theorem Ready.outside {s t : State} {dt : Nat} {f : State → State} (h : Ready s) (effect : f (s.later dt) = t)
    (ht : Ready t) : s.outside dt f = .next t := by
  subst effect
  exact s.outside_ready dt f h.1 ht

/-! ### Frames that are not good, and glitches -/

theorem exec_frameDiscarded {s : State} (h : Ready s) (dt : Nat) (bytes : List Byte) (takes : s.canReceive = true)
    (fails : checkFrame s.ctl.profile.pools bytes = none) : exec (.frameDiscarded dt bytes) s =
      .next { s.later dt with line := { s.line with
        state := .idle (s.now + dt), overlap := false, taken := false
        discarded := if s.line.discarded < 65535 then s.line.discarded + 1 else 65535 } } :=
  Ready.outside (f := fun x => x.discardFrame bytes) h (if_pos ⟨takes, fails⟩) h

theorem exec_frameAbandoned {s : State} (h : Ready s) (dt : Nat) (takes : s.canReceive = true) :
    exec (.frameAbandoned dt) s = .next { s.later dt with line := { s.line with
      state := .abandoned, overlap := false
      discarded := if s.line.discarded < 65535 then s.line.discarded + 1 else 65535 } } :=
  Ready.outside (f := State.abandonFrame) h (if_pos takes) h

theorem exec_abandonedFrameEnd {s : State} (h : Ready s) (dt : Nat) (waits : s.line.state = .abandoned)
    (listens : s.listening = true) : exec (.abandonedFrameEnd dt) s =
      .next { s.later dt with line := { s.line with state := .idle (s.now + dt), overlap := false, taken := false } } :=
  Ready.outside (f := State.abandonedEnd) h (if_pos ⟨waits, listens⟩) h

theorem exec_glitch {s : State} (h : Ready s) (dt : Nat) {x : Instant} (idle : s.line.state = .idle x)
    (listens : s.listening = true) (silent : s.line.tx = none) : exec (.glitch dt) s =
      .next { s.later dt with line := { s.line with state := .idle (s.now + dt) } } := by
  have effect : (s.later dt).glitched = { s.later dt with line := { s.line with state := .idle (s.now + dt) } } := by
    unfold State.glitched
    simp only [State.later_line, idle]
    exact if_pos ⟨listens, silent⟩
  exact Ready.outside (f := State.glitched) h effect h

/-! ### Wires -/

/-- s once the wire that came first has come, dt nanoseconds on. -/
def State.afterWire (s : State) (dt : Nat) (rest : List WireChange) : State := { s.later dt with wires := rest }

/-- The wire w comes next, before every filtered change and every sample. -/
structure State.WireFirst (s : State) (dt : Nat) (w : Wire) (rest : List WireChange) : Prop where
  ready : Ready s
  pending : s.pending = []
  wires : s.wires = { dt := dt, wire := w } :: rest
  filters : ∀ c ∈ s.filterChanges, s.now + dt < c.due
  samples : ∀ x : Instant, s.nextSample = some x → s.now + dt < x

/-- A wire that takes no command is a step with what it brings. -/
theorem State.WireFirst.step {s u : State} {dt : Nat} {w : Wire} {rest : List WireChange} (h : s.WireFirst dt w rest)
    (effect : (s.afterWire dt rest).wireTakes w = (u, none)) : step s = .next u := by
  have ready := Ready.wireTakes (s := s.afterWire dt rest) h.ready w
  have quiet : takeWire dt w { s with wires := rest } = .next ((s.afterWire dt rest).wireTakes w).1.finish :=
    takeWire_quiet dt w _ (congrArg Prod.snd effect)
  rw [effect] at ready quiet
  rw [step_tick s h.pending, tick_wire s _ rest h.wires h.filters h.samples, quiet, ready.finish]

theorem State.frameBegins_idle (s : State) {x : Instant} (idle : s.line.state = .idle x) (listens : s.listening = true)
    (silent : s.line.tx = none) : s.frameBegins = { s with line := { s.line with state := .busy } } := by
  unfold State.frameBegins
  simp only [idle, listens, silent, and_self, if_true]

theorem State.lineTakes_same (s : State) {high : Bool} (same : s.inputs.tally.high = high) : s.lineTakes high = s :=
  if_pos same

/-- s with the line's level moved at the present instant. -/
def State.moved (s : State) (high : Bool) : State :=
  { s with inputs := { s.inputs with tally := { high := high, since := s.now } } }

theorem State.lineTakes_rise (s : State) (moves : s.inputs.tally.high ≠ true) : s.lineTakes true = s.moved true := by
  unfold State.lineTakes
  rw [if_neg moves]
  exact if_pos (.inl rfl)

theorem State.lineTakes_fall (s : State) (moves : s.inputs.tally.high ≠ false) (out : s.ctl.inReset = false) :
    s.lineTakes false = (s.moved false).lineFalls := by
  unfold State.lineTakes
  rw [if_neg moves]
  exact if_neg (by simp [out])

/-- A fall that the receiver does not look at: it is off, this station sends, a frame given up is waited out, or a byte is on
its way (R21, R23). -/
theorem State.lineFalls_unseen (s : State) (h : s.ctl.life = .config ∨ s.line.tx ≠ none ∨
    s.line.state = .abandoned ∧ s.line.rx = .idle ∨
    (s.line.rx ≠ .idle ∧ ∀ (stop : Instant) (bytes : List Byte), s.line.rx ≠ .gap stop bytes)) : s.lineFalls = s := by
  unfold State.lineFalls
  split
  · rfl
  next off =>
    obtain ⟨on, silent⟩ : s.ctl.life ≠ .config ∧ s.line.tx = none := by simpa using off
    have seen := (h.resolve_left on).resolve_left (not_not.mpr silent)
    split
    next idle => exact if_pos (seen.elim And.left fun busy => absurd idle busy.1)
    next stop bytes gap => exact seen.elim (fun k => nomatch gap.symm.trans k.2) fun busy => absurd gap (busy.2 stop bytes)
    all_goals rfl

/-- A fall on an idle line: a frame begins (R19, R21). -/
theorem State.lineFalls_idle (s : State) {x : Instant} (on : s.ctl.life ≠ .config) (silent : s.line.tx = none)
    (rx : s.line.rx = .idle) (idle : s.line.state = .idle x) (listens : s.listening = true) :
    s.lineFalls = { s with line := { s.line with state := .busy, rx := .start s.now [] s.now } } := by
  unfold State.lineFalls
  rw [if_neg (by simp [on, silent])]
  simp only [rx, s.frameBegins_idle idle listens silent, idle, reduceCtorEq, if_false]
  rfl

/-- A fall after a stop bit: the next byte begins (R20, R21). -/
theorem State.lineFalls_gap (s : State) {stop : Instant} {bytes : List Byte} (on : s.ctl.life ≠ .config)
    (silent : s.line.tx = none) (rx : s.line.rx = .gap stop bytes) :
    s.lineFalls = { s with line := { s.line with rx := .start s.now bytes stop } } := by
  unfold State.lineFalls
  rw [if_neg (by simp [on, silent])]
  simp only [rx]
  rfl

/-! ### Samples -/

/-- A sample is the next thing to come. -/
structure State.SampleFirst (s : State) (x : Instant) : Prop where
  ready : Ready s
  first : FirstAt s x
  due : s.nextSample = some x

/-- A sample that brings no command moves the receiver. -/
theorem State.SampleFirst.step_quiet {s u : State} {x : Instant} (h : s.SampleFirst x)
    (effect : (s.atSample x).sample = (u, none)) : step s = .next u := by
  have ready := Ready.sample (s := s.atSample x) h.ready
  rw [effect] at ready
  rw [step_tick s h.first.1, tick_sample s x h.due h.first, takeSample_quiet x s (congrArg Prod.snd effect), effect,
    ready.finish]

/-- A sample that brings a command has it executed as of its instant. -/
theorem State.SampleFirst.step_command {s u v : State} {x at_ : Instant} {c : Instr} (h : s.SampleFirst x)
    (effect : (s.atSample x).sample = (v, some (c, at_))) (hu : exec c { v with now := at_ } = .next u) :
    step s = .next { u.idleFromGlitch s.inputs.tally with now := s.due x } := by
  rw [step_tick s h.first.1, tick_sample s x h.due h.first,
    takeSample_command x s u c at_ (congrArg Prod.snd effect) ((congrArg Prod.fst effect) ▸ hu)]

/-! ### Samples of the receiver -/

/-- The receiver may sample at x: it is on, this station sends nothing, and nothing else comes before (R21, R23). -/
structure State.Receiving (s : State) (x : Instant) : Prop where
  ready : Ready s
  first : FirstAt s x
  on : s.ctl.life ≠ .config
  silent : s.line.tx = none

/-- s at the sample of instant x, its receiver gone on to rx. -/
abbrev State.sampledTo (s : State) (x : Instant) (rx : Rx) : State :=
  { s.atSample x with line := { s.line with rx := rx } }

theorem State.Receiving.sampleFirst {s : State} {x y : Instant} (h : s.Receiving x) (due : s.nextSample = some y)
    (hx : x = y) : s.SampleFirst x := ⟨h.ready, h.first, hx ▸ due⟩

theorem State.Receiving.lineHigh {s : State} {x : Instant} (h : s.Receiving x) :
    (s.atSample x).lineHigh = s.inputs.tally.high := State.lineHigh_silent _ h.silent

/-- The frame in progress is given up, counted and waited out (R21, R24). -/
theorem State.SampleFirst.gives_up {s : State} {x : Instant} (h : s.SampleFirst x)
    (effect : (s.atSample x).sample = (s.atSample x).rxGivesUp) (takes : s.canReceive = true) :
    step s = .next { s.atSample x with line := s.line.gaveUp } :=
  h.step_command effect (exec_frameAbandoned (s := s.sampledTo x .wait) h.ready 0 takes)

section start

variable {s : State} {x fall stop : Instant} {bytes : List Byte}

theorem State.Receiving.start_due (h : s.Receiving x) (rx : s.line.rx = .start fall bytes stop)
    (hx : x = fall + s.bits 1 / 2) : s.SampleFirst x := by
  refine h.sampleFirst ?_ hx
  rw [s.nextSample_rx h.ready.1 h.on h.silent, rx]

theorem State.Receiving.start_sample (h : s.Receiving x) (rx : s.line.rx = .start fall bytes stop) :
    (s.atSample x).sample = (s.atSample x).sampleStart fall bytes stop := by
  have silent : (s.atSample x).line.tx = none := h.silent
  have place : (s.atSample x).line.rx = .start fall bytes stop := rx
  simp only [State.sample, silent, place]

/-- A dominant start bit begins the next byte (R20, R21). -/
theorem State.Receiving.start_begins (h : s.Receiving x) (rx : s.line.rx = .start fall bytes stop)
    (hx : x = fall + s.bits 1 / 2) (low : s.inputs.tally.high = false) (room : bytes.length < 64) :
    step s = .next (s.sampledTo x (.data fall [] bytes)) := by
  refine (h.start_due rx hx).step_quiet ((h.start_sample rx).trans ?_)
  unfold State.sampleStart
  rw [h.lineHigh, low, if_neg (by simp), if_neg (Nat.not_le.mpr room)]
  rfl

/-- The 65th byte makes the frame too long (R20, R21). -/
theorem State.Receiving.start_long (h : s.Receiving x) (rx : s.line.rx = .start fall bytes stop)
    (hx : x = fall + s.bits 1 / 2) (low : s.inputs.tally.high = false) (full : 64 ≤ bytes.length)
    (takes : s.canReceive = true) : step s = .next { s.atSample x with line := s.line.gaveUp } := by
  refine (h.start_due rx hx).gives_up ((h.start_sample rx).trans ?_) takes
  unfold State.sampleStart
  rw [h.lineHigh, low, if_neg (by simp), if_pos full]

/-- A glitch between two bytes of a frame leaves the receiver after the byte before (R19, R21). -/
theorem State.Receiving.start_glitch_within (h : s.Receiving x) (rx : s.line.rx = .start fall bytes stop)
    (hx : x = fall + s.bits 1 / 2) (high : s.inputs.tally.high = true) (within : bytes ≠ []) :
    step s = .next (s.sampledTo x (.gap stop bytes)) := by
  refine (h.start_due rx hx).step_quiet ((h.start_sample rx).trans ?_)
  unfold State.sampleStart
  rw [h.lineHigh, high, if_pos rfl, if_neg within]
  rfl

/-- A glitch on an idle line restarts the idle time from its end (R19, R21). -/
theorem State.Receiving.start_glitch_idle (h : s.Receiving x) (rx : s.line.rx = .start fall [] stop)
    (hx : x = fall + s.bits 1 / 2) (high : s.inputs.tally.high = true) (busy : s.line.state = .busy)
    (listens : s.listening = true) : step s = .next { s.atSample x with line := { s.line with
      rx := .idle, state := .idle s.inputs.tally.since } } := by
  let idle : State := { s.atSample x with line := { s.line with rx := .idle, state := .idle fall } }
  have effect : (s.atSample x).sampleStart fall [] stop = (idle, some (.glitch 0, s.inputs.tally.since)) := by
    unfold State.sampleStart
    rw [h.lineHigh, high, if_pos rfl, if_pos rfl]
    exact congrArg (·, some (Instr.glitch 0, s.inputs.tally.since)) (if_pos ⟨busy, listens⟩)
  have glitch := exec_glitch (s := { idle with now := s.inputs.tally.since }) h.ready 0 rfl listens h.silent
  refine ((h.start_due rx hx).step_command ((h.start_sample rx).trans effect) glitch).trans ?_
  simp [State.idleFromGlitch, high, idle]

end start

section data

variable {s : State} {x fall : Instant} {bits : List Bool} {bytes : List Byte}

theorem State.Receiving.data_due (h : s.Receiving x) (rx : s.line.rx = .data fall bits bytes)
    (hx : x = fall + s.bits (2 * (bits.length : Int) + 3) / 2) : s.SampleFirst x := by
  refine h.sampleFirst ?_ hx
  rw [s.nextSample_rx h.ready.1 h.on h.silent, rx]

theorem State.Receiving.data_sample (h : s.Receiving x) (rx : s.line.rx = .data fall bits bytes) :
    (s.atSample x).sample = (s.atSample x).sampleData fall bits bytes := by
  have silent : (s.atSample x).line.tx = none := h.silent
  have place : (s.atSample x).line.rx = .data fall bits bytes := rx
  simp only [State.sample, silent, place]

/-- A data bit enters behind those before it (R20, R21). -/
theorem State.Receiving.data_bit (h : s.Receiving x) (rx : s.line.rx = .data fall bits bytes)
    (hx : x = fall + s.bits (2 * (bits.length : Int) + 3) / 2) (short : bits.length < 8) :
    step s = .next (s.sampledTo x (.data fall (bits ++ [s.inputs.tally.high]) bytes)) := by
  refine (h.data_due rx hx).step_quiet ((h.data_sample rx).trans ?_)
  unfold State.sampleData
  rw [if_pos short, h.lineHigh]
  rfl

/-- A recessive stop bit ends the byte (R20, R21). -/
theorem State.Receiving.data_stop (h : s.Receiving x) (rx : s.line.rx = .data fall bits bytes)
    (hx : x = fall + s.bits (2 * (bits.length : Int) + 3) / 2) (full : bits.length = 8)
    (high : s.inputs.tally.high = true) :
    step s = .next (s.sampledTo x (.gap (fall + s.bits 10) (bytes ++ [flagsByte bits]))) := by
  refine (h.data_due rx hx).step_quiet ((h.data_sample rx).trans ?_)
  unfold State.sampleData
  rw [if_neg (by omega), h.lineHigh, if_pos high]
  rfl

/-- A dominant stop bit gives the frame up (R21). -/
theorem State.Receiving.data_fault (h : s.Receiving x) (rx : s.line.rx = .data fall bits bytes)
    (hx : x = fall + s.bits (2 * (bits.length : Int) + 3) / 2) (full : bits.length = 8)
    (low : s.inputs.tally.high = false) (takes : s.canReceive = true) :
    step s = .next { s.atSample x with line := s.line.gaveUp } := by
  refine (h.data_due rx hx).gives_up ((h.data_sample rx).trans ?_) takes
  unfold State.sampleData
  rw [if_neg (by omega), h.lineHigh, if_neg (by simp [low])]

end data

/-- The command that a frame's end brings is always taken (R22, R23). -/
theorem exec_frameEnded (k : Nat) (bytes : List Byte) (s : State) : ∃ u, exec (frameEnded k bytes) s = .next u := by
  unfold frameEnded
  split
  next f _ => cases f <;> exact ⟨_, rfl⟩
  next => exact ⟨_, rfl⟩

theorem frameEnded_unique {k : Nat} {bytes : List Byte} {c : Instr}
    (good : ∀ f : Frame, checkFrame k bytes = some f → c = f.received 0)
    (fails : checkFrame k bytes = none → c = .frameDiscarded 0 bytes) : c = frameEnded k bytes := by
  unfold frameEnded
  split
  next f checked => exact good f checked
  next checked => exact fails checked

/-- A glitch after the frame's last stop bit moves the idle time alone (R19). -/
theorem State.idleFromGlitch_eq (s : State) (p : Pin) :
    s.idleFromGlitch p = { s with line := { s.line with state := (s.idleFromGlitch p).line.state } } := by
  unfold State.idleFromGlitch
  split <;> rfl

theorem State.idleFromGlitch_idle (s : State) {p : Pin} {y : Instant} (high : p.high = true)
    (idle : s.line.state = .idle y) : (s.idleFromGlitch p).line.state = .idle (max y p.since) := by
  simp [State.idleFromGlitch, idle, high]

theorem State.idleFromGlitch_other (s : State) (p : Pin) (h : ∀ y : Instant, s.line.state ≠ .idle y) :
    s.idleFromGlitch p = s := by
  unfold State.idleFromGlitch
  split
  next y idle => exact absurd idle (h y)
  all_goals rfl

/-- While the line is dominant no idle time runs on (R19). -/
theorem State.idleFromGlitch_low (s : State) {p : Pin} (low : p.high = false) : s.idleFromGlitch p = s := by
  unfold State.idleFromGlitch
  split
  next y idle => simp [low, ← idle]
  all_goals rfl

/-- The line has been recessive for 3 bit times after a stop bit: the frame ends, as of the end of that bit (R20, R22). -/
theorem State.Receiving.gap_ends {s : State} {x stop : Instant} {bytes : List Byte} (h : s.Receiving x)
    (rx : s.line.rx = .gap stop bytes) (high : s.inputs.tally.high = true)
    (hx : x = max stop s.inputs.tally.since + s.bits 3) {u : State}
    (hu : exec (frameEnded s.ctl.profile.pools bytes) { s.sampledTo x .idle with now := stop } = .next u) :
    step s = .next { u.idleFromGlitch s.inputs.tally with now := s.due x } := by
  have due : s.nextSample = some (max stop s.inputs.tally.since + s.bits 3) := by
    rw [s.nextSample_rx h.ready.1 h.on h.silent, rx, high]
    rfl
  have effect : (s.atSample x).sample = (s.sampledTo x .idle, some (frameEnded s.ctl.profile.pools bytes, stop)) := by
    have silent : (s.atSample x).line.tx = none := h.silent
    have place : (s.atSample x).line.rx = .gap stop bytes := rx
    simp only [State.sample, silent, place]
    rfl
  exact (h.sampleFirst due hx).step_command effect hu

/-- The line has been recessive for 3 bit times: a frame given up has ended (R21). -/
theorem State.Receiving.wait_ends {s : State} {x : Instant} (h : s.Receiving x) (rx : s.line.rx = .wait)
    (high : s.inputs.tally.high = true) (hx : x = s.inputs.tally.since + s.bits 3) (waits : s.line.state = .abandoned)
    (listens : s.listening = true) : step s = .next { s.atSample x with line := { s.line with
      rx := .idle, state := .idle x, overlap := false, taken := false } } := by
  have due : s.nextSample = some (s.inputs.tally.since + s.bits 3) := by
    rw [s.nextSample_rx h.ready.1 h.on h.silent, rx, high]
    rfl
  have effect : (s.atSample x).sample = (s.sampledTo x .idle, some (.abandonedFrameEnd 0, x)) := by
    have silent : (s.atSample x).line.tx = none := h.silent
    have place : (s.atSample x).line.rx = .wait := rx
    simp only [State.sample, silent, place]
    exact congrArg (fun y => (s.sampledTo x .idle, some (Instr.abandonedFrameEnd 0, y))) hx.symm
  have ended := exec_abandonedFrameEnd (s := { s.sampledTo x .idle with now := x }) h.ready 0 waits listens
  have since : s.inputs.tally.since ≤ x := by
    have bits : 0 ≤ s.bits 3 := by unfold State.bits bitTime; split <;> decide
    exact hx ▸ le_add_of_nonneg_right bits
  refine ((h.sampleFirst due hx).step_command effect ended).trans ?_
  simp [State.idleFromGlitch, high, since]

/-! ### Arbitration -/

/-- The next bit that this station sends recessive and has yet to sample. -/
theorem State.nextRecessive_first (s : State) {y : Tx} {k : Nat} (bit : y.frame.lineBits[k]? = some true)
    (due : s.now ≤ s.bitSampled y k)
    (before : ∀ j : Nat, j < k → y.frame.lineBits[j]? = some true → s.bitSampled y j < s.now) :
    s.nextRecessive y = some k := by
  obtain ⟨within, recessive⟩ := List.getElem?_eq_some_iff.mp bit
  have found : y.frame.lineBits.zipIdx.find? (fun p => p.1 && decide (s.now ≤ s.bitSampled y p.2)) = some (true, k) := by
    refine List.find?_eq_some_iff_getElem.mpr ⟨by simpa using due, k, by simpa using within, by simp [recessive], ?_⟩
    intro j hj
    have sent := before j hj
    rw [List.getElem?_eq_getElem (hj.trans within)] at sent
    simpa [imp_iff_not_or] using sent
  rw [State.nextRecessive, found]
  rfl

/-- Losing arbitration takes no time. -/
theorem State.arbitrationLost_now (s : State) : s.arbitrationLost.now = s.now := by
  unfold State.arbitrationLost
  split
  · rfl
  · dsimp only
    split
    · rw [(State.countConflict_frame _).1, (State.offerKey_frame _ _).1]; rfl
    · rfl
    · rfl

theorem exec_arbitrationLost_now {s u : State} (out : s.ctl.inReset = false) (hu : exec (.arbitrationLost 0) s = .next u) :
    u.now = s.now := by
  have comes : exec (.arbitrationLost 0) s = .next (s.later 0).arbitrationLost.finish := s.outside_eq 0 _ out
  obtain rfl : (s.later 0).arbitrationLost.finish = u := by simpa using comes.symm.trans hu
  rw [State.finish_frame _ |>.1, State.arbitrationLost_now]
  exact Int.add_zero _

/-- A transmitter that reads dominant where it sends recessive has lost arbitration at that sample, and its receiver goes on
from the bits before (R25). -/
theorem State.loses_at_sample (s : State) {x : Instant} {y : Tx} {k : Nat} (ready : Ready s) (first : FirstAt s x)
    (on : s.ctl.life ≠ .config) (sends : s.line.tx = some y) (low : s.inputs.tally.high = false)
    (bit : y.frame.lineBits[k]? = some true) (hx : x = s.bitSampled y k) (ahead : s.now ≤ x)
    (before : ∀ j : Nat, j < k → y.frame.lineBits[j]? = some true → s.bitSampled y j < s.now) :
    ∃ u, step s = .next u ∧ exec (.arbitrationLost 0) (s.sampledTo x (s.rxAfter y k)) = .next u := by
  have due : s.nextSample = some x := by
    rw [s.nextSample_tx y ready.1 on sends low, s.nextRecessive_first bit (hx ▸ ahead) before, hx]
    rfl
  have now : s.due x = x := max_eq_right ahead
  have again : (s.atSample x).nextRecessive y = some k :=
    (s.atSample x).nextRecessive_first bit (by rw [State.atSample_now, now, hx]; rfl) fun j hj sent =>
      (before j hj sent).trans_le (by rw [State.atSample_now, now]; exact ahead)
  have effect : (s.atSample x).sample = (s.sampledTo x (s.rxAfter y k), some (.arbitrationLost 0, s.due x)) := by
    have sending : (s.atSample x).line.tx = some y := sends
    simp only [State.sample, sending, again]
    rfl
  have lost : ∃ u, exec (.arbitrationLost 0) (s.sampledTo x (s.rxAfter y k)) = .next u := ⟨_, rfl⟩
  obtain ⟨u, hu⟩ := lost
  have unow : u.now = s.due x := exec_arbitrationLost_now (s := s.sampledTo x (s.rxAfter y k)) ready.1 hu
  have stepped := State.SampleFirst.step_command ⟨ready, first, due⟩ effect hu
  rw [u.idleFromGlitch_low low, ← unow] at stepped
  exact ⟨u, stepped, hu⟩

/-- Settles O27: the commands of frames not good and of glitches, then each wire and each sample in turn. -/
theorem receiverCounts : Obligations.ReceiverCounts := by
  unfold Obligations.ReceiverCounts
  refine ⟨fun s dt ready => ⟨fun bytes => exec_frameDiscarded ready dt bytes, exec_frameAbandoned ready dt,
    exec_abandonedFrameEnd ready dt, fun x => exec_glitch ready dt⟩, ?_, ?_, ?_⟩
  · intro s dt w rest ready pending wires filters samples t moved falls
    have next : s.WireFirst dt w rest := ⟨ready, pending, wires, filters, samples⟩
    refine ⟨?_, ?_, ?_, ?_, ?_⟩
    · rintro x rfl idle listens silent
      refine next.step (congrArg (·, none) ?_)
      exact (if_neg (ne_true_of_eq_false ready.1)).trans (State.frameBegins_idle _ idle listens silent)
    · rintro high rfl same
      exact next.step (congrArg (·, none) (State.lineTakes_same _ same))
    · rintro x ⟨rfl, high, on, silent⟩ rx idle listens
      refine next.step (congrArg (·, none) ?_)
      exact ((s.afterWire dt rest).lineTakes_fall (ne_false_of_eq_true high) ready.1).trans
        (State.lineFalls_idle _ on silent rx idle listens)
    · rintro stop bytes ⟨rfl, high, on, silent⟩ rx
      refine next.step (congrArg (·, none) ?_)
      exact ((s.afterWire dt rest).lineTakes_fall (ne_false_of_eq_true high) ready.1).trans (State.lineFalls_gap _ on silent rx)
    · rintro high rfl moves unseen
      refine next.step (congrArg (·, none) ?_)
      cases high with
      | true => exact (s.afterWire dt rest).lineTakes_rise moves
      | false =>
        have away := unseen.resolve_left Bool.false_ne_true
        exact ((s.afterWire dt rest).lineTakes_fall moves ready.1).trans (State.lineFalls_unseen _ away)
  · intro s x ready first on silent t at_ high since
    have next : s.Receiving x := ⟨ready, first, on, silent⟩
    refine ⟨fun fall bytes stop rx hx => ?_, fun fall bits bytes rx hx => ?_, ?_, next.wait_ends⟩
    · refine ⟨next.start_begins rx hx, next.start_long rx hx, next.start_glitch_within rx hx, ?_⟩
      rintro recessive rfl busy listens
      exact next.start_glitch_idle rx hx recessive busy listens
    · exact ⟨next.data_bit rx hx, next.data_stop rx hx, next.data_fault rx hx⟩
    · intro stop bytes c rx recessive hx good fails
      obtain rfl := frameEnded_unique good fails
      obtain ⟨u, hu⟩ := exec_frameEnded s.ctl.profile.pools bytes { s.sampledTo x .idle with now := stop }
      refine ⟨u, _, hu, next.gap_ends rx recessive hx hu, ?_, fun y => u.idleFromGlitch_idle recessive, fun other => ?_⟩
      · rw [u.idleFromGlitch_eq]
      · rw [u.idleFromGlitch_other _ other]
  · intro s x y k ready first on sends sampled low bit hx ahead before
    exact s.loses_at_sample ready first on sends low bit hx ahead before

end Sys2Proof.Machine
end


section
/-! The wanted pairs of a slot-phase end: which they are, and their order (R74, R86). -/

namespace Sys2Proof.Machine

/-! ### The order of gaps -/

/-- Gap a comes before gap b: an older epoch at the epoch cur, or the lower station of one epoch (R74, R86). -/
def Gap.Earlier (cur : Epoch) (a b : Gap) : Prop :=
  (cur - b.epoch).toNat < (cur - a.epoch).toNat ∨ (a.epoch = b.epoch ∧ a.station < b.station)

/-- Epoch e is at or behind cur (R3). -/
abbrev Recent (cur e : Epoch) : Prop := (cur - e).toNat ≤ 32767

theorem behind_iff {cur a b : Epoch} (ha : Recent cur a) (hb : Recent cur b) :
    behind a b = true ↔ (cur - b).toNat < (cur - a).toNat := by
  have across : a - b = (cur - b) - (cur - a) := (sub_sub_sub_cancel_left b a cur).symm
  unfold Recent at ha hb
  rw [behind, decide_eq_true_eq, across]
  clear across
  generalize cur - a = p at ha ⊢
  generalize cur - b = q at hb ⊢
  bv_omega

theorem gapBefore_iff {cur : Epoch} {a b : Gap} (ha : Recent cur a.epoch) (hb : Recent cur b.epoch) :
    gapBefore a b = true ↔ a.Earlier cur b := by
  rw [gapBefore, Bool.or_eq_true, behind_iff ha hb, Bool.and_eq_true, beq_iff_eq, decide_eq_true_eq, Gap.Earlier]

theorem Gap.Earlier.trans {cur : Epoch} {a b c : Gap} (h : a.Earlier cur b) (k : b.Earlier cur c) : a.Earlier cur c := by
  rcases h with h | ⟨e, h⟩ <;> rcases k with k | ⟨d, k⟩
  · exact .inl (k.trans h)
  · exact .inl (d ▸ h)
  · exact .inl (e ▸ k)
  · exact .inr ⟨e.trans d, h.trans k⟩

/-- Of two gaps one comes before the other. -/
theorem Gap.earlier_or (cur : Epoch) {a b : Gap} (h : a ≠ b) : a.Earlier cur b ∨ b.Earlier cur a := by
  obtain ⟨n, e⟩ := a
  obtain ⟨m, d⟩ := b
  rcases Nat.lt_trichotomy (cur - e).toNat (cur - d).toNat with older | same | newer
  · exact .inr (.inl older)
  · obtain rfl : e = d := by bv_omega
    have apart : n ≠ m := fun k => h (by rw [k])
    exact (lt_or_gt_of_ne apart).imp (fun k => .inr ⟨rfl, k⟩) fun k => .inr ⟨rfl, k⟩
  · exact .inl (.inl newer)

/-! ### Gaps that enter a list in their places -/

theorem mem_insertGap {l : List Gap} {g x : Gap} : x ∈ insertGap l g ↔ x = g ∨ x ∈ l := by
  unfold insertGap
  split
  next held => exact ⟨.inr, fun h => h.elim (fun e => by simpa [e] using held) id⟩
  next =>
    have parts := List.takeWhile_append_dropWhile (p := fun y => gapBefore y g) (l := l)
    rw [List.mem_append, List.mem_cons]
    conv_rhs => rw [← parts, List.mem_append]
    tauto

theorem insertGap_nodup {l : List Gap} (g : Gap) (h : l.Nodup) : (insertGap l g).Nodup := by
  unfold insertGap
  split
  · exact h
  next fresh =>
    have parts := List.takeWhile_append_dropWhile (p := fun y => gapBefore y g) (l := l)
    refine List.nodup_middle.mpr (List.nodup_cons.mpr ?_)
    rw [parts]
    exact ⟨by simpa using fresh, h⟩

/-- A list in order stays in order. -/
theorem insertGap_pairwise {cur : Epoch} {l : List Gap} {g : Gap} (recent : ∀ x ∈ l, Recent cur x.epoch)
    (hg : Recent cur g.epoch) (sorted : l.Pairwise (Gap.Earlier cur)) : (insertGap l g).Pairwise (Gap.Earlier cur) := by
  unfold insertGap
  split
  · exact sorted
  next fresh =>
    have unheld : g ∉ l := by simpa using fresh
    have before (x : Gap) (hx : x ∈ l.takeWhile fun y => gapBefore y g) : x.Earlier cur g :=
      (gapBefore_iff (recent x (List.takeWhile_subset _ hx)) hg).mp (List.mem_takeWhile_imp (p := fun y => gapBefore y g) hx)
    have after (x : Gap) (hx : x ∈ l.dropWhile fun y => gapBefore y g) : g.Earlier cur x := by
      have rest := sorted.sublist (List.dropWhile_sublist fun y => gapBefore y g)
      match ends : l.dropWhile fun y => gapBefore y g with
      | [] => simp [ends] at hx
      | y :: t =>
        rw [ends] at hx rest
        have held : y ∈ l := List.dropWhile_subset _ (ends ▸ List.mem_cons_self)
        have first : ¬y.Earlier cur g := fun k => by
          have := List.head_dropWhile_not (fun y => gapBefore y g) (l := l) (by simp [ends])
          simp only [ends, List.head_cons] at this
          exact Bool.false_ne_true (this.symm.trans ((gapBefore_iff (recent y held) hg).mpr k))
        have next := (Gap.earlier_or cur fun k : y = g => unheld (k ▸ held)).resolve_left first
        exact (List.mem_cons.mp hx).elim (fun e => e ▸ next) fun later => next.trans ((List.pairwise_cons.mp rest).1 x later)
    refine List.pairwise_append.mpr ⟨sorted.sublist (List.takeWhile_sublist _),
      List.pairwise_cons.mpr ⟨after, sorted.sublist (List.dropWhile_sublist _)⟩, fun a ha b hb => ?_⟩
    rcases List.mem_cons.mp hb with rfl | hb
    · exact before a ha
    · exact (before a ha).trans (after b hb)

theorem mem_insertGaps (gs l : List Gap) {x : Gap} : x ∈ gs.foldl insertGap l ↔ x ∈ gs ∨ x ∈ l := by
  induction gs generalizing l with
  | nil => simp
  | cons g t ih => rw [List.foldl_cons, ih, mem_insertGap, List.mem_cons]; tauto

theorem insertGaps_nodup (gs : List Gap) {l : List Gap} (h : l.Nodup) : (gs.foldl insertGap l).Nodup := by
  induction gs generalizing l with
  | nil => exact h
  | cons g t ih => exact ih (insertGap_nodup g h)

theorem insertGaps_pairwise {cur : Epoch} (gs : List Gap) {l : List Gap} (hgs : ∀ x ∈ gs, Recent cur x.epoch)
    (hl : ∀ x ∈ l, Recent cur x.epoch) (sorted : l.Pairwise (Gap.Earlier cur)) :
    (gs.foldl insertGap l).Pairwise (Gap.Earlier cur) := by
  induction gs generalizing l with
  | nil => exact sorted
  | cons g t ih =>
    have hg := hgs g (.head _)
    refine ih (fun x hx => hgs x (.tail _ hx)) (fun x hx => ?_) (insertGap_pairwise hl hg sorted)
    exact (mem_insertGap.mp hx).elim (fun e => e ▸ hg) (hl x)

/-! ### The wanted pairs -/

/-- The pair under which a gap is asked for (R74). -/
def Gap.pair (g : Gap) : Pair := { station := stationByte g.station, epoch := g.epoch }

/-- The unheard reports of the COLLECTING records (R74). -/
def State.unheard (s : State) : List Gap :=
  (s.window.records.filter (fun r => r.state == .collecting)).flatMap (fun r =>
    (stations.filter (fun n => mapHas r.expected n && !mapHas r.heard n)).map (fun n => { station := n, epoch := r.epoch }))

/-- The gaps and unheard reports that a slot-phase end asks for, in their order (R74). -/
def State.wantedGaps (s : State) : List Gap :=
  (((s.unheard ++ s.pool.gaps).filter (fun g => g.station != s.own)).foldl insertGap []).filter
    (fun g => !s.window.asked.contains g.pair)

theorem State.wantedPairs_eq (s : State) : s.wantedPairs = s.wantedGaps.map Gap.pair := by
  unfold State.wantedPairs State.wantedGaps
  exact List.filter_map

theorem State.mem_unheard (s : State) (g : Gap) : g ∈ s.unheard ↔ ∃ r ∈ s.window.records,
    r.state = .collecting ∧ r.epoch = g.epoch ∧ mapHas r.expected g.station = true ∧ mapHas r.heard g.station = false := by
  obtain ⟨n, e⟩ := g
  simp only [State.unheard, List.mem_flatMap, List.mem_filter, List.mem_map, beq_iff_eq, Bool.and_eq_true,
    Bool.not_eq_true', mem_stations, true_and, Gap.mk.injEq]
  constructor
  · rintro ⟨r, ⟨held, collecting⟩, m, ⟨expected, silent⟩, rfl, rfl⟩
    exact ⟨r, held, collecting, rfl, expected, silent⟩
  · rintro ⟨r, held, collecting, rfl, expected, silent⟩
    exact ⟨r, ⟨held, collecting⟩, n, ⟨expected, silent⟩, rfl, rfl⟩

theorem State.mem_wantedGaps (s : State) (g : Gap) : g ∈ s.wantedGaps ↔
    g.station ≠ s.own ∧ g.pair ∉ s.window.asked ∧ (g ∈ s.pool.gaps ∨ ∃ r ∈ s.window.records,
      r.state = .collecting ∧ r.epoch = g.epoch ∧ mapHas r.expected g.station = true ∧
        mapHas r.heard g.station = false) := by
  rw [State.wantedGaps, List.mem_filter, mem_insertGaps, List.mem_filter, List.mem_append, s.mem_unheard]
  simp only [List.not_mem_nil, or_false, bne_iff_ne, Bool.not_eq_true', List.contains_eq_mem,
    decide_eq_false_iff_not]
  exact ⟨fun ⟨⟨source, other⟩, unasked⟩ => ⟨other, unasked, source.symm⟩,
    fun ⟨other, unasked, source⟩ => ⟨⟨source.symm, other⟩, unasked⟩⟩

theorem State.wantedGaps_nodup (s : State) : s.wantedGaps.Nodup := (insertGaps_nodup _ .nil).filter _

theorem State.wantedGaps_pairwise (s : State) {cur : Epoch} (records : ∀ r ∈ s.window.records, Recent cur r.epoch)
    (gaps : ∀ g ∈ s.pool.gaps, Recent cur g.epoch) : s.wantedGaps.Pairwise (Gap.Earlier cur) := by
  refine (insertGaps_pairwise _ (fun g hg => ?_) (by simp) .nil).filter _
  rcases List.mem_append.mp (List.mem_filter.mp hg).1 with unheard | open_
  · obtain ⟨r, held, -, same, -⟩ := (s.mem_unheard g).mp unheard
    exact same ▸ records r held
  · exact gaps g open_

/-- What a slot-phase end asks for is read from the window, the gaps and the own number. -/
theorem State.wantedGaps_congr {s t : State} (window : t.window = s.window) (gaps : t.pool.gaps = s.pool.gaps)
    (ctl : t.ctl = s.ctl) : t.wantedGaps = s.wantedGaps := by
  simp only [State.wantedGaps, State.unheard, State.own, window, gaps, ctl]

end Sys2Proof.Machine
end


section
/-! What a slot-phase end in RUN does to the send queue: the offers in their order (R31 to R34, R59, R74, R93, R106, R133). -/

namespace Sys2Proof.Machine

/-! ### One offer -/

/-- The send queue after an offer is read from life-cycle state and queue (R30, R32). -/
theorem State.offer_queue_congr {a b : State} (hl : a.ctl.life = b.ctl.life) (hq : a.line.queue = b.line.queue) (k : QKey)
    (t : Option Station) (p : Option (List Pair)) : (a.offer k t p).1.line.queue = (b.offer k t p).1.line.queue := by
  unfold State.offer
  rw [hl, hq]
  split
  · exact hq
  · split
    · rfl
    · split
      · rfl
      · exact hq

/-- An offer of a key that does not wait yet (R31, R32). -/
theorem State.offer_absent_queue (s : State) {k : QKey} (t : Option Station) (p : Option (List Pair))
    (run : s.ctl.life = .run) (absent : ∀ x ∈ s.line.queue, x.key ≠ k) : (s.offer k t p).1.line.queue =
      if s.line.queue.length < 8 then placeEntry s.line.queue { key := k, target := t, pairs := p } else s.line.queue := by
  have none_waits : s.line.queue.find? (fun e => e.key == k) = none :=
    List.find?_eq_none.mpr fun x hx => by simpa using absent x hx
  unfold State.offer
  rw [if_neg (by simp [acceptsOffer, run]), none_waits]
  dsimp only
  split <;> rfl

/-- An offer of a key that waits already (R32). -/
theorem State.offer_present_queue (s : State) {k : QKey} (t : Option Station) (p : Option (List Pair))
    (run : s.ctl.life = .run) (present : ∃ x ∈ s.line.queue, x.key = k) : (s.offer k t p).1.line.queue =
      s.line.queue.map (fun x => if x.key = k then x.merged t p else x) := by
  unfold State.offer
  rw [if_neg (by simp [acceptsOffer, run])]
  split
  · rfl
  next absent =>
    obtain ⟨x, waits, key⟩ := present
    exact absurd key (by simpa using List.find?_eq_none.mp absent x waits)

/-- An offer without parts (R32). -/
theorem State.offerKey_queue (s : State) (k : QKey) (run : s.ctl.life = .run) :
    (s.offerKey k).line.queue = queueOffered s.line.queue k := by
  let untaken : State := { s with line := { s.line with taken := false } }
  have same := State.offer_queue_congr (a := s) (b := untaken) rfl rfl k none none
  exact same.trans (congrArg (fun x => x.line.queue) (untaken.offerKey_eq k run rfl))

/-- A merge into a new entry that stands alone under its key. -/
theorem placeEntry_merged {q : List QEntry} {e : QEntry} (t : Option Station) (p : Option (List Pair))
    (absent : ∀ x ∈ q, x.key ≠ e.key) :
    (placeEntry q e).map (fun x => if x.key = e.key then x.merged t p else x) = placeEntry q (e.merged t p) := by
  have others {l : List QEntry} (h : l ⊆ q) : l.map (fun x => if x.key = e.key then x.merged t p else x) = l := by
    refine (List.map_congr_left fun x hx => ?_).trans (List.map_id _)
    rw [if_neg (absent x (h hx))]
    rfl
  simp only [placeEntry, List.map_append, List.map_cons, if_true, others (List.takeWhile_subset _),
    others (List.dropWhile_subset _), QEntry.merged_key]
  rfl

/-! ### The RESENDs -/

theorem State.offerResends_queue (l : List OutEntry) (s : State) (run : s.ctl.life = .run) :
    (s.offerResends l).line.queue = (l.map fun e => .resend e.epoch).foldl queueOffered s.line.queue := by
  induction l generalizing s with
  | nil => rfl
  | cons e t ih =>
    have offered := s.offerKey_queue (.resend e.epoch) run
    rw [State.offerResends, List.map_cons, List.foldl_cons, ← offered]
    split
    · exact ih _ ((congrArg Controller.life (State.offer_frame s _ none none).2.2.2.2.2.2.2.2.1).trans run)
    next refused =>
      have full : 8 ≤ s.line.queue.length := by
        by_contra room
        exact refused (s.offer_waits (.resend e.epoch) none none (by simp [acceptsOffer, run]) (by omega)).1
      have same : (s.offerKey (.resend e.epoch)).line.queue = s.line.queue := offered.trans (queueOffered_full _ full)
      rw [queueOffered_all_full _ (same.symm ▸ full)]
      rfl

/-! ### The REQUEST -/

/-- The pool unit offers the snapshot part once at most (R92, R93). -/
def State.OffersTarget (s t : State) : Prop :=
  t.line.queue = s.line.queue ∨ ∃ n : Station, t.line.queue = (s.offer .request (some n) none).1.line.queue

theorem State.OffersTarget.after {r s t : State} (h : s.OffersTarget t) (hl : s.ctl.life = r.ctl.life)
    (hq : s.line.queue = r.line.queue) : r.OffersTarget t :=
  h.imp (fun k => k.trans hq) fun ⟨n, k⟩ => ⟨n, k.trans (State.offer_queue_congr hl hq _ _ _)⟩

theorem State.offerSnapshotPart_target (s : State) : s.OffersTarget s.offerSnapshotPart.1 := by
  unfold State.offerSnapshotPart
  split
  · exact .inl rfl
  · split
    · exact .inr ⟨_, rfl⟩
    · exact .inl rfl

theorem State.requestSnapshot_target (s : State) : s.OffersTarget s.requestSnapshot := by
  have part := s.offerSnapshotPart_target
  simp only [State.requestSnapshot]
  split
  · have line (x : State) : (x.agree .resyncing).line = x.line := by simp
    exact part.imp (fun k => (congrArg Line.queue (line _)).trans k) fun ⟨n, k⟩ =>
      ⟨n, (congrArg Line.queue (line _)).trans k⟩
  · exact part

theorem State.countNoComparison_target (s : State) : s.OffersTarget s.countNoComparison := by
  simp only [State.countNoComparison]
  split
  · exact (State.offerSnapshotPart_target _).after (by simp) (by simp)
  · exact .inl rfl

theorem State.poolPhaseEnd_target (s : State) : s.OffersTarget s.poolPhaseEnd := by
  by_cases h : s.roster.reference = some s.own
  · rw [State.poolPhaseEnd, if_pos h]
    exact .inl (by simp)
  · obtain ⟨uncertain, diverged, resyncing, settled⟩ := s.poolPhaseEnd_other h
    cases ha : s.pool.agreement with
    | none => rw [settled (.inl ha)]; exact .inl rfl
    | agreed => rw [settled (.inr ha)]; exact .inl rfl
    | uncertain => rw [uncertain ha]; exact s.refersToOther.countNoComparison_target.after rfl rfl
    | diverged => rw [diverged ha]; exact s.refersToOther.requestSnapshot_target.after rfl rfl
    | resyncing =>
      rw [resyncing ha]
      split
      · exact s.refersToOther.offerSnapshotPart_target.after rfl rfl
      · exact .inl rfl

/-- Queue b is queue a once window and pool unit have offered their parts of the REQUEST, wanted being the wanted pairs: a
itself, where nothing is wanted or it is full, or a with one new entry (R32, R74, R93). -/
def RequestOffered (a : List QEntry) (wanted : List Pair) (b : List QEntry) : Prop :=
  (b = a ∧ (wanted = [] ∨ 8 ≤ a.length)) ∨
  (a.length < 8 ∧ ∃ target : Option Station, b = placeEntry a
    { key := .request, target := target, pairs := if wanted = [] then none else some (wanted.take 4) })

theorem State.request_offered (s : State) (run : s.ctl.life = .run) (absent : ∀ x ∈ s.line.queue, x.key ≠ .request) :
    RequestOffered s.line.queue s.wantedPairs s.offerPairs.poolPhaseEnd.line.queue := by
  have pool := s.offerPairs.poolPhaseEnd_target
  have prun : s.offerPairs.ctl.life = .run := by simp [run]
  by_cases wanted : s.wantedPairs = []
  · have unasked : s.offerPairs = s := if_pos wanted
    rw [unasked] at pool ⊢
    rcases pool with same | ⟨n, offered⟩
    · exact .inl ⟨same, .inl wanted⟩
    · rw [s.offer_absent_queue _ _ run absent] at offered
      split at offered
      next room => exact .inr ⟨room, some n, by rw [offered, if_pos wanted]⟩
      next => exact .inl ⟨offered, .inl wanted⟩
  · have asks : s.offerPairs.line.queue = (s.offer .request none (some (s.wantedPairs.take 4))).1.line.queue := by
      rw [State.offerPairs, if_neg wanted]
    rw [s.offer_absent_queue _ _ run absent] at asks
    split at asks
    next room =>
      refine .inr ⟨room, ?_⟩
      rw [if_neg wanted]
      rcases pool with same | ⟨n, offered⟩
      · exact ⟨none, same.trans asks⟩
      · refine ⟨some n, ?_⟩
        rw [State.offer_present_queue _ _ _ prun (asks ▸ ⟨_, mem_placeEntry.mpr (.inl rfl), rfl⟩), asks] at offered
        exact offered.trans (placeEntry_merged (e := { key := .request, target := none, pairs := _ }) _ _ absent)
    next full =>
      refine .inl ⟨?_, .inr (Nat.not_lt.mp full)⟩
      rcases pool with same | ⟨n, offered⟩
      · exact same.trans asks
      · rw [State.offer_absent_queue _ _ _ prun (asks ▸ absent), asks, if_neg full] at offered
        exact offered

/-! ### The whole slot-phase end -/

/-- The key of the own queued adjustment, while its effective epoch is not past (R106). -/
def State.adjustKeys (s : State) : List QKey :=
  match s.adjust.queue.find? (fun a => a.originator == s.own) with
  | none => []
  | some a => if atOrBehind s.clock.cur a.effective then [.adjust a.serial] else []

/-- The key of the LEAVE, in stage LEAVING (R133). -/
def State.leaveKeys (s : State) : List QKey := if s.ctl.leave = .leaving then [.leave] else []

/-- The keys of the outbox entries that are not transmitted (R59). -/
def State.owedKeys (s : State) : List QKey :=
  (s.builder.outbox.filter (fun e => !e.transmitted)).map (fun e => .resend e.epoch)

theorem State.offerAdjust_queue (s : State) (run : s.ctl.life = .run) :
    s.offerAdjust.line.queue = s.adjustKeys.foldl queueOffered s.line.queue := by
  simp only [State.offerAdjust, State.adjustKeys]
  cases s.adjust.queue.find? (fun a => a.originator == s.own) with
  | none => rfl
  | some a =>
    dsimp only
    split
    · exact s.offerKey_queue _ run
    · rfl

theorem State.offerLeave_queue (s : State) (run : s.ctl.life = .run) :
    (if s.ctl.leave = .leaving then s.offerKey .leave else s).line.queue = s.leaveKeys.foldl queueOffered s.line.queue := by
  unfold State.leaveKeys
  split
  · exact s.offerKey_queue _ run
  · rfl

theorem State.adjustKeys_congr {s t : State} (cur : t.clock.cur = s.clock.cur) (adjust : t.adjust = s.adjust)
    (ctl : t.ctl = s.ctl) : t.adjustKeys = s.adjustKeys := by
  simp only [State.adjustKeys, State.own, cur, adjust, ctl]

/-- The send queue after the offers of a slot-phase end: RESENDs, REQUEST, ADJUST and LEAVE (R8). -/
theorem State.phaseOffers_queue (s : State) (run : s.ctl.life = .run) (absent : ∀ x ∈ s.line.queue, x.key ≠ .request) :
    ∃ b : List QEntry, RequestOffered (s.owedKeys.foldl queueOffered s.line.queue) (s.wantedGaps.map Gap.pair) b ∧
      s.phaseOffers.line.queue = (s.adjustKeys ++ s.leaveKeys).foldl queueOffered b := by
  let owed := s.offerResends (s.builder.outbox.filter (fun e => !e.transmitted))
  let asked := owed.offerPairs.poolPhaseEnd
  have queue : owed.line.queue = s.owedKeys.foldl queueOffered s.line.queue :=
    (State.offerResends_queue _ s run).trans (by rw [State.owedKeys])
  have wanted : owed.wantedGaps = s.wantedGaps := State.wantedGaps_congr (by simp [owed]) (by simp [owed]) (by simp [owed])
  have orun : owed.ctl.life = .run := by simp [owed, run]
  have unasked : ∀ x ∈ owed.line.queue, x.key ≠ .request := by
    rw [queue]
    intro x hx key
    rcases mem_queueOffered_all_cases _ hx with old | ⟨-, offered⟩
    · exact absent x old key
    · obtain ⟨e, -, resend⟩ := List.mem_map.mp (key ▸ offered)
      exact nomatch resend
  have request := owed.request_offered orun unasked
  rw [owed.wantedPairs_eq, wanted, queue] at request
  have adjusts : asked.adjustKeys = s.adjustKeys :=
    State.adjustKeys_congr (by simp [asked, owed]) (by simp [asked, owed]) (by simp [asked, owed])
  have ctl : asked.offerAdjust.ctl = s.ctl := by simp [asked, owed]
  have leaves : asked.offerAdjust.leaveKeys = s.leaveKeys := by rw [State.leaveKeys, ctl, State.leaveKeys]
  refine ⟨asked.line.queue, request, ?_⟩
  rw [List.foldl_append, ← adjusts, ← asked.offerAdjust_queue (by simp [asked, owed, run]), ← leaves]
  exact asked.offerAdjust.offerLeave_queue (by rw [ctl, run])

end Sys2Proof.Machine
end


section
/-! The send queue after a slot-phase end in RUN (R33, R34, R59, R74, R106, R133). -/

namespace Sys2Proof.Machine

/-! ### What stands in the queue -/

/-- The first key offered waits if there was room for it. -/
theorem queueOffered_all_first (k : QKey) (keys : List QKey) {q : List QEntry} (h : q.length < 8) :
    ∃ x ∈ (k :: keys).foldl queueOffered q, x.key = k := by
  obtain ⟨x, waits, key⟩ := queueOffered_waits k h
  exact ⟨x, mem_queueOffered_all keys waits, key⟩

theorem queueOffered_all_length (keys : List QKey) (q : List QEntry) :
    (keys.foldl queueOffered q).length ≤ q.length + keys.length := by
  induction keys generalizing q with
  | nil => exact le_rfl
  | cons k t ih =>
    have one := queueOffered_length q k
    have rest := ih (queueOffered q k)
    rw [List.foldl_cons, List.length_cons]
    omega

section request

variable {a b : List QEntry} {wanted : List Pair}

theorem RequestOffered.mem (h : RequestOffered a wanted b) {q : QEntry} (hq : q ∈ a) : q ∈ b := by
  rcases h with ⟨rfl, -⟩ | ⟨-, target, rfl⟩
  · exact hq
  · exact mem_placeEntry.mpr (.inr hq)

/-- What is new is the REQUEST, with the first four wanted pairs if any is wanted (R74). -/
theorem RequestOffered.mem_cases (h : RequestOffered a wanted b) {q : QEntry} (hq : q ∈ b) :
    q ∈ a ∨ (q.key = .request ∧ q.pairs = if wanted = [] then none else some (wanted.take 4)) := by
  rcases h with ⟨rfl, -⟩ | ⟨-, target, rfl⟩
  · exact .inl hq
  · exact (mem_placeEntry.mp hq).symm.imp_right fun e => by rw [e]; exact ⟨rfl, rfl⟩

theorem RequestOffered.length (h : RequestOffered a wanted b) : b.length ≤ a.length + 1 := by
  rcases h with ⟨rfl, -⟩ | ⟨-, target, rfl⟩
  · exact Nat.le_succ _
  · exact (placeEntry_length _ _).le

theorem RequestOffered.full (h : RequestOffered a wanted b) (full : 8 ≤ a.length) : b = a :=
  h.elim And.left fun ⟨room, _⟩ => absurd full (Nat.not_le.mpr room)

/-- With room in the queue wanted pairs are asked for (R74). -/
theorem RequestOffered.asks (h : RequestOffered a wanted b) (some_wanted : wanted ≠ []) (room : a.length < 8) :
    ∃ q ∈ b, q.key = .request ∧ q.pairs = some (wanted.take 4) := by
  rcases h with ⟨-, nothing | full⟩ | ⟨-, target, rfl⟩
  · exact absurd nothing some_wanted
  · exact absurd full (Nat.not_le.mpr room)
  · exact ⟨_, mem_placeEntry.mpr (.inl rfl), rfl, if_neg some_wanted⟩

end request

/-! ### The keys of a slot-phase end -/

theorem State.mem_adjustKeys {s : State} {k : QKey} (h : k ∈ s.adjustKeys) : ∃ a ∈ s.adjust.queue,
    a.originator = s.own ∧ atOrBehind s.clock.cur a.effective = true ∧ k = .adjust a.serial := by
  unfold State.adjustKeys at h
  split at h
  · exact nomatch h
  next a found =>
    split at h
    next timely =>
      exact ⟨a, List.mem_of_find?_eq_some found, by simpa using List.find?_some found, timely, List.mem_singleton.mp h⟩
    next => exact nomatch h

theorem State.mem_leaveKeys {s : State} {k : QKey} : k ∈ s.leaveKeys ↔ s.ctl.leave = .leaving ∧ k = .leave := by
  unfold State.leaveKeys
  split <;> simp [*]

theorem State.leaveKeys_length (s : State) : s.leaveKeys.length ≤ 1 := by
  unfold State.leaveKeys
  split <;> simp

theorem State.adjustKeys_length (s : State) : s.adjustKeys.length ≤ 1 := by
  unfold State.adjustKeys
  split
  · simp
  · split <;> simp

/-- With one own queued adjustment its ADJUST is offered while cur is at or behind its effective epoch (R106). -/
theorem State.adjustKeys_own (s : State) {a : Adjustment} (own : s.adjust.queue.filter (fun x => x.originator == s.own) = [a])
    (timely : atOrBehind s.clock.cur a.effective = true) : s.adjustKeys = [.adjust a.serial] := by
  have found : s.adjust.queue.find? (fun x => x.originator == s.own) = some a := by rw [← List.head?_filter, own]; rfl
  simp only [State.adjustKeys, found, if_pos timely]

/-! ### The obligation -/

/-- The send queue that a slot-phase end in RUN leaves of s (R33, R34). -/
theorem State.phaseEnd_queue (s : State) (run : s.ctl.life = .run) : ∃ b : List QEntry,
    RequestOffered (s.owedKeys.foldl queueOffered (s.line.queue.filter (fun e => e.key != .request)))
      (s.wantedGaps.map Gap.pair) b ∧
    s.phaseEnd.line.queue = (s.adjustKeys ++ s.leaveKeys).foldl queueOffered b := by
  obtain ⟨-, clock, line, builder, window, adjust, ctl, -, -⟩ := s.phaseBegun.phaseRoster_frame
  have pool := s.phaseBegun.phaseRoster_pool
  rw [s.phaseEnd_run run]
  generalize s.phaseBegun.phaseRoster = x at clock line builder window adjust ctl pool ⊢
  have queue : x.line.queue = s.line.queue.filter (fun e => e.key != .request) := congrArg Line.queue line
  have absent : ∀ e ∈ x.line.queue, e.key ≠ .request := by
    rw [queue]
    exact fun e he => by simpa using (List.mem_filter.mp he).2
  have gaps : x.pool.gaps = s.pool.gaps := by rw [pool]; rfl
  have owed : x.owedKeys = s.owedKeys := by rw [State.owedKeys, builder]; rfl
  have wanted : x.wantedGaps = s.wantedGaps := State.wantedGaps_congr window gaps ctl
  have adjusts : x.adjustKeys = s.adjustKeys := 
    State.adjustKeys_congr ((congrArg Clock.cur clock).trans rfl) adjust ctl
  have leaves : x.leaveKeys = s.leaveKeys := by rw [State.leaveKeys, ctl]; rfl
  have offers := x.phaseOffers_queue ((congrArg Controller.life ctl).trans run) absent
  rwa [queue, owed, wanted, adjusts, leaves] at offers

/-- Settles O21: the REQUEST leaves, and what the offers of RESENDs, REQUEST, ADJUST and LEAVE bring in their order. -/
theorem slotPhaseEndOffers : Obligations.SlotPhaseEndOffers := by
  unfold Obligations.SlotPhaseEndOffers
  intro s o ready run origin timer queue owed plain pairOf wanted
  obtain ⟨b, request, final⟩ := (s.until (o + s.bits 10240)).phaseEnd_queue run
  have ends : s.slotsOver = (s.until (o + s.bits 10240)).phaseEnd := by
    unfold State.slotsOver
    rw [origin]
    exact if_pos timer
  have answer : exec .slotPhaseEnd s = .next (s.until (o + s.bits 10240)).phaseEnd.finish := by
    rw [← ends]
    exact s.inside_eq _ ready.1
  have line := (s.until (o + s.bits 10240)).phaseEnd.finish_shows.line
  generalize (s.until (o + s.bits 10240)).phaseEnd = x at final answer line
  change RequestOffered (s.owedKeys.foldl queueOffered queue) (s.wantedGaps.map Gap.pair) b at request
  change x.line.queue = (s.adjustKeys ++ s.leaveKeys).foldl queueOffered b at final
  refine ⟨_, answer, ?_⟩
  rw [line, final]
  have owes : s.owedKeys.length = owed.length := List.length_map _
  have resends := queueOffered_all_length s.owedKeys queue
  have asks := request.length
  have stays {q : QEntry} (hq : q ∈ s.owedKeys.foldl queueOffered queue) :
      q ∈ (s.adjustKeys ++ s.leaveKeys).foldl queueOffered b := mem_queueOffered_all _ (request.mem hq)
  have keeps {k : QKey} (h : ∃ q ∈ s.owedKeys.foldl queueOffered queue, q.key = k) :
      ∃ q ∈ (s.adjustKeys ++ s.leaveKeys).foldl queueOffered b, q.key = k := h.imp fun q ⟨hq, key⟩ => ⟨stays hq, key⟩
  refine ⟨fun q hq => stays (mem_queueOffered_all _ hq), fun q hq => ?_, fun full => ?_, fun e rest first room => ?_,
    fun room e he => ?_, fun room a own timely => ?_, fun room leaving => ?_, ?_⟩
  · rcases mem_queueOffered_all_cases _ hq with hq | ⟨bare, offered⟩
    · rcases request.mem_cases hq with hq | ⟨key, -⟩
      · rcases mem_queueOffered_all_cases _ hq with old | ⟨bare, offered⟩
        · exact .inl old
        · obtain ⟨e, he, key⟩ := List.mem_map.mp offered
          exact .inr (.inl ⟨e, he, key ▸ bare⟩)
      · exact .inr (.inr (.inl key))
    · rcases List.mem_append.mp offered with adjusts | leaves
      · obtain ⟨a, ha, own, timely, key⟩ := State.mem_adjustKeys adjusts
        exact .inr (.inr (.inr (.inl ⟨a, ha, own, timely, key ▸ bare⟩)))
      · obtain ⟨leaving, key⟩ := State.mem_leaveKeys.mp leaves
        exact .inr (.inr (.inr (.inr ⟨leaving, key ▸ bare⟩)))
  · have first := queueOffered_all_full s.owedKeys full
    rw [first] at request
    obtain rfl := request.full full
    exact queueOffered_all_full _ full
  · have keys : s.owedKeys = .resend e.epoch :: rest.map (fun e => .resend e.epoch) := by
      rw [State.owedKeys, show s.builder.outbox.filter (fun e => !e.transmitted) = e :: rest from first, List.map_cons]
    exact keeps (keys ▸ queueOffered_all_first _ _ room)
  · exact keeps (queueOffered_all_waits _ (owes ▸ room) _ (List.mem_map.mpr ⟨e, he, rfl⟩))
  · rw [s.adjustKeys_own own timely]
    exact queueOffered_all_first _ _ (by omega)
  · have few : (s.adjustKeys ++ s.leaveKeys).length ≤ 2 := by
      have one := s.adjustKeys_length
      have other := s.leaveKeys_length
      rw [List.length_append]
      omega
    exact queueOffered_all_waits _ (by omega) _ (List.mem_append_right _ (State.mem_leaveKeys.mpr ⟨leaving, rfl⟩))
  · refine ⟨s.wantedGaps, s.mem_wantedGaps, s.wantedGaps_nodup, s.wantedGaps_pairwise, fun some_wanted room => ?_,
      fun nothing q hq key => ?_⟩
    · obtain ⟨q, hq, key, pairs⟩ := request.asks (by simpa using some_wanted) (by omega)
      exact ⟨q, mem_queueOffered_all _ hq, key, by rw [pairs, ← List.map_take]; rfl⟩
    · rw [nothing] at request
      rcases mem_queueOffered_all_cases _ hq with hq | ⟨bare, -⟩
      · rcases request.mem_cases hq with hq | ⟨-, pairs⟩
        · rcases mem_queueOffered_all_cases _ hq with old | ⟨bare, -⟩
          · exact absurd key (by simpa using (List.mem_filter.mp old).2)
          · rw [bare]; rfl
        · exact pairs
      · rw [bare]; rfl

end Sys2Proof.Machine
end


section
/-! The roster counted at a slot-phase end: misses and lapses with their PEER events, and the choice of the reference (R42 to
R46). -/

namespace Sys2Proof.Machine

/-! ### Entries moved one after another -/

/-- The PEER event of station n coming to the roster state st (R42). -/
def peerEvent (cur : Epoch) (n : Station) (st : RosterState) : Block × Event :=
  (.roster, { kind := .peer, epoch := cur, subject := some n, value := st.code.setWidth 16 })

/-- Station n's entry changes state where it moves by bump. -/
abbrev State.Turns (s : State) (bump : RosterEntry → RosterEntry) (n : Station) : Prop :=
  (bump (s.entry n)).state ≠ (s.entry n).state

/-- Moves the entry of station n by bump. -/
def State.moveEntry (bump : RosterEntry → RosterEntry) (s : State) (n : Station) : State := s.setEntry n (bump (s.entry n))

/-- t is s with the entries that move replaced by bump of them, each change of state with its PEER event, and nothing else
changed (R42). -/
structure EntriesMoved (s t : State) (moves : Station → Prop) (bump : RosterEntry → RosterEntry) : Prop where
  moved : ∀ n : Station, moves n → t.entry n = bump (s.entry n)
  reported : ∀ n : Station, moves n → s.Turns bump n →
    peerEvent s.clock.cur n (bump (s.entry n)).state ∈ t.port.arising
  passed : ∀ n : Station, ¬moves n → t.entry n = s.entry n
  arising : ∀ x ∈ t.port.arising, x ∈ s.port.arising ∨
    ∃ n : Station, moves n ∧ s.Turns bump n ∧ x = peerEvent s.clock.cur n (bump (s.entry n)).state
  frame : t = { s with roster := { s.roster with entries := t.roster.entries }
                       port := { s.port with arising := t.port.arising } }

/-- s with other roster entries and further events on their way. -/
def State.withEntries (s : State) (entries : Tbl RosterEntry 32) (events : List (Block × Event)) : State :=
  { s with roster := { s.roster with entries := entries }
           port := { s.port with arising := s.port.arising ++ events } }

theorem State.withEntries_withEntries (s : State) (a b : Tbl RosterEntry 32) (x y : List (Block × Event)) :
    (s.withEntries a x).withEntries b y = s.withEntries b (x ++ y) := by
  simp [State.withEntries]

/-- The PEER events of these stations as their entries move (R42). -/
def State.turnEvents (s : State) (bump : RosterEntry → RosterEntry) (l : List Station) : List (Block × Event) :=
  (l.filter fun n => decide (s.Turns bump n)).map fun n => peerEvent s.clock.cur n (bump (s.entry n)).state

theorem State.mem_turnEvents (s : State) (bump : RosterEntry → RosterEntry) (l : List Station) (x : Block × Event) :
    x ∈ s.turnEvents bump l ↔
      ∃ n ∈ l, s.Turns bump n ∧ x = peerEvent s.clock.cur n (bump (s.entry n)).state := by
  simp only [State.turnEvents, List.mem_map, List.mem_filter, decide_eq_true_eq, and_assoc, eq_comm (a := x)]

/-- The events of stations are decided by their entries and cur alone. -/
theorem State.turnEvents_congr {s t : State} {l : List Station} (bump : RosterEntry → RosterEntry)
    (cur : t.clock.cur = s.clock.cur) (same : ∀ n ∈ l, t.entry n = s.entry n) :
    t.turnEvents bump l = s.turnEvents bump l := by
  have turns : (l.filter fun n => decide (t.Turns bump n)) = l.filter fun n => decide (s.Turns bump n) :=
    List.filter_congr fun n hn => by simp only [State.Turns, same n hn]
  rw [State.turnEvents, State.turnEvents, turns, cur]
  exact List.map_congr_left fun n hn => by rw [same n (List.mem_of_mem_filter hn)]

theorem State.moveEntry_eq (bump : RosterEntry → RosterEntry) (s : State) (n : Station) : s.moveEntry bump n =
    s.withEntries (s.roster.entries.set n (bump (s.entry n))) (s.turnEvents bump [n]) := by
  unfold State.moveEntry State.setEntry State.withEntries State.turnEvents
  dsimp only
  split
  next same => simp [same]
  next turns => simp [turns]; rfl

/-- Entries moved one after another, each once, are moved as they stood before the first of them. -/
theorem foldl_moveEntry_eq (bump : RosterEntry → RosterEntry) (l : List Station) (s : State) (nodup : l.Nodup) :
    l.foldl (State.moveEntry bump) s =
      s.withEntries (l.foldl (State.moveEntry bump) s).roster.entries (s.turnEvents bump l) := by
  induction l generalizing s with
  | nil => simp [State.withEntries, State.turnEvents]
  | cons m t ih =>
    obtain ⟨fresh, nodup⟩ := List.nodup_cons.mp nodup
    have stays (n : Station) (hn : n ∈ t) : (s.moveEntry bump m).entry n = s.entry n :=
      (s.setEntry_entry _ _ _).trans (if_neg fun h => fresh (by rwa [← h]))
    have events : (s.moveEntry bump m).turnEvents bump t = s.turnEvents bump t :=
      State.turnEvents_congr bump (by simp [State.moveEntry]) stays
    have joined : s.turnEvents bump (m :: t) = s.turnEvents bump [m] ++ s.turnEvents bump t := by
      simp only [State.turnEvents, ← List.map_append, ← List.filter_append, List.singleton_append]
    have rest := ih (s.moveEntry bump m) nodup
    rw [List.foldl_cons]
    generalize t.foldl (State.moveEntry bump) (s.moveEntry bump m) = x at rest ⊢
    rw [rest, events, joined, State.moveEntry_eq, State.withEntries_withEntries]
    rfl

theorem foldl_moveEntry (bump : RosterEntry → RosterEntry) (moves : Station → Bool) (s : State) :
    EntriesMoved s ((stations.filter moves).foldl (State.moveEntry bump) s) (fun n => moves n = true) bump := by
  have nodup := stations_nodup.filter moves
  have whole := foldl_moveEntry_eq bump (stations.filter moves) s nodup
  have entry := foldl_entry (State.moveEntry bump) bump s.ctl
    (fun x m n hx => ⟨State.setEntry_entry _ _ _ _, by simp [State.moveEntry, hx]⟩) _ s nodup rfl
  simp only [List.mem_filter, mem_stations, true_and] at entry
  generalize (stations.filter moves).foldl (State.moveEntry bump) s = t at whole entry
  have arising : t.port.arising = s.port.arising ++ s.turnEvents bump (stations.filter moves) := by
    rw [whole]; rfl
  have mem (x : Block × Event) : x ∈ t.port.arising ↔ x ∈ s.port.arising ∨ ∃ n : Station,
      moves n = true ∧ s.Turns bump n ∧ x = peerEvent s.clock.cur n (bump (s.entry n)).state := by
    rw [arising, List.mem_append, s.mem_turnEvents]
    simp only [List.mem_filter, mem_stations, true_and]
  refine ⟨fun n h => (entry n).trans (if_pos h), fun n h turns => (mem _).mpr (.inr ⟨n, h, turns, rfl⟩),
    fun n h => (entry n).trans (if_neg h), fun x hx => (mem x).mp hx, ?_⟩
  rw [arising]
  exact whole

/-! ### Misses and lapses -/

theorem State.countMisses_moved (s : State) :
    EntriesMoved s s.countMisses (fun n => s.misses n = true) (fun e => e.missed s.ctl.profile.eviction) := by
  have same (l : List Station) (x : State) (hx : x.ctl = s.ctl) :
      l.foldl State.countMiss x = l.foldl (State.moveEntry fun e => e.missed s.ctl.profile.eviction) x := by
    induction l generalizing x with
    | nil => rfl
    | cons n t ih =>
      have step : x.countMiss n = x.moveEntry (fun e => e.missed s.ctl.profile.eviction) n := by rw [← hx]; rfl
      rw [List.foldl_cons, List.foldl_cons, step]
      exact ih _ (by simp [State.moveEntry, hx])
  have moved := foldl_moveEntry (fun e => e.missed s.ctl.profile.eviction) s.misses s
  rw [← same _ s rfl] at moved
  convert moved using 1
  unfold State.countMisses State.misses
  cases s.record (s.clock.cur - 1) with
  | none => simp
  | some r => rfl

theorem State.lapseJoins_moved (s : State) :
    EntriesMoved s s.lapseJoins (fun n => lapsed s.clock.cur (s.entry n) = true) (fun _ => .blank) :=
  foldl_moveEntry (fun _ => .blank) (fun n => lapsed s.clock.cur (s.entry n)) s

/-- With no record cur − 1 held no miss is counted (R43). -/
theorem State.countMisses_unheld (s : State) (h : s.record (s.clock.cur - 1) = none) : s.countMisses = s := by
  simp only [State.countMisses, h]

theorem State.misses_iff (s : State) {r : Record} (h : s.record (s.clock.cur - 1) = some r) (n : Station) :
    s.misses n = true ↔ n ≠ s.own ∧ mapHas r.expected n = true ∧ mapHas r.heard n = false ∧
      ((s.entry n).state = .present ∨ (s.entry n).state = .missing) := by
  unfold State.misses
  rw [h]
  simp [and_assoc]

/-- An epoch is behind another one exactly if that one is 1 to 32,768 epochs on. -/
theorem behind_iff_toNat (a b : Epoch) : behind a b = true ↔ 1 ≤ (b - a).toNat ∧ (b - a).toNat ≤ 32768 := by
  rw [behind, decide_eq_true_eq]
  bv_omega

theorem lapsed_iff (cur : Epoch) (e : RosterEntry) : lapsed cur e = true ↔ e.state = .joining ∧
    ∃ j : Epoch, e.lastJoin = some j ∧ 12 ≤ (cur - j).toNat ∧ (cur - j).toNat ≤ 32768 := by
  unfold lapsed
  cases e.lastJoin with
  | none => simp
  | some j =>
    simp only [Bool.and_eq_true, beq_iff_eq, behind_iff_toNat, decide_eq_true_eq, Option.some.injEq, exists_eq_left']
    refine and_congr_right fun _ => ?_
    omega

/-! ### The reference -/

theorem stations_ascend : stations.Pairwise (· < ·) := by decide

/-- The first station that satisfies p is the lowest-numbered one. -/
theorem stations_find_lowest {p : Station → Bool} {n : Station} (hn : p n = true) (lowest : ∀ m, p m = true → n ≤ m) :
    stations.find? p = some n := by
  cases found : stations.find? p with
  | none => exact absurd hn (List.find?_eq_none.mp found n (mem_stations n))
  | some m =>
    obtain ⟨hm, before, after, split, passed⟩ := List.find?_eq_some_iff_append.mp found
    have ascend := stations_ascend
    have place := mem_stations n
    rw [split] at ascend place
    rcases List.mem_append.mp place with first | rest
    · exact absurd hn (by simpa using passed n first)
    · rcases List.mem_cons.mp rest with rfl | later
      · rfl
      · have beyond := List.rel_of_pairwise_cons (List.pairwise_append.mp ascend).2.1 later
        exact absurd (lowest m hm) (not_le.mpr beyond)

theorem State.isCandidate_iff (s : State) (n : Station) : s.isCandidate n = true ↔
    (n = s.own ∧ s.ctl.life = .run) ∨ (n ≠ s.own ∧ (s.entry n).state = .present) := by
  unfold State.isCandidate
  split <;> simp [*]

theorem State.candidateClean_iff (s : State) (n : Station) : s.candidateClean n = true ↔
    (n = s.own ∧ s.pool.clean = true) ∨
      (n ≠ s.own ∧ ∃ r : LastReport, (s.entry n).lastReport = some r ∧ r.clean = true) := by
  unfold State.candidateClean
  split
  next own => simp [own]
  next other => cases (s.entry n).lastReport <;> simp [other]

/-- The lowest-numbered clean candidate is the reference (R46). -/
theorem State.chosenReference_clean (s : State) {n : Station} (hn : (s.isCandidate n && s.candidateClean n) = true)
    (lowest : ∀ m, (s.isCandidate m && s.candidateClean m) = true → n ≤ m) : s.chosenReference = some n := by
  simp only [State.chosenReference, stations_find_lowest hn lowest]

/-- With no clean candidate the choice is among all candidates (R46). -/
theorem State.chosenReference_unclean (s : State) (h : ∀ m, ¬(s.isCandidate m && s.candidateClean m) = true) :
    s.chosenReference = stations.find? s.isCandidate := by
  have nobody : stations.find? (fun m => s.isCandidate m && s.candidateClean m) = none :=
    List.find?_eq_none.mpr fun m _ => h m
  simp only [State.chosenReference, nobody]

/-- Settles O20: misses and lapses are entries moved one after another, and the reference is a first station found. -/
theorem rosterIsCounted : Obligations.RosterIsCounted := by
  unfold Obligations.RosterIsCounted
  refine ⟨State.countMisses_unheld, fun s r held => ?_, fun s => ?_, fun s => ?_⟩
  · intro t missed state event
    have moved := s.countMisses_moved
    have misses (n : Station) : s.misses n = true ↔ missed n := s.misses_iff held n
    have becomes (n : Station) : (s.entry n).missed s.ctl.profile.eviction =
        { s.entry n with miss := (s.entry n).miss + 1, state := state n } := by
      simp only [RosterEntry.missed, state, ← Nat.not_lt, ite_not]
    have comes (n : Station) : ((s.entry n).missed s.ctl.profile.eviction).state = state n :=
      congrArg RosterEntry.state (becomes n)
    refine ⟨fun n h => ⟨?_, fun turns => ?_⟩, fun n h => ?_, fun x hx => ?_, moved.frame⟩
    · exact (moved.moved n ((misses n).mpr h)).trans (becomes n)
    · have reported := moved.reported n ((misses n).mpr h) (by rw [State.Turns, comes]; exact turns)
      rw [comes] at reported
      exact reported
    · exact moved.passed n (mt (misses n).mp h)
    · refine (moved.arising x hx).imp_right fun ⟨n, h, turns, heq⟩ => ⟨n, (misses n).mp h, ?_, ?_⟩
      · rw [State.Turns, comes] at turns; exact turns
      · rw [comes] at heq; exact heq
  · intro t lapses event
    have moved := s.lapseJoins_moved
    have lapse (n : Station) : lapsed s.clock.cur (s.entry n) = true ↔ lapses n := lapsed_iff _ _
    refine ⟨fun n h => ⟨moved.moved n ((lapse n).mpr h), ?_⟩, fun n h => moved.passed n (mt (lapse n).mp h),
      fun x hx => ?_, moved.frame⟩
    · exact moved.reported n ((lapse n).mpr h) (by rw [State.Turns, h.1]; decide)
    · exact (moved.arising x hx).imp_right fun ⟨n, h, _, heq⟩ => ⟨n, (lapse n).mp h, heq⟩
  · intro candidate clean
    have candidates (n : Station) : s.isCandidate n = true ↔ candidate n := s.isCandidate_iff n
    have cleans (n : Station) : (s.isCandidate n && s.candidateClean n) = true ↔ clean n := by
      rw [Bool.and_eq_true, candidates, s.candidateClean_iff]
    refine ⟨fun n h lowest => ?_, fun n nobody h lowest => ?_, fun nobody => ?_⟩
    · exact s.chosenReference_clean ((cleans n).mpr h) fun m hm => lowest m ((cleans m).mp hm)
    · rw [s.chosenReference_unclean fun m hm => nobody m ((cleans m).mp hm)]
      exact stations_find_lowest ((candidates n).mpr h) fun m hm => lowest m ((candidates m).mp hm)
    · rw [s.chosenReference_unclean fun m hm => nobody m ((cleans m).mp hm).1]
      exact List.find?_eq_none.mpr fun m _ hm => nobody m ((candidates m).mp hm)

end Sys2Proof.Machine
end


section
/-! What the frame of each send-queue entry carries, and when its owner declines (R41, R60, R76, R97, R105, R127, R131,
R133). -/

namespace Sys2Proof.Machine

/-! ### Present map and standing pairs -/

theorem State.mapHas_presentMap (s : State) (n : Station) : mapHas s.presentMap n = true ↔
    (s.entry n).state = .self ∨ (s.entry n).state = .present ∨ (s.entry n).state = .missing := by
  rw [State.presentMap, mapHas_mapWhere]
  simp [or_assoc]

/-- A byte below 32 is that of the station with its number. -/
theorem stationByte_toNat_self (b : Byte) (h : b.toNat < 32) : stationByte ⟨b.toNat, h⟩ = b :=
  BitVec.eq_of_toNat_eq (stationByte_toNat _)

/-- A pair of station n stands by its record, its gap and the asked set (R76, notes/assumptions/28.md). -/
theorem State.pairStands_station (s : State) (n : Station) (p : Pair) (hn : p.station = stationByte n) :
    s.pairStands p = true ↔ ∃ r : Record, s.record p.epoch = some r ∧ mapHas r.heard n = false ∧
      (r.state = .folded → ({ station := n, epoch := p.epoch } : Gap) ∈ s.pool.gaps) ∧ p ∉ s.window.asked := by
  have number : p.station.toNat = n.val := by rw [hn, stationByte_toNat]
  have inRange : p.station.toNat < 32 := number ▸ n.isLt
  have station : (⟨p.station.toNat, inRange⟩ : Station) = n := Fin.ext number
  unfold State.pairStands
  cases s.record p.epoch with
  | none => simp
  | some r =>
    simp only [dif_pos inRange, station]
    simp [and_assoc, Decidable.imp_iff_not_or]

/-- A pair of no station does not stand. -/
theorem State.pairStands_far (s : State) (p : Pair) (h : ¬p.station.toNat < 32) : s.pairStands p = false := by
  unfold State.pairStands
  cases s.record p.epoch with
  | none => rfl
  | some r => exact dif_neg h

theorem State.pairStands_iff (s : State) (p : Pair) : s.pairStands p = true ↔ ∃ (n : Station) (r : Record),
    p.station = stationByte n ∧ s.record p.epoch = some r ∧ mapHas r.heard n = false ∧
    (r.state = .folded → ({ station := n, epoch := p.epoch } : Gap) ∈ s.pool.gaps) ∧ p ∉ s.window.asked := by
  constructor
  · intro stands
    by_cases h : p.station.toNat < 32
    · have hn : p.station = stationByte ⟨p.station.toNat, h⟩ := (stationByte_toNat_self _ h).symm
      obtain ⟨r, held⟩ := (s.pairStands_station _ p hn).mp stands
      exact ⟨_, r, hn, held⟩
    · rw [s.pairStands_far p h] at stands
      cases stands
  · rintro ⟨n, r, hn, held⟩
    exact (s.pairStands_station n p hn).mpr ⟨r, held⟩

/-! ### The frame of each class -/

theorem State.outEntry_none (s : State) (e : Epoch) (h : ∀ o ∈ s.builder.outbox, o.epoch ≠ e) : s.outEntry e = none :=
  List.find?_eq_none.mpr fun o ho => by simpa using h o ho

/-- The SNAPSHOT that a station in RUN and AGREED builds at a complete fold point (R97). -/
theorem State.buildSnapshot_complete (s : State) {f : Epoch} {h : HistEntry} (run : s.ctl.life = .run)
    (agreed : s.pool.agreement = .agreed) (point : s.pool.foldPoint = some f) (newest : s.pool.history.getLast? = some h)
    (complete : h.complete = true) : s.buildSnapshot = some
      { sender := s.own, point := f, balances := s.balances, digest := s.digestAt f, map := s.presentMap } := by
  simp [State.buildSnapshot, *]

/-- A SNAPSHOT is declined outside RUN or AGREED, and without a complete newest fold point (R97). -/
theorem State.buildSnapshot_declined (s : State) (h : s.ctl.life ≠ .run ∨ s.pool.agreement ≠ .agreed ∨
    s.pool.foldPoint = none ∨ s.pool.history = [] ∨
    (∃ h : HistEntry, s.pool.history.getLast? = some h ∧ h.complete = false)) : s.buildSnapshot = none := by
  unfold State.buildSnapshot
  split
  next f x point newest =>
    refine if_neg fun ⟨run, agreed, complete⟩ => ?_
    rcases h with aside | apart | unfolded | empty | ⟨y, found, incomplete⟩
    · exact aside run
    · exact apart agreed
    · rw [point] at unfolded; cases unfolded
    · rw [empty] at newest; cases newest
    · obtain rfl : x = y := Option.some.inj (newest.symm.trans found)
      rw [incomplete] at complete
      cases complete
  next => rfl

theorem State.buildAdjust_declined (s : State) (n : Byte)
    (h : ∀ a ∈ s.adjust.queue, ¬(a.originator = s.own ∧ a.serial = n)) : s.buildAdjust n = none := by
  have absent : s.adjust.queue.find? (fun a => a.originator == s.own && a.serial == n) = none :=
    List.find?_eq_none.mpr fun a ha => by simpa using h a ha
  rw [State.buildAdjust, absent]
  rfl

theorem State.build_resend (s : State) (x : Epoch) (t : Option Station) (p : Option (List Pair)) :
    s.build ⟨.resend x, t, p⟩ = (s.outEntry x).map (fun o => .resend (s.buildReport o)) := rfl

theorem State.build_snapshot (s : State) (t : Option Station) (p : Option (List Pair)) :
    s.build ⟨.snapshot, t, p⟩ = s.buildSnapshot.map .snapshot := rfl

theorem State.build_adjust (s : State) (n : Byte) (t : Option Station) (p : Option (List Pair)) :
    s.build ⟨.adjust n, t, p⟩ = (s.buildAdjust n).map .adjust := rfl

theorem State.build_request (s : State) (t : Option Station) (p : Option (List Pair)) :
    s.build ⟨.request, t, p⟩ = (s.buildRequest ⟨.request, t, p⟩).map .request := rfl

/-- Settles O23, by the class of the entry. -/
theorem queueFramesAreBuilt : Obligations.QueueFramesAreBuilt := by
  unfold Obligations.QueueFramesAreBuilt
  refine ⟨State.mapHas_presentMap, State.pairStands_iff, fun s x target pairs => ⟨fun o found => ?_, fun absent => ?_⟩,
    fun s target pairs => ⟨fun f h run agreed point newest complete => ?_, fun declined => ?_⟩,
    fun s n target pairs => ⟨fun a found => ?_, fun absent => ?_⟩,
    fun s target pairs => ⟨fun asks => ?_, fun stand nobody => ?_⟩,
    fun s d target pairs digest => ⟨fun joining waited => ?_, fun declined => ?_, fun leaving => ?_⟩⟩
  · have entry : s.outEntry x = some o := found
    have epoch : o.epoch = x := by simpa using List.find?_some found
    rw [s.build_resend, entry, ← epoch]
    rfl
  · rw [s.build_resend, s.outEntry_none x absent]
    rfl
  · rw [s.build_snapshot, s.buildSnapshot_complete run agreed point newest complete]
    rfl
  · rw [s.build_snapshot, s.buildSnapshot_declined declined]
    rfl
  · rw [s.build_adjust, State.buildAdjust, found]
    rfl
  · rw [s.build_adjust, s.buildAdjust_declined n absent]
    rfl
  · rw [s.build_request, State.buildRequest, if_neg fun none_stands => ?_]
    · rfl
    · exact asks.elim (fun h => h none_stands.1) fun h => h none_stands.2
  · rw [s.build_request, State.buildRequest, if_pos ⟨stand, nobody⟩]
    rfl
  · have inUse : s.profileDigest = d := by rw [State.profileDigest, digest]; rfl
    rw [← inUse]
    exact if_pos ⟨joining, waited⟩
  · exact if_neg fun ⟨joining, waited⟩ => declined.elim (fun h => h joining) (Nat.not_lt.mpr waited)
  · exact if_pos leaving

end Sys2Proof.Machine
end


section
/-! A JOIN at the roster, and its answer (R39, R42, R96, R128). -/

namespace Sys2Proof.Machine

/-- A frame of another number is no conflict (R49). -/
theorem State.ownNumber_other (s : State) {n : Station} (overlap : Bool) (h : n ≠ s.own) : s.ownNumber n overlap = s :=
  if_neg fun own => h own.1

theorem State.canReceive_listening {s : State} (h : s.canReceive = true) : s.listening = true := by
  simp only [State.canReceive, Bool.and_eq_true] at h
  exact h.1.1

/-- An entry's change of state is on its way as a PEER event (R42). -/
theorem State.setEntry_reports (s : State) (n : Station) (e : RosterEntry) (h : (s.entry n).state ≠ e.state) :
    peerEvent s.clock.cur n e.state ∈ (s.setEntry n e).port.arising := by
  unfold State.setEntry
  dsimp only
  rw [if_neg (Ne.symm h)]
  exact State.raise_mem _ _ _ _ _

/-- A step's end keeps the drives, FAULT with them, where life-cycle state and agreement state stand (R162). -/
theorem Ready.finish_drives {s x : State} (h : Ready s) (hc : x.ctl = s.ctl) (ha : x.pool.agreement = s.pool.agreement)
    (hd : x.drives = s.drives) : x.finish.drives = s.drives := by
  have fault : x.drives.fault = x.faultWanted := by
    rw [State.faultWanted, hc, ha, hd]
    exact h.fault
  rw [x.finish_ports (hc ▸ h.1) fault]
  exact hd

/-! ### The JOIN -/

/-- The sender's entry is moved by its JOIN (R39). -/
def State.joinHeard (s : State) (f : JoinFrame) : State := s.setEntry f.sender ((s.entry f.sender).joined s.clock.cur)

/-- A JOIN with profile digest d is answered with a SNAPSHOT (R96, R128). -/
abbrev State.AnswersJoin (s : State) (d : Digest) : Prop :=
  s.ctl.life = .run ∧ s.ctl.digest = some d ∧ s.roster.reference = some s.own ∧ s.pool.agreement = .agreed

theorem State.joinHeard_reference (s : State) (f : JoinFrame) : (s.joinHeard f).roster.reference = s.roster.reference :=
  s.setEntry_reference _ _

theorem State.joinHeard_answers (s : State) (f : JoinFrame) (d : Digest) :
    (s.joinHeard f).AnswersJoin d ↔ s.AnswersJoin d := by
  rw [State.AnswersJoin, s.joinHeard_reference]
  simp [State.joinHeard, State.own]

/-- What a JOIN of another number does at a station that listens (R39, R96). -/
theorem State.joinIn_other (s : State) (f : JoinFrame) (overlap : Bool) (listens : s.listening = true)
    (other : f.sender ≠ s.own) : s.joinIn f overlap =
      if s.AnswersJoin f.digest then (s.joinHeard f).offerKey .snapshot else s.joinHeard f := by
  unfold State.joinIn
  simp only [s.ownNumber_other overlap other, if_pos listens, if_neg other]
  exact if_congr (s.joinHeard_answers f f.digest) rfl rfl

/-- A JOIN moves roster and send queue alone. -/
theorem State.joinIn_frame (s : State) (f : JoinFrame) (overlap : Bool) (listens : s.listening = true)
    (other : f.sender ≠ s.own) : (s.joinIn f overlap).now = s.now ∧ (s.joinIn f overlap).clock = s.clock ∧
    (s.joinIn f overlap).roster = (s.joinHeard f).roster ∧ (s.joinIn f overlap).builder = s.builder ∧
    (s.joinIn f overlap).window = s.window ∧ (s.joinIn f overlap).pool = s.pool ∧
    (s.joinIn f overlap).adjust = s.adjust ∧ (s.joinIn f overlap).ctl = s.ctl ∧
    (s.joinIn f overlap).channels = s.channels ∧ (s.joinIn f overlap).drives = s.drives ∧
    (s.joinIn f overlap).port.reply = s.port.reply := by
  have reply : (s.joinHeard f).port.reply = s.port.reply := (s.setEntry_raised _ _).reply
  rw [s.joinIn_other f overlap listens other]
  split <;> simp [reply] <;> simp [State.joinHeard]

/-- Settles O47: the sender's entry moves by its state, and the answer is an offer of a SNAPSHOT. -/
theorem joinsAreHeard : Obligations.JoinsAreHeard := by
  unfold Obligations.JoinsAreHeard
  intro s dt f ready takes other
  have listens : (s.heard dt).listening = true := s.canReceive_listening takes
  have comes : exec (.joinReceived dt f) s = .next ((s.heard dt).joinIn f s.line.overlap).finish :=
    s.frameIn_outside dt (.join f) (fun overlap s => s.joinIn f overlap) ready takes rfl
  have decided := (s.heard dt).joinIn_other f s.line.overlap listens other
  obtain ⟨now, clock, roster, builder, window, pool, adjust, ctl, channels, drives, reply⟩ :=
    (s.heard dt).joinIn_frame f s.line.overlap listens other
  generalize (s.heard dt).joinIn f s.line.overlap = x at *
  have entry (n : Station) : x.finish.entry n =
      if n = f.sender then (s.entry f.sender).joined s.clock.cur else s.entry n :=
    (congrArg (fun r : Roster => r.entries.get n) roster).trans ((s.heard dt).setEntry_entry _ _ _)
  have sender : x.finish.entry f.sender = (s.entry f.sender).joined s.clock.cur := (entry _).trans (if_pos rfl)
  have queue : ((s.heard dt).joinHeard f).line.queue = s.line.queue := by
    simp only [State.joinHeard, State.setEntry_frame]
    rfl
  have stands := ready.finish_drives (x := x) ctl (congrArg Pool.agreement pool) drives
  refine ⟨x.finish, comes, now, fun h => ?_, fun h => ?_, fun h => ?_, fun h => ?_,
    fun n hn => (entry n).trans (if_neg hn), fun run digest reference agreed room => ?_, fun apart => ?_,
    clock, builder, window, pool, adjust, ctl, channels, stands, reply⟩
  · simp [sender, RosterEntry.joined, h]
  · simp [sender, RosterEntry.joined, h]
  · simp [sender, RosterEntry.joined, h]
  · rw [sender]
    rcases h with h | h <;> simp [RosterEntry.joined, h]
  · rw [if_pos ⟨run, digest, reference, agreed⟩] at decided
    rw [decided]
    have accepts : acceptsOffer ((s.heard dt).joinHeard f).ctl.life .snapshot = true := by
      simp [State.joinHeard, acceptsOffer, run]
    have places : ((s.heard dt).joinHeard f).line.queue.length < 8 := by rw [queue]; exact room
    exact (State.offer_waits _ .snapshot none none accepts places).2
  · rw [if_neg fun answers => apart answers.2.2.1] at decided
    rw [decided]
    exact queue

end Sys2Proof.Machine
end


section
/-! A REPORT or RESEND that implies no mark: the sender's entry, the comparison, and the window (R38, R65 to R68, R90). -/

namespace Sys2Proof.Machine

/-! ### The comparison's effect on the pool unit -/

/-- t's pool unit is p but for what a comparison may change (R90, R93). -/
def Pool.Compared (p q : Pool) : Prop :=
  q = { p with
    clean := q.clean, agreement := q.agreement, target := q.target, held := q.held, wait := q.wait
    noComparison := q.noComparison }

theorem Pool.Compared.refl (p : Pool) : p.Compared p := rfl

theorem Pool.Compared.kept {p q : Pool} (h : p.Compared q) : q.table = p.table ∧ q.foldPoint = p.foldPoint ∧
    q.history = p.history ∧ q.gaps = p.gaps := by
  rw [Pool.Compared] at h
  rw [h]
  exact ⟨rfl, rfl, rfl, rfl⟩

theorem State.divergedFrom_pool (s : State) : s.divergedFrom.pool =
    { s.pool with noComparison := 0, agreement := .diverged, target := s.roster.reference } := by
  simp [State.divergedFrom]

theorem State.compareWith_compared (s : State) (h : HistEntry) (d : Digest) (c : Bool) :
    s.pool.Compared (s.compareWith h d c).pool := by
  rw [State.compareWith_eq]
  split
  · rw [State.agree_pool]; rfl
  · split
    · exact .refl _
    · split
      · rw [(State.requestSnapshot_effect _).1, State.divergedFrom_pool]
        split <;> rfl
      · rfl

theorem State.compare_compared (s : State) (f : ReportFrame) : s.pool.Compared (s.compare f).pool := by
  unfold State.compare
  split
  · split
    · exact .refl _
    · split
      · exact .refl _
      · exact s.compareWith_compared _ _ _
  · exact .refl _

/-! ### The frame at the window -/

/-- The window works (R63). -/
abbrev State.Works (s : State) : Prop := s.ctl.life = .joining ∨ s.ctl.life = .run

/-- The window places a report that implies no mark (R65). -/
def State.windowPlaces (s : State) (f : ReportFrame) : State :=
  if s.Works ∧ ahead f.epoch s.clock.cur = false then s.takeReport f.sender f.epoch f.deltas else s

/-- A REPORT and a RESEND that imply no mark are one to the window (R65). -/
theorem State.window_places (s : State) (f : ReportFrame) (other : f.sender ≠ s.own)
    (apart : s.Works → f.epoch ≠ s.clock.cur) :
    s.windowReport f = s.windowPlaces f ∧ s.windowResend f = s.windowPlaces f := by
  unfold State.windowReport State.windowResend State.windowPlaces State.windowTake
  by_cases works : s.Works
  · have elsewhere := apart works
    cases ahead f.epoch s.clock.cur <;> simp [works, other, elsewhere]
  · simp [works]

/-- A report moves records and gaps alone (R65 to R67). -/
theorem State.takeReport_eq (s : State) (n : Station) (e : Epoch) (d : List (BitVec 16)) : s.takeReport n e d =
    { s with window := (s.takeReport n e d).window
             pool := { s.pool with gaps := (s.takeReport n e d).pool.gaps } } := by
  unfold State.takeReport
  split
  · rfl
  · dsimp only
    split <;> rfl

theorem State.windowPlaces_eq (s : State) (f : ReportFrame) : s.windowPlaces f =
    { s with window := (s.windowPlaces f).window, pool := { s.pool with gaps := (s.windowPlaces f).pool.gaps } } := by
  unfold State.windowPlaces
  split
  · exact s.takeReport_eq _ _ _
  · rfl

theorem State.windowPlaces_frame (s : State) (f : ReportFrame) : (s.windowPlaces f).now = s.now ∧
    (s.windowPlaces f).clock = s.clock ∧ (s.windowPlaces f).line = s.line ∧ (s.windowPlaces f).roster = s.roster ∧
    (s.windowPlaces f).builder = s.builder ∧ (s.windowPlaces f).adjust = s.adjust ∧ (s.windowPlaces f).ctl = s.ctl ∧
    (s.windowPlaces f).channels = s.channels ∧ (s.windowPlaces f).drives = s.drives ∧
    (s.windowPlaces f).port = s.port := by
  unfold State.windowPlaces
  split <;> simp

/-- The window takes nothing while it does not work, from a station already heard, and for an epoch ahead (R63, R65, R68). -/
theorem State.windowPlaces_ignored (s : State) (f : ReportFrame) (h : ¬s.Works ∨ ahead f.epoch s.clock.cur = true ∨
    ∀ r ∈ s.window.records, r.epoch = f.epoch → mapHas r.heard f.sender = true) : s.windowPlaces f = s := by
  unfold State.windowPlaces
  split
  next takes =>
    rcases h with idle | ahead | heard
    · exact absurd takes.1 idle
    · rw [takes.2] at ahead; cases ahead
    · exact s.takeReport_heard _ _ _ heard
  next => rfl

/-- The gaps that a new report leaves: its own closes if the record is FOLDED (R67, R87). -/
theorem State.takeReport_gaps (s : State) {n : Station} {e : Epoch} {r : Record} (d : List (BitVec 16))
    (held : s.record e = some r) (unheard : mapHas r.heard n = false) : (s.takeReport n e d).pool.gaps =
      if r.state = .folded then s.pool.gaps.filter (fun g => g != { station := n, epoch := e }) else s.pool.gaps := by
  simp only [State.takeReport, held, unheard, and_true]
  split <;> rfl

theorem not_ahead_of_behind {a b : Epoch} (h : behind a b = true) : ahead a b = false := by
  rw [behind, decide_eq_true_eq] at h
  simp only [ahead, Bool.and_eq_false_iff, decide_eq_false_iff_not]
  omega

/-! ### The step -/

/-- A REPORT or RESEND of another station that implies no mark: roster and comparison, then the window (R38, R65, R90). -/
theorem exec_report_placed (s : State) (dt : Nat) (f : ReportFrame) (c : Instr)
    (hc : c = .reportReceived dt f ∨ c = .resendReceived dt f) (ready : Ready s) (takes : s.canReceive = true)
    (wf : f.wf = true) (deltas : f.deltas.length = s.ctl.profile.pools) (other : f.sender ≠ s.own)
    (apart : s.Works → f.epoch ≠ s.clock.cur) :
    exec c s = .next (((s.heard dt).reported f).windowPlaces f).finish := by
  have good : (f.wf && f.deltas.length == s.ctl.profile.pools) = true := by simp [wf, deltas]
  obtain ⟨-, clock, ctl⟩ := (s.heard dt).reported_frame f
  have goes (window : State → State) : (s.heard dt).reportIn f s.line.overlap window = window ((s.heard dt).reported f) := by
    have stays : ((s.heard dt).inLeavingEpoch && (s.heard dt).wouldImply f) = false := by
      by_cases works : s.Works
      · have unimplied : (s.heard dt).wouldImply f = false := by simp [State.wouldImply, apart works]
        rw [unimplied, Bool.and_false]
      · rw [State.inLeavingEpoch_false (s := s.heard dt) (.inl fun run => works (.inr run)), Bool.false_and]
    have listens : (s.heard dt).listening = true := s.canReceive_listening takes
    simp only [State.reportIn, stays, (s.heard dt).ownNumber_other s.line.overlap other, listens, if_true]
    rfl
  obtain ⟨report, resend⟩ := ((s.heard dt).reported f).window_places f (by rw [State.own, ctl]; exact other)
    (by rw [State.Works, ctl, clock]; exact apart)
  rcases hc with rfl | rfl
  · refine (s.frameIn_outside dt (.report f) (fun overlap s => s.reportIn f overlap fun s => s.windowReport f)
      ready takes good).trans ?_
    rw [goes, report]
  · refine (s.frameIn_outside dt (.resend f) (fun overlap s => s.reportIn f overlap fun s => s.windowResend f)
      ready takes good).trans ?_
    rw [goes, resend]

/-! ### The sender's entry -/

/-- The sender's entry and its PEER event survive the comparison (R38, R42). -/
theorem State.reported_entry (s : State) (f : ReportFrame) (other : f.sender ≠ s.own) :
    (s.reported f).entry f.sender = s.reportEntry f ∧
    ((s.entry f.sender).state ≠ .present → peerEvent s.clock.cur f.sender .present ∈ (s.reported f).port.arising) := by
  have moved : s.rosterReport f = s.setEntry f.sender (s.reportEntry f) := if_neg other
  refine ⟨?_, fun turns => ?_⟩
  · simp only [State.reported, State.entry, State.compare_frame]
    rw [moved]
    exact (s.setEntry_entry _ _ _).trans (if_pos rfl)
  · refine (State.compare_raised _ f).mem ?_
    rw [moved]
    exact s.setEntry_reports f.sender (s.reportEntry f) turns

/-- A frame that is not compared leaves the station as the roster has it (R47, R90). -/
theorem State.compare_aside (s : State) (f : ReportFrame)
    (h : s.ctl.life ≠ .run ∨ s.roster.reference ≠ some f.sender) : s.compare f = s :=
  if_neg fun compared => h.elim (fun k => k compared.1) fun k => k compared.2.1

/-- Settles O40: the frame is placed by roster, comparison and window in turn, and the record takes it. -/
theorem reportsAreTaken : Obligations.ReportsAreTaken := by
  unfold Obligations.ReportsAreTaken
  intro s dt f c hc ready takes wf deltas other works apart
  have comes := exec_report_placed s dt f c hc ready takes wf deltas other apart
  have books := s.reported_books dt f other
  obtain ⟨ynow, yclock, -⟩ := (s.heard dt).reported_frame f
  obtain ⟨entry, peer⟩ := (s.heard dt).reported_entry f other
  have alone (aside : s.ctl.life ≠ .run ∨ s.roster.reference ≠ some f.sender) :
      ((s.heard dt).reported f).pool = s.pool ∧ ((s.heard dt).reported f).line = (s.heard dt).line ∧
      ((s.heard dt).reported f).drives = s.drives := by
    obtain ⟨-, -, -, reference, -⟩ := (s.heard dt).rosterReport_effect f other
    obtain ⟨-, -, line, -, -, pool, -, ctl, -, drives⟩ := (s.heard dt).rosterReport_frame f
    rw [State.reported, State.compare_aside _ f (by rw [ctl, reference]; exact aside)]
    exact ⟨pool, line, drives⟩
  generalize (s.heard dt).reported f = y at *
  have compared : s.pool.Compared y.pool := books.pool ▸ s.compare_compared f
  obtain ⟨table, -, -, gaps⟩ := compared.kept
  have record (e : Epoch) : y.record e = s.record e := by rw [State.record, books.window]; rfl
  have worksAlike : y.Works ↔ works := by rw [State.Works, books.ctl]
  obtain ⟨now, clock, line, roster, builder, adjust, ctl, channels, drives, port⟩ := y.windowPlaces_frame f
  have pool : (y.windowPlaces f).pool = { y.pool with gaps := (y.windowPlaces f).pool.gaps } :=
    congrArg State.pool (y.windowPlaces_eq f)
  have ignored (h : ¬works ∨ ahead f.epoch s.clock.cur = true ∨
      ∀ r ∈ s.window.records, r.epoch = f.epoch → mapHas r.heard f.sender = true) :
      (y.windowPlaces f).window = s.window ∧ (y.windowPlaces f).pool.gaps = s.pool.gaps := by
    rw [y.windowPlaces_ignored f (by rw [worksAlike, yclock, books.window]; exact h)]
    exact ⟨books.window, gaps⟩
  have reported : peerEvent s.clock.cur f.sender .present ∈ y.port.arising →
      Reported (y.windowPlaces f).finish (peerEvent s.clock.cur f.sender .present).2 := fun h =>
    State.finish_reported _ (b := .roster) (port ▸ h)
  have entries (n : Station) : (y.windowPlaces f).finish.entry n = y.entry n :=
    congrArg (fun r : Roster => r.entries.get n) roster
  refine ⟨_, comes, now.trans ynow, fun r works late held unheard => ?_, fun works heard => ignored (.inr (.inr heard)),
    fun h => ignored ?_, (entries _).trans entry, fun turns => reported (peer turns),
    fun n hn => (entries n).trans (books.others n hn), (congrArg Roster.reference roster).trans books.reference,
    fun aside => ?_, ?_, clock.trans yclock, builder.trans books.builder, adjust.trans books.adjust,
    ctl.trans books.ctl, channels.trans books.channels, (congrArg Port.reply port).trans books.reply⟩
  · have placed : y.windowPlaces f = y.takeReport f.sender f.epoch f.deltas :=
      if_pos ⟨worksAlike.mpr works, yclock ▸ not_ahead_of_behind late⟩
    have found : (y.windowPlaces f).finish.record f.epoch = some (r.take f.sender f.deltas) := by
      have taken := y.takeReport_record f.sender f.epoch f.deltas
      rw [← placed, record, held] at taken
      exact taken
    have left := y.takeReport_gaps f.deltas ((record _).trans held) unheard
    rw [← placed, gaps] at left
    obtain ⟨heard, expected, sums, lates, -, -⟩ := r.take_new f.sender f.deltas unheard
    refine ⟨_, found, heard, expected, sums, lates, r.take_state _ _ unheard, fun folded => ?_, fun unfolded => ?_⟩
    · rw [if_pos folded] at left
      change _ ∉ (y.windowPlaces f).pool.gaps
      simp [left]
    · exact left.trans (if_neg unfolded)
  · refine h.imp_right fun h => h.symm.imp_right fun unheld r hr epoch => ?_
    exact absurd (by simpa using epoch) (List.find?_eq_none.mp unheld r hr)
  · obtain ⟨ypool, yline, ydrives⟩ := alone aside
    rw [ypool] at pool
    exact ⟨pool, line.trans yline, ready.finish_drives (ctl.trans books.ctl) (by rw [pool])
      (drives.trans ydrives)⟩
  · exact (congrArg Pool.table pool).trans table

end Sys2Proof.Machine
end


section
/-! The comparison of the reference's REPORT or RESEND, row by row (R90, R93, R95, R158, R161). -/

namespace Sys2Proof.Machine

/-! ### The agreement state with its event and its drives -/

theorem State.agree_eq (s : State) (a : Agreement) : s.agree a = (s.setAgreement a).refreshDrivesFor a := by
  rw [State.agree, State.refreshDrives, State.setAgreement_pool]

theorem State.agree_get (s : State) (a : Agreement) (i : Fin 4) : (s.agree a).drives.drives.get i =
    (s.drives.drives.get i).refreshed (s.ctl.profile.drives.get i) s.ctl.life a := by
  rw [State.agree_eq, State.refreshDrivesFor_get]
  simp

/-- A change of the agreement state is on its way with the reference as its subject (R89). -/
theorem State.agree_reports (s : State) (a : Agreement) (h : s.pool.agreement ≠ a) :
    (Block.pool, ({ kind := .agreement, epoch := s.clock.cur, subject := s.roster.reference
                    value := a.code.setWidth 16 } : Event)) ∈ (s.agree a).port.arising := by
  refine (State.refreshDrives_raised _).mem ?_
  unfold State.setAgreement State.setAgreementFor
  rw [if_neg h]
  exact State.raise_mem _ _ _ _ _

/-- The drives follow where a state shows those of x at its new agreement state (R158, R161). -/
theorem DrivesFollow.of_agree {s x t : State} (a : Agreement) (drives : x.drives.drives = s.drives.drives)
    (profile : x.ctl.profile = s.ctl.profile) (shown : t.drives.drives = (x.agree a).drives.drives)
    (reported : ∀ (b : Block) (e : Event), (b, e) ∈ (x.agree a).port.arising → Reported t e) :
    DrivesFollow s t x.clock.cur x.ctl.life a := by
  intro i
  have moves := (x.setAgreement a).refreshDrivesFor_mem a i
  rw [← State.agree_eq] at moves
  simp only [State.setAgreement_frame, drives, profile] at moves
  rw [shown]
  refine ⟨?_, fun turns => reported _ _ (moves turns)⟩
  rw [State.agree_get, drives, profile]

/-- Outside AGREED the row of a drive does not depend on the agreement state (R158). -/
theorem pinRow_unagreed {a b : Agreement} (ha : a ≠ .agreed) (hb : b ≠ .agreed) (l : Life) (cfg : DriveCfg)
    (m : DriveMode) : pinRow l a cfg m = pinRow l b cfg m := by
  simp only [pinRow, if_neg ha, if_neg hb]

/-- A drive that stands under its row, at the level the row gives, is found as it stands (R158, R159). -/
theorem Drive.refreshed_self (d : Drive) (cfg : DriveCfg) (l : Life) (a : Agreement)
    (row : pinRow l a cfg d.mode = d.row) (pin : d.pin = pinLevel d.row cfg d d.held) : d.refreshed cfg l a = d := by
  have held : heldLevel d.row cfg d = d.held := if_neg fun h => h.2 h.1
  simp only [Drive.refreshed, row, held, ← pin]

/-- A drive found afresh outside AGREED stands so for every such agreement state (R158, R159). -/
theorem Drive.refreshed_again (d : Drive) (cfg : DriveCfg) (l : Life) {a b : Agreement} (ha : a ≠ .agreed)
    (hb : b ≠ .agreed) : (d.refreshed cfg l a).refreshed cfg l b = d.refreshed cfg l a := by
  obtain ⟨row, pin⟩ := d.refreshed_follows cfg l a
  exact Drive.refreshed_self _ cfg l b ((pinRow_unagreed hb ha l cfg d.mode).trans row.symm) pin

/-! ### The snapshot request -/

/-- An offer with a target that finds room waits under its key, naming the target (R32). -/
theorem State.offer_names (s : State) (k : QKey) (n : Station) (run : s.ctl.life = .run)
    (room : s.line.queue.length < 8) :
    ∃ q ∈ (s.offer k (some n) none).1.line.queue, q.key = k ∧ q.target = some n := by
  by_cases present : ∃ x ∈ s.line.queue, x.key = k
  · rw [s.offer_present_queue (some n) none run present]
    obtain ⟨x, waits, key⟩ := present
    exact ⟨x.merged (some n) none, List.mem_map.mpr ⟨x, waits, if_pos key⟩, key, rfl⟩
  · rw [s.offer_absent_queue (some n) none run (by simpa using present), if_pos room]
    exact ⟨_, mem_placeEntry.mpr (.inl rfl), rfl, rfl⟩

/-- At a hold-back count above 0 no snapshot is asked for (R95). -/
theorem State.requestSnapshot_heldBack (s : State) (h : 0 < s.pool.holdBack) : s.requestSnapshot = s := by
  have refused : s.offerSnapshotPart = (s, false) := by
    unfold State.offerSnapshotPart
    split
    · rfl
    · exact if_neg (Nat.pos_iff_ne_zero.mp h)
  simp [State.requestSnapshot, refused]

/-- With room in the queue a station in RUN asks its target and is RESYNCING (R93). -/
theorem State.requestSnapshot_asks (s : State) {n : Station} (run : s.ctl.life = .run) (target : s.pool.target = some n)
    (free : s.pool.holdBack = 0) (room : s.line.queue.length < 8) :
    s.requestSnapshot.pool = { s.pool with wait := 0, agreement := .resyncing } ∧
    ∃ q ∈ s.requestSnapshot.line.queue, q.key = .request ∧ q.target = some n := by
  have offers : s.offerSnapshotPart = s.offer .request (some n) none := by
    unfold State.offerSnapshotPart
    rw [target]
    exact if_pos free
  have accepted : s.offerSnapshotPart.2 = true := by
    rw [offers]
    exact (s.offer_waits _ _ _ (by simp [acceptsOffer, run]) room).1
  refine ⟨by rw [s.requestSnapshot_effect.1, if_pos accepted], ?_⟩
  have line : s.requestSnapshot.line = s.offerSnapshotPart.1.line := by
    simp [State.requestSnapshot, accepted]
  rw [line, offers]
  exact s.offer_names _ n run room

/-- Asking for a snapshot moves no drive that stands as outside AGREED (R158). -/
theorem State.requestSnapshot_drives (s : State) (settled : ∀ i : Fin 4,
    (s.drives.drives.get i).refreshed (s.ctl.profile.drives.get i) s.ctl.life .resyncing = s.drives.drives.get i) :
    s.requestSnapshot.drives.drives = s.drives.drives := by
  refine Tbl.ext_get fun i => ?_
  simp only [State.requestSnapshot]
  split
  · rw [State.agree_get]
    simpa using settled i
  · simp

/-! ### The rows of the comparison -/

/-- A station that finds its reference's digest equal, before it is AGREED (R90). -/
def State.equalWith (s : State) (clean : Bool) : State :=
  { s with pool := { s.pool with clean := s.pool.clean || clean, held := none, noComparison := 0 } }

theorem State.compareWith_equal (s : State) {h : HistEntry} {d : Digest} (c : Bool) (equal : d = h.digest) :
    s.compareWith h d c = (s.equalWith c).agree .agreed :=
  (s.compareWith_eq h d c).trans (if_pos equal)

theorem State.compareWith_incomplete (s : State) {h : HistEntry} {d : Digest} (c : Bool) (differ : d ≠ h.digest)
    (incomplete : h.complete = false) : s.compareWith h d c = s :=
  (s.compareWith_eq h d c).trans ((if_neg differ).trans (if_pos incomplete))

theorem State.compareWith_differs (s : State) {h : HistEntry} {d : Digest} (c : Bool) (differ : d ≠ h.digest)
    (complete : h.complete = true) : s.compareWith h d c =
      if s.pool.agreement = .agreed ∨ s.pool.agreement = .uncertain then s.divergedFrom.requestSnapshot
      else { s with pool := { s.pool with noComparison := 0 } } :=
  (s.compareWith_eq h d c).trans ((if_neg differ).trans (if_neg (by simp [complete])))

/-- A comparison that finds no history entry is none (R90). -/
theorem State.compare_unheld (s : State) (f : ReportFrame) (h : f.fold = none ∨ ∃ m : FoldMark, f.fold = some m ∧
    s.pool.history.find? (fun x => x.point == m.point) = none) : s.compare f = s := by
  unfold State.compare
  rcases h with unfolded | ⟨m, fold, unheld⟩
  · rw [unfolded]; exact ite_self s
  · simp only [fold, unheld]; exact ite_self s

/-- The reference's fold point is compared with the history entry held for it (R47, R90). -/
theorem State.compare_held (s : State) (f : ReportFrame) {m : FoldMark} {h : HistEntry} (run : s.ctl.life = .run)
    (reference : s.roster.reference = some f.sender) (other : f.sender ≠ s.own) (fold : f.fold = some m)
    (held : s.pool.history.find? (fun x => x.point == m.point) = some h) :
    s.compare f = s.compareWith h m.digest f.clean := by
  unfold State.compare
  rw [if_pos ⟨run, reference, other⟩]
  simp only [fold, held]

/-- A comparison is made (R93). -/
def State.comparisonMade (s : State) : State := { s with pool := { s.pool with noComparison := 0 } }

theorem State.divergedFrom_agree (s : State) : s.divergedFrom.drives = (s.comparisonMade.agree .diverged).drives ∧
    s.divergedFrom.port = (s.comparisonMade.agree .diverged).port ∧ s.divergedFrom.ctl = s.ctl := by
  unfold State.divergedFrom State.comparisonMade
  exact ⟨rfl, rfl, by simp⟩

/-- The drives of a station that diverged stand while it asks for a snapshot (R158). -/
theorem State.diverged_requestSnapshot_drives (s : State) : s.divergedFrom.requestSnapshot.drives.drives =
    (s.comparisonMade.agree .diverged).drives.drives := by
  obtain ⟨drives, -, ctl⟩ := s.divergedFrom_agree
  rw [← drives]
  refine State.requestSnapshot_drives _ fun i => ?_
  rw [drives, ctl, State.agree_get]
  exact Drive.refreshed_again _ _ _ (by decide) (by decide)

/-- The pool unit of a station that diverged, whether its request for a snapshot is taken or not (R90, R93). -/
theorem State.diverged_requestSnapshot_pool (s : State) :
    (s.divergedFrom.requestSnapshot.pool.agreement = .diverged ∨
      s.divergedFrom.requestSnapshot.pool.agreement = .resyncing) ∧
    s.divergedFrom.requestSnapshot.pool.noComparison = 0 ∧
    s.divergedFrom.requestSnapshot.pool.clean = s.pool.clean ∧
    s.divergedFrom.requestSnapshot.pool.held = s.pool.held ∧
    s.divergedFrom.requestSnapshot.pool.target = s.roster.reference := by
  rw [(State.requestSnapshot_effect _).1, State.divergedFrom_pool]
  split
  · exact ⟨.inr rfl, rfl, rfl, rfl, rfl⟩
  · exact ⟨.inl rfl, rfl, rfl, rfl, rfl⟩

/-- t shows y after the window had the frame: the gaps of y's pool unit may have moved, and FAULT stands as y wants it. -/
structure ReportPlaced (y t : State) : Prop where
  pool : t.pool = { y.pool with gaps := t.pool.gaps }
  queue : t.line.queue = y.line.queue
  drives : t.drives.drives = y.drives.drives
  fault : t.drives.fault = y.faultWanted
  reported : ∀ (b : Block) (e : Event), (b, e) ∈ y.port.arising → Reported t e

/-- x is s in all that a comparison reads and moves. -/
structure CompareBooks (s x : State) : Prop where
  pool : x.pool = s.pool
  clock : x.clock = s.clock
  ctl : x.ctl = s.ctl
  reference : x.roster.reference = s.roster.reference
  drives : x.drives = s.drives
  queue : x.line.queue = s.line.queue

/-- Equal digests make AGREED, and leave nothing to resolve (R90). -/
theorem CompareBooks.agrees {s x t : State} {c : Bool} (books : CompareBooks s x)
    (placed : ReportPlaced ((x.equalWith c).agree .agreed) t) (run : s.ctl.life = .run) :
    t.pool.agreement = .agreed ∧ t.pool.clean = (s.pool.clean || c) ∧ t.pool.held = none ∧ t.pool.noComparison = 0 ∧
    t.pool.target = s.pool.target ∧ t.line.queue = s.line.queue ∧ DrivesFollow s t s.clock.cur .run .agreed ∧
    (s.pool.agreement ≠ .agreed → Reported t
      { kind := .agreement, epoch := s.clock.cur, subject := s.roster.reference, value := 1 }) := by
  have pool := placed.pool
  rw [State.agree_pool, State.equalWith, books.pool] at pool
  have queue : ((x.equalWith c).agree .agreed).line.queue = s.line.queue := by
    rw [(State.agree_frame _ _).2.2.2.1]; exact books.queue
  have follow := DrivesFollow.of_agree (s := s) (x := x.equalWith c) .agreed (congrArg DriveUnit.drives books.drives)
    (congrArg Controller.profile books.ctl) placed.drives placed.reported
  have event (turns : x.pool.agreement ≠ .agreed) := placed.reported _ _ ((x.equalWith c).agree_reports .agreed turns)
  simp only [State.equalWith, books.clock, books.ctl, books.reference, books.pool, run] at follow event
  rw [pool]
  exact ⟨rfl, rfl, rfl, rfl, rfl, placed.queue.trans queue, follow, event⟩

/-- Differing digests at a complete entry make AGREED and UNCERTAIN DIVERGED, and RESYNCING once the snapshot request is
taken (R90, R93, R95). -/
theorem CompareBooks.diverges {s x t : State} {n : Station} (books : CompareBooks s x)
    (placed : ReportPlaced x.divergedFrom.requestSnapshot t) (run : s.ctl.life = .run)
    (reference : s.roster.reference = some n) (turns : s.pool.agreement ≠ .diverged) :
    t.pool.noComparison = 0 ∧ t.pool.clean = s.pool.clean ∧ t.pool.held = s.pool.held ∧ t.pool.target = some n ∧
    t.drives.fault = true ∧ DrivesFollow s t s.clock.cur .run .diverged ∧
    Reported t { kind := .agreement, epoch := s.clock.cur, subject := some n, value := 3 } ∧
    (0 < s.pool.holdBack → t.pool.agreement = .diverged ∧ t.line.queue = s.line.queue) ∧
    (s.pool.holdBack = 0 → s.line.queue.length < 8 → t.pool.agreement = .resyncing ∧ t.pool.wait = 0 ∧
      ∃ q ∈ t.line.queue, q.key = .request ∧ q.target = some n) := by
  have diverged : x.divergedFrom.pool = { s.pool with noComparison := 0, agreement := .diverged, target := some n } := by
    rw [State.divergedFrom_pool, books.pool, books.reference, reference]
  have ctl : x.divergedFrom.ctl = s.ctl := x.divergedFrom_agree.2.2.trans books.ctl
  have queue : x.divergedFrom.line.queue = s.line.queue := by rw [x.divergedFrom_effect.1, books.queue]
  obtain ⟨asked, comparison, clean, held, target⟩ := x.diverged_requestSnapshot_pool
  have fault : t.drives.fault = true := by
    rw [placed.fault, State.faultWanted]
    simp only [State.requestSnapshot_frame, ctl, run]
    rcases asked with h | h <;> rw [h] <;> rfl
  have reported (b : Block) (e : Event) (h : (b, e) ∈ (x.comparisonMade.agree .diverged).port.arising) : Reported t e :=
    placed.reported b e ((State.requestSnapshot_raised _).mem h)
  have follow := DrivesFollow.of_agree (s := s) (x := x.comparisonMade) .diverged
    (congrArg DriveUnit.drives books.drives) (congrArg Controller.profile books.ctl)
    (placed.drives.trans x.diverged_requestSnapshot_drives) reported
  rw [← books.pool] at turns
  have event := reported _ _ (x.comparisonMade.agree_reports .diverged turns)
  simp only [State.comparisonMade, books.clock, books.ctl, books.reference, reference, run] at follow event
  rw [books.pool] at clean held
  rw [books.reference, reference] at target
  refine ⟨?_, ?_, ?_, ?_, fault, follow, event, fun heldBack => ?_, fun free room => ?_⟩
  · rw [placed.pool]; exact comparison
  · rw [placed.pool]; exact clean
  · rw [placed.pool]; exact held
  · rw [placed.pool]; exact target
  · have same := State.requestSnapshot_heldBack x.divergedFrom (by rw [diverged]; exact heldBack)
    rw [placed.queue, placed.pool, same, diverged]
    exact ⟨rfl, queue⟩
  · obtain ⟨pool, asks⟩ := State.requestSnapshot_asks x.divergedFrom (n := n) (by rw [ctl, run]) (by rw [diverged])
      (by rw [diverged]; exact free) (by rw [queue]; exact room)
    rw [placed.queue, placed.pool, pool]
    exact ⟨rfl, rfl, asks⟩

/-- A frame that decides nothing leaves the station's agreement as it stands (R90). -/
theorem CompareBooks.stands {s x t : State} (books : CompareBooks s x) (placed : ReportPlaced x t) :
    t.pool.agreement = s.pool.agreement ∧ t.pool.clean = s.pool.clean ∧ t.pool.held = s.pool.held ∧
    t.pool.noComparison = s.pool.noComparison ∧ t.pool.target = s.pool.target ∧ t.line.queue = s.line.queue := by
  rw [placed.pool, books.pool]
  exact ⟨rfl, rfl, rfl, rfl, rfl, placed.queue.trans books.queue⟩

/-- The window's part moves nothing that the comparison decides (R65, R90). -/
theorem State.windowPlaces_placed (s : State) (f : ReportFrame) (running : s.ctl.inReset = false) :
    ReportPlaced s (s.windowPlaces f).finish := by
  have pool := congrArg State.pool (s.windowPlaces_eq f)
  obtain ⟨-, -, line, -, -, -, ctl, -, drives, port⟩ := s.windowPlaces_frame f
  refine ⟨pool, congrArg (fun l : Line => l.queue) line, by rw [← drives]; rfl, ?_,
    fun b e h => State.finish_reported _ (port ▸ h)⟩
  rw [State.finish_fault _ (by rw [ctl]; exact running), State.faultWanted, ctl, pool]
  rfl

/-- The roster's part of a report moves nothing that the comparison reads (R38, R90). -/
theorem State.rosterReport_books (s : State) (dt : Nat) (f : ReportFrame) (other : f.sender ≠ s.own) :
    CompareBooks s ((s.heard dt).rosterReport f) := by
  obtain ⟨-, -, -, same, -⟩ := (s.heard dt).rosterReport_effect f other
  obtain ⟨-, clock, line, -, -, pool, -, ctl, -, drives⟩ := (s.heard dt).rosterReport_frame f
  exact ⟨pool, clock, ctl, same, drives, by rw [line]; rfl⟩

/-- Settles O41: the frame's comparison goes by its row, and the window moves no part of what it decides. -/
theorem reportsAreCompared : Obligations.ReportsAreCompared := by
  unfold Obligations.ReportsAreCompared
  intro s dt f c hc ready takes wf deltas run reference other apart
  have comes := exec_report_placed s dt f c hc ready takes wf deltas other fun _ => apart
  have books := s.rosterReport_books dt f other
  have placed := ((s.heard dt).reported f).windowPlaces_placed f
    (by rw [((s.heard dt).reported_frame f).2.2]; exact ready.1)
  rw [State.reported] at comes placed
  generalize (((((s.heard dt).rosterReport f).compare f).windowPlaces f)).finish = t at comes placed
  generalize (s.heard dt).rosterReport f = x at books placed
  have compared := (x.compare_compared f).kept
  have row {m : FoldMark} {h : HistEntry} (fold : f.fold = some m)
      (held : s.pool.history.find? (fun x => x.point == m.point) = some h) :
      x.compare f = x.compareWith h m.digest f.clean :=
    x.compare_held f (by rw [books.ctl, run]) (by rw [books.reference, reference])
      (by rw [State.own, books.ctl]; exact other) fold (by rw [books.pool]; exact held)
  refine ⟨t, comes, fun m h fold held => ⟨fun equal => ?_, fun differ complete => ?_, fun differ incomplete => ?_⟩,
    fun unheld => ?_, ?_⟩
  · rw [row fold held, x.compareWith_equal _ equal] at placed
    obtain ⟨agreement, clean, nothing_held, comparison, target, queue, follow, event⟩ := books.agrees placed run
    rw [reference] at event
    exact ⟨agreement, clean, nothing_held, comparison, target, queue, follow, event⟩
  · rw [row fold held, x.compareWith_differs _ differ complete, books.pool] at placed
    by_cases trusting : s.pool.agreement = .agreed ∨ s.pool.agreement = .uncertain
    · rw [if_pos trusting] at placed
      have turns : s.pool.agreement ≠ .diverged := by rcases trusting with k | k <;> simp [k]
      have settled : s.pool.agreement ≠ .resyncing := by rcases trusting with k | k <;> simp [k]
      obtain ⟨comparison, clean, stays, becomes⟩ := books.diverges placed run reference turns
      exact ⟨comparison, clean, stays, fun _ => becomes,
        fun distrusting => absurd distrusting (not_or.mpr ⟨turns, settled⟩)⟩
    · rw [if_neg trusting] at placed
      have pool := placed.pool
      refine ⟨?_, ?_, ?_, fun k => absurd k trusting, fun _ => ⟨?_, ?_, placed.queue.trans books.queue⟩⟩
      all_goals rw [pool]
  · rw [row fold held, x.compareWith_incomplete _ differ incomplete] at placed
    exact books.stands placed
  · rw [x.compare_unheld f (books.pool ▸ unheld)] at placed
    exact books.stands placed
  · obtain ⟨table, foldPoint, history, -⟩ := compared
    rw [books.pool] at table foldPoint history
    rw [placed.pool]
    exact ⟨history, table, foldPoint⟩

end Sys2Proof.Machine
end


section
/-! This station's slot REPORT gone out whole, and another station's LEAVE (R19, R40, R58, R69, R70). -/

namespace Sys2Proof.Machine

/-! ### The slot REPORT -/

/-- s once its slot REPORT x has gone out whole, before the window has it: the line is idle from its end, and the outbox entry
of its epoch is transmitted (R19, R25, R58). -/
def State.slotReportOut (s : State) (x : Tx) (epoch : Epoch) : State :=
  { s with
    now := s.due (s.txEnd x)
    line := { s.line with tx := none, state := .idle (s.due (s.txEnd x)), overlap := false, taken := false }
    builder := { s.builder with
      outbox := s.builder.outbox.map
        (fun y => if y.epoch = epoch then { y with transmitted := true, designated := false } else y) } }

theorem State.frameOut_markTransmitted (s : State) (x : Tx) (epoch : Epoch) :
    (s.frameOut x).markTransmitted epoch = s.slotReportOut x epoch := by
  unfold State.frameOut
  rw [State.until_eq]
  rfl

/-- The slot REPORT gone out whole is this station's own report at the window (R58, R69). -/
theorem State.slotReportSent_eq (s : State) {x : Tx} {e : OutEntry} (sends : s.line.tx = some x)
    (owner : x.owner = .slot e.epoch) (found : s.outEntry e.epoch = some e) : s.slotReportSent =
      (s.slotReportOut x e.epoch).takeReport s.own e.epoch e.deltas := by
  have entry : (s.slotReportOut x e.epoch).outEntry e.epoch = some { e with transmitted := true, designated := false } :=
    (s.markTransmitted_outEntry e.epoch).trans (congrArg _ found)
  simp only [State.slotReportSent, sends, owner, State.enterOwnReport, s.frameOut_markTransmitted, entry]
  rfl

/-- Settles O18: the frame's end, the outbox entry, and this station's own report at the window. -/
theorem slotReportIsSent : Obligations.SlotReportIsSent := by
  unfold Obligations.SlotReportIsSent
  intro s x e ready sends owner found
  have effect := s.slotReportSent_eq sends owner found
  let m := s.slotReportOut x e.epoch
  obtain ⟨now, -, clock, line, roster, builder, adjust, ctl, channels, drives, port, -⟩ :=
    m.takeReport_frame s.own e.epoch e.deltas
  have stays : Ready (m.takeReport s.own e.epoch e.deltas) :=
    ready.of_same (congrArg _ ctl) (congrArg _ ctl) port (m.takeReport_agreement _ _ _) (congrArg _ drives)
  have entered : OwnReportEntered s (m.takeReport s.own e.epoch e.deltas) e := m.takeReport_entered e
  exact ⟨_, ready.inside effect stays, now, congrArg Line.tx line, congrArg Line.state line,
    (congrArg Line.queue line).trans rfl, congrArg Builder.outbox builder, (congrArg Builder.carry builder).trans rfl,
    entered, clock, roster, adjust, ctl, channels, drives, port⟩

/-! ### The LEAVE -/

/-- A LEAVE of another number at a station that listens: its sender's entry is blank, and the records let it go (R40, R70). -/
theorem State.leaveIn_other (s : State) (f : LeaveFrame) (overlap : Bool) (listens : s.listening = true)
    (other : f.sender ≠ s.own) : s.leaveIn f overlap =
      { s.setEntry f.sender .blank with
        window := { s.window with records := s.window.records.map (fun r => r.dismiss f.sender) } } := by
  unfold State.leaveIn
  simp only [s.ownNumber_other overlap other]
  rw [if_pos ⟨listens, other⟩]
  simp only [State.setEntry_frame]

/-- Settles O48: the sender's entry, and the records that let its number go. -/
theorem leavesAreHeard : Obligations.LeavesAreHeard := by
  unfold Obligations.LeavesAreHeard
  intro s dt f ready takes other
  have comes : exec (.leaveReceived dt f) s = .next ((s.heard dt).leaveIn f s.line.overlap).finish :=
    s.frameIn_outside dt (.leave f) (fun overlap s => s.leaveIn f overlap) ready takes rfl
  rw [(s.heard dt).leaveIn_other f s.line.overlap (s.canReceive_listening takes) other] at comes
  obtain ⟨now, -, clock, line, builder, -, pool, adjust, ctl, channels, drives, -⟩ :=
    (s.heard dt).setEntry_frame f.sender .blank
  have entry (n : Station) := (s.heard dt).setEntry_entry f.sender n .blank
  have reference := (s.heard dt).setEntry_reference f.sender .blank
  have reply := ((s.heard dt).setEntry_raised f.sender .blank).reply
  generalize (s.heard dt).setEntry f.sender .blank = x at *
  refine ⟨_, comes, now, (entry _).trans (if_pos rfl), fun n apart => (entry n).trans (if_neg apart), rfl, rfl, pool,
    clock, builder, adjust, ctl, channels, ?_, reference, (congrArg Line.queue line).trans rfl, reply⟩
  exact ready.finish_drives ctl (congrArg Pool.agreement pool) drives

end Sys2Proof.Machine
end


section
/-! Capture totals, their deltas and carries, and saturating additions (R54, R80, R144). -/

namespace Sys2Proof.Machine

/-! ### Capture totals -/

/-- What channel i hands over to pool p: its accumulator times its sign, if it is mapped to p in a mode other than OFF (R54,
R144). -/
def State.channelPart (s : State) (p : Fin 8) (i : Fin 4) : BitVec 64 :=
  if (s.ctl.profile.channels.get i).mode = .off ∨ (s.ctl.profile.channels.get i).pool ≠ p then 0#64
  else if (s.ctl.profile.channels.get i).negative then -(s.channels.get i).acc.signExtend 64
  else (s.channels.get i).acc.signExtend 64

/-- One channel's turn at a capture adds its part (R54). -/
theorem State.add_channelPart (s : State) (p : Fin 8) (i : Fin 4) (sum : BitVec 64) :
    (if (s.ctl.profile.channels.get i).pool = p
      then sum + channelValue (s.ctl.profile.channels.get i) (s.channels.get i) else sum) = sum + s.channelPart p i := by
  unfold State.channelPart channelValue
  by_cases mapped : (s.ctl.profile.channels.get i).pool = p
  · by_cases off : (s.ctl.profile.channels.get i).mode = .off
    · simp [mapped, off]
    · simp [mapped, off]
  · simp [mapped]

theorem State.handedOver_eq (s : State) (p : Fin 8) :
    s.handedOver p = s.channelPart p 0 + s.channelPart p 1 + s.channelPart p 2 + s.channelPart p 3 := by
  simp only [State.handedOver, s.add_channelPart, indexes4, List.foldl_cons, List.foldl_nil]
  rw [zero_add]

theorem State.captureDeltas_length (s : State) : s.captureDeltas.length = s.ctl.profile.pools := by
  simp [State.captureDeltas]

theorem State.captureDeltas_get (s : State) (p : Fin 8) (used : p.val < s.ctl.profile.pools) :
    s.captureDeltas[p.val]? = some (clampDelta (s.captureTotal p)).1 := by
  simp [State.captureDeltas, used]

/-! ### The split of a total -/

theorem clampDelta_above {total : BitVec 64} (h : 32767 < total.toInt) :
    clampDelta total = (32767#16, total - 32767#64) := if_pos h

theorem clampDelta_below {total : BitVec 64} (h : total.toInt < -32767) :
    clampDelta total = (-32767#16, total + 32767#64) := by
  rw [clampDelta, if_neg (by omega), if_pos h]

theorem clampDelta_within {total : BitVec 64} (low : -32767 ≤ total.toInt) (high : total.toInt ≤ 32767) :
    clampDelta total = (total.setWidth 16, 0) := by
  rw [clampDelta, if_neg (by omega), if_neg (by omega)]

/-- A total within ±32,767 is its own low half (R54). -/
theorem setWidth_toInt {total : BitVec 64} (low : -32767 ≤ total.toInt) (high : total.toInt ≤ 32767) :
    (total.setWidth 16).toInt = total.toInt := by
  rw [BitVec.toInt_setWidth, Int.bmod_def]
  rw [BitVec.toInt] at *
  omega

theorem setWidth_signExtend {total : BitVec 64} (low : -32767 ≤ total.toInt) (high : total.toInt ≤ 32767) :
    (total.setWidth 16).signExtend 64 = total := by
  apply BitVec.eq_of_toInt_eq
  rw [BitVec.toInt_signExtend_of_le (by decide), setWidth_toInt low high]

/-- A total is split with nothing lost (R54). -/
theorem clampDelta_sum (total : BitVec 64) : (clampDelta total).1.signExtend 64 + (clampDelta total).2 = total := by
  rcases lt_or_ge 32767 total.toInt with above | high
  · rw [clampDelta_above above]
    have limit : (32767#16).signExtend 64 = 32767#64 := by decide
    exact (congrArg (· + _) limit).trans (add_sub_cancel _ total)
  · rcases lt_or_ge total.toInt (-32767) with below | low
    · rw [clampDelta_below below]
      have limit : (-32767#16).signExtend 64 = -32767#64 := by decide
      exact (congrArg (· + _) limit).trans ((congrArg _ (add_comm _ _)).trans (neg_add_cancel_left _ total))
    · rw [clampDelta_within low high]
      simp [setWidth_signExtend low high]

/-- The delta of a total stands within ±32,767: it is the total, or the limit that the total passes (R54). -/
theorem clampDelta_delta (total : BitVec 64) :
    -32767 ≤ (clampDelta total).1.toInt ∧ (clampDelta total).1.toInt ≤ 32767 ∧
    (-32767 ≤ total.toInt → total.toInt ≤ 32767 → (clampDelta total).1.toInt = total.toInt ∧ (clampDelta total).2 = 0) ∧
    (32767 < total.toInt → (clampDelta total).1.toInt = 32767) ∧
    (total.toInt < -32767 → (clampDelta total).1.toInt = -32767) := by
  have upper : (32767#16).toInt = 32767 := by decide
  have lower : (-32767#16).toInt = -32767 := by decide
  rcases lt_or_ge 32767 total.toInt with above | high
  · rw [clampDelta_above above, upper]
    omega
  · rcases lt_or_ge total.toInt (-32767) with below | low
    · rw [clampDelta_below below, lower]
      omega
    · rw [clampDelta_within low high, setWidth_toInt low high]
      exact ⟨low, high, fun _ _ => ⟨rfl, rfl⟩, by omega, by omega⟩

/-! ### Saturating additions -/

theorem satAdd_within {b v : BitVec 32} (low : -2147483648 ≤ b.toInt + v.toInt) (high : b.toInt + v.toInt ≤ 2147483647) :
    satAdd b v = (b + v, none) := by
  rw [satAdd, if_neg (by omega), if_neg (by omega)]

theorem satAdd_above {b v : BitVec 32} (h : 2147483647 < b.toInt + v.toInt) : satAdd b v = (0x7FFFFFFF#32, some true) :=
  if_pos h

theorem satAdd_below {b v : BitVec 32} (h : b.toInt + v.toInt < -2147483648) : satAdd b v = (0x80000000#32, some false) := by
  rw [satAdd, if_neg (by omega), if_pos h]

theorem satAdd_zero (b : BitVec 32) : satAdd b 0 = (b, none) := by
  have zero : (0 : BitVec 32).toInt = 0 := rfl
  have low := b.le_toInt
  have high := b.toInt_lt
  rw [satAdd_within (by omega) (by omega)]
  exact congrArg (·, none) (add_zero b)

/-- A sum within the limits of a balance is the sum of integers (R80). -/
theorem add_toInt_within {b v : BitVec 32} (low : -2147483648 ≤ b.toInt + v.toInt)
    (high : b.toInt + v.toInt ≤ 2147483647) : (b + v).toInt = b.toInt + v.toInt := by
  rw [BitVec.toInt_add]
  exact Int.bmod_eq_of_le (by omega) (by omega)

/-- Settles O36: a total channel by channel, its split at, above and below the limits, and an addition likewise. -/
theorem sumsKeepTheirLimits : Obligations.SumsKeepTheirLimits := by
  unfold Obligations.SumsKeepTheirLimits
  refine ⟨fun s p => ⟨?_, s.captureDeltas_length, s.captureDeltas_get p⟩, fun total => ?_, fun b v => ⟨?_, ?_, ?_⟩⟩
  · rw [State.captureTotal, s.handedOver_eq]
    rfl
  · obtain ⟨low, high, within, above, below⟩ := clampDelta_delta total
    exact ⟨low, high, clampDelta_sum total, within, above, below⟩
  · intro low high
    rw [satAdd_within low high]
    exact ⟨add_toInt_within low high, rfl⟩
  · intro above
    rw [satAdd_above above]
    decide
  · intro below
    rw [satAdd_below below]
    decide

end Sys2Proof.Machine
end


section
/-! What an addition, an item, the gaps of a fold and a late fold write of the pool unit and the port (R71, R80 to R82, R86). -/

namespace Sys2Proof.Machine

/-! ### The table alone -/

/-- t's pool unit is that of s but for the balances and their CLIPPED flags. -/
def TableOnly (s t : State) : Prop := t.pool = { s.pool with table := t.pool.table }

theorem TableOnly.of_pool {s t : State} (h : t.pool = s.pool) : TableOnly s t := by
  rw [TableOnly, h]

theorem TableOnly.refl (s : State) : TableOnly s s := rfl

theorem TableOnly.trans {a b c : State} (h : TableOnly a b) (k : TableOnly b c) : TableOnly a c := by
  rw [TableOnly, k, h]

theorem TableOnly.foldl {α : Type} (f : State → α → State) (h : ∀ s a, TableOnly s (f s a)) (l : List α) (s : State) :
    TableOnly s (l.foldl f s) := by
  induction l generalizing s with
  | nil => exact .refl s
  | cons a t ih => exact (h s a).trans (ih _)

theorem State.addEach_tableOnly (l : List (BitVec 32)) (s : State) (i : Nat) : TableOnly s (s.addEach i l) := by
  induction l generalizing s i with
  | nil => exact .refl s
  | cons v t ih =>
    rw [State.addEach]
    refine TableOnly.trans ?_ (ih _ _)
    split
    · exact s.addBalance_pool _ v
    · exact .refl s

theorem State.applyItem_tableOnly (s : State) (i : AdjItem) : TableOnly s (s.applyItem i) := by
  unfold State.applyItem
  split
  · split
    · rfl
    · exact s.addBalance_pool _ _
  · exact .refl s

theorem State.applyDue_tableOnly (s : State) (a : Adjustment) : TableOnly s (s.applyDue a) :=
  (TableOnly.foldl _ State.applyItem_tableOnly a.items s).trans (.of_pool rfl)

/-- The gaps that additions leave, and those a record opens after them (R71). -/
theorem State.addEach_gaps (s : State) (l : List (BitVec 32)) (i : Nat) (r : Record) :
    (s.addEach i l).pool.gaps = s.pool.gaps ∧ (s.addEach i l).gapsOf r = s.gapsOf r := by
  have only : TableOnly s (s.addEach i l) := s.addEach_tableOnly l i
  refine ⟨?_, by simp [State.gapsOf, State.entry]⟩
  rw [only]

theorem State.lateFold_tableOnly (s : State) (skip : Option Epoch) : TableOnly s (s.lateFold skip) :=
  (TableOnly.foldl (fun (s : State) (r : Record) => s.addEach 0 r.late) (fun s r => State.addEach_tableOnly r.late s 0)
    _ s).trans (.of_pool rfl)

/-! ### CLIPPED events -/

/-- The CLIPPED event of pool p in epoch cur, with the limit met (R80, R190). -/
abbrev clippedEvent (cur : Epoch) (p : Fin 8) (upper : Bool) : Block × Event :=
  (.pool, { kind := .clipped, epoch := cur, subject := some (p.castLE (by decide)), value := if upper then 1 else 0 })

/-- x is the event of an addition of v to pool p's entry in epoch cur: CLIPPED, where the addition saturates and the flag was
clear (R80). -/
def PoolEntry.Clips (entry : PoolEntry) (cur : Epoch) (p : Fin 8) (v : BitVec 32) (x : Block × Event) : Prop :=
  entry.clipped = false ∧ ∃ upper, (satAdd entry.balance v).2 = some upper ∧ x = clippedEvent cur p upper

/-- An addition raises its CLIPPED event and no other (R80). -/
theorem State.mem_addBalance (s : State) (p : Fin 8) (v : BitVec 32) (x : Block × Event) :
    x ∈ (s.addBalance p v).port.arising ↔
      x ∈ s.port.arising ∨ (s.pool.table.get p).Clips s.clock.cur p v x := by
  simp only [State.addBalance, PoolEntry.Clips]
  split
  next fits => simp [fits]
  next upper met =>
    split
    next set => simp [set]
    next clear => simp [clear, met, clippedEvent]

/-- A value of a list laid over the pools from i on is the first, at pool i, or one of the rest, from i + 1 on. -/
theorem exists_getElem?_cons (i : Nat) (v : BitVec 32) (t : List (BitVec 32)) (P : Fin 8 → BitVec 32 → Prop) :
    (∃ p w, i ≤ p.val ∧ (v :: t)[p.val - i]? = some w ∧ P p w) ↔
      (∃ h : i < 8, P ⟨i, h⟩ v) ∨ ∃ p w, i + 1 ≤ p.val ∧ t[p.val - (i + 1)]? = some w ∧ P p w := by
  have shift {p : Fin 8} (later : i + 1 ≤ p.val) : (v :: t)[p.val - i]? = t[p.val - (i + 1)]? := by
    rw [show p.val - i = p.val - (i + 1) + 1 by omega, List.getElem?_cons_succ]
  constructor
  · rintro ⟨p, w, reached, value, holds⟩
    rcases Nat.eq_or_lt_of_le reached with rfl | later
    · obtain rfl : v = w := by simpa using value
      exact .inl ⟨p.isLt, holds⟩
    · exact .inr ⟨p, w, later, shift later ▸ value, holds⟩
  · rintro (⟨used, holds⟩ | ⟨p, w, later, value, holds⟩)
    · exact ⟨⟨i, used⟩, v, le_rfl, by simp, holds⟩
    · exact ⟨p, w, by omega, (shift later).trans value, holds⟩

/-- Additions to pools i, i + 1, … raise the CLIPPED events of each (R80, R81). -/
theorem State.mem_addEach (l : List (BitVec 32)) (s : State) (i : Nat) (x : Block × Event) :
    x ∈ (s.addEach i l).port.arising ↔ x ∈ s.port.arising ∨
      ∃ (p : Fin 8) (v : BitVec 32), i ≤ p.val ∧ l[p.val - i]? = some v ∧
        (s.pool.table.get p).Clips s.clock.cur p v x := by
  induction l generalizing s i with
  | nil => simp [State.addEach]
  | cons v t ih =>
    rw [State.addEach, ih, exists_getElem?_cons, ← or_assoc]
    by_cases used : i < 8
    · simp only [dif_pos used, s.mem_addBalance, (s.addBalance_frame _ v).2.2.1, exists_prop_of_true used]
      refine or_congr_right (exists_congr fun p => exists_congr fun w => and_congr_right fun later => ?_)
      rw [s.addBalance_entry, if_neg (by rintro rfl; exact absurd later (by simp))]
    · simp only [used, dite_false, IsEmpty.exists_iff, or_false]

/-- Adding 0 changes nothing. -/
theorem State.addBalance_zero (s : State) (p : Fin 8) : s.addBalance p 0 = s := by
  simp only [State.addBalance, satAdd_zero, Option.isSome_none, Bool.or_false]
  rw [Tbl.set_get_self]

theorem State.addEach_zeros (l : List (BitVec 32)) (s : State) (i : Nat) (h : ∀ v ∈ l, v = 0) : s.addEach i l = s := by
  induction l generalizing i with
  | nil => rfl
  | cons v t ih =>
    obtain ⟨rfl, rest⟩ := List.forall_mem_cons.mp h
    simp only [State.addEach, s.addBalance_zero, dite_eq_ite, ite_self]
    exact ih _ rest

/-- t's clock is that of s, the events of s are still on their way, and a CLIPPED flag set since then has raised its event
(R80). -/
structure FlagsReported (s t : State) : Prop where
  clock : t.clock = s.clock
  raised : Raised s t
  flags : ∀ p : Fin 8, (s.pool.table.get p).clipped = false → (t.pool.table.get p).clipped = true →
    ∃ upper, clippedEvent s.clock.cur p upper ∈ t.port.arising

theorem FlagsReported.of_table {s t : State} (clock : t.clock = s.clock) (raised : Raised s t)
    (table : t.pool.table = s.pool.table) : FlagsReported s t :=
  ⟨clock, raised, fun p clear set => by rw [table, clear] at set; cases set⟩

theorem FlagsReported.refl (s : State) : FlagsReported s s := .of_table rfl (.refl s) rfl

theorem FlagsReported.trans {a b c : State} (h : FlagsReported a b) (k : FlagsReported b c) : FlagsReported a c := by
  refine ⟨k.clock.trans h.clock, h.raised.trans k.raised, fun p clear set => ?_⟩
  cases flag : (b.pool.table.get p).clipped with
  | true =>
    obtain ⟨upper, event⟩ := h.flags p clear flag
    exact ⟨upper, k.raised.mem event⟩
  | false =>
    obtain ⟨upper, event⟩ := k.flags p flag set
    exact ⟨upper, h.clock ▸ event⟩

theorem FlagsReported.foldl {α : Type} (f : State → α → State) (h : ∀ s a, FlagsReported s (f s a)) (l : List α)
    (s : State) : FlagsReported s (l.foldl f s) := by
  induction l generalizing s with
  | nil => exact .refl s
  | cons a t ih => exact (h s a).trans (ih _)

theorem State.addBalance_flags (s : State) (p : Fin 8) (v : BitVec 32) : FlagsReported s (s.addBalance p v) := by
  refine ⟨by simp, s.addBalance_raised p v, fun q clear set => ?_⟩
  rw [s.addBalance_entry] at set
  split at set
  next same =>
    subst same
    obtain ⟨upper, met⟩ : ∃ upper, (satAdd (s.pool.table.get q).balance v).2 = some upper := by
      simpa [PoolEntry.stepped, clear, Option.isSome_iff_exists] using set
    exact ⟨upper, (s.mem_addBalance q v _).mpr (.inr ⟨clear, upper, met, rfl⟩)⟩
  next => rw [clear] at set; cases set

theorem State.addEach_flags (l : List (BitVec 32)) (s : State) (i : Nat) : FlagsReported s (s.addEach i l) := by
  induction l generalizing s i with
  | nil => exact .refl s
  | cons v t ih =>
    rw [State.addEach]
    refine FlagsReported.trans ?_ (ih _ _)
    split
    · exact s.addBalance_flags _ v
    · exact .refl s

/-- A SET leaves the CLIPPED flags (R80). -/
theorem State.applyItem_flags (s : State) (i : AdjItem) : FlagsReported s (s.applyItem i) := by
  unfold State.applyItem
  split
  next h =>
    split
    · refine ⟨rfl, .of_port rfl, fun p clear set => ?_⟩
      rw [Tbl.get_set] at set
      split at set
      next same => subst same; rw [clear] at set; cases set
      next => rw [clear] at set; cases set
    · exact s.addBalance_flags _ _
  next => exact .refl s

theorem State.applyDue_flags (s : State) (a : Adjustment) : FlagsReported s (s.applyDue a) :=
  (FlagsReported.foldl _ State.applyItem_flags a.items s).trans (.of_table rfl (State.raise_raised _ _ _ _ _) rfl)

end Sys2Proof.Machine
end


section
/-! The gaps of a fold, lost ones, and expired ones (R71, R73, R86, R87). -/

namespace Sys2Proof.Machine

/-! ### Gaps handed over -/

theorem State.mem_gapsOf (s : State) (r : Record) (g : Gap) : g ∈ s.gapsOf r ↔ g.epoch = r.epoch ∧
    mapHas r.expected g.station = true ∧ mapHas r.heard g.station = false ∧
    (s.entry g.station).state ≠ .gone ∧ (s.entry g.station).state ≠ .absent := by
  obtain ⟨n, e⟩ := g
  simp only [State.gapsOf, List.mem_map, List.mem_filter, mem_stations, true_and, Bool.and_eq_true, Bool.not_eq_true',
    bne_iff_ne, Gap.mk.injEq]
  constructor
  · rintro ⟨m, ⟨⟨⟨expected, silent⟩, here⟩, known⟩, rfl, rfl⟩
    exact ⟨rfl, expected, silent, here, known⟩
  · rintro ⟨rfl, expected, silent, here, known⟩
    exact ⟨n, ⟨⟨⟨expected, silent⟩, here⟩, known⟩, rfl, rfl⟩

theorem State.gapsOf_nodup (s : State) (r : Record) : (s.gapsOf r).Nodup :=
  (stations_nodup.filter _).map fun _ _ same => congrArg Gap.station same

theorem insertGap_fresh {l : List Gap} {g : Gap} (fresh : g ∉ l) : (insertGap l g).length = l.length + 1 := by
  have parts := congrArg List.length (List.takeWhile_append_dropWhile (p := fun x => gapBefore x g) (l := l))
  rw [List.length_append] at parts
  rw [insertGap, if_neg (by simpa using fresh), List.length_append, List.length_cons]
  omega

theorem mem_of_mem_enterGaps {l gs : List Gap} {lost : Nat} {g : Gap} (h : g ∈ (enterGaps l lost gs).1) :
    g ∈ l ∨ g ∈ gs := by
  induction gs generalizing l lost with
  | nil => exact .inl h
  | cons x t ih =>
    rw [enterGaps] at h
    split at h
    · rcases ih h with entered | rest
      · exact (mem_insertGap.mp entered).elim (fun e => .inr (e ▸ .head _)) .inl
      · exact .inr (.tail _ rest)
    · exact (ih h).imp_right (.tail _)

theorem mem_enterGaps_of_mem {l : List Gap} (gs : List Gap) (lost : Nat) {g : Gap} (h : g ∈ l) :
    g ∈ (enterGaps l lost gs).1 := by
  induction gs generalizing l lost with
  | nil => exact h
  | cons x t ih =>
    rw [enterGaps]
    split
    · exact ih _ (mem_insertGap.mpr (.inr h))
    · exact ih _ h

/-- As far as the sixteen places go every gap enters (R86). -/
theorem enterGaps_fit {l gs : List Gap} (lost : Nat) (room : l.length + gs.length ≤ 16) :
    enterGaps l lost gs = (gs.foldl insertGap l, lost) := by
  induction gs generalizing l with
  | nil => rfl
  | cons x t ih =>
    have longer := insertGap_length l x
    rw [List.length_cons] at room
    rw [enterGaps, if_pos (by omega), ih (by omega), List.foldl_cons]

/-- Of gaps not in the list yet as many enter as have a place, and the others are lost (R86). -/
theorem enterGaps_count {l gs : List Gap} (lost : Nat) (bound : l.length ≤ 16) (once : gs.Nodup) (fresh : ∀ g ∈ gs, g ∉ l) :
    (enterGaps l lost gs).2 = lost + (l.length + gs.length - 16) ∧
    (enterGaps l lost gs).1.length = min 16 (l.length + gs.length) := by
  induction gs generalizing l lost with
  | nil => simp [enterGaps]; omega
  | cons x t ih =>
    obtain ⟨apart, once⟩ := List.nodup_cons.mp once
    obtain ⟨new, fresh⟩ := List.forall_mem_cons.mp fresh
    rw [enterGaps, List.length_cons]
    split
    next room =>
      have longer := insertGap_fresh new
      obtain ⟨count, length⟩ := ih lost (l := insertGap l x) (by omega) once fun g later entered =>
        (mem_insertGap.mp entered).elim (fun e => apart (e ▸ later)) (fresh g later)
      omega
    next full =>
      obtain ⟨count, length⟩ := ih (lost + 1) bound once fresh
      omega

/-! ### The clean flag -/

/-- The loss of the clean flag raises no event but AGREEMENT (R89). -/
theorem State.mem_loseClean {s : State} {x : Block × Event} (h : x ∈ s.loseClean.port.arising) :
    x ∈ s.port.arising ∨ x.2.kind = .agreement := by
  unfold State.loseClean State.setAgreement State.setAgreementFor at h
  split at h
  · split at h
    · exact .inl h
    · rcases List.mem_append.mp h with before | new
      · exact .inl before
      · exact .inr (List.mem_singleton.mp new ▸ rfl)
  · exact .inl h

/-! ### Gaps opened -/

/-- The gaps of a folded record enter the list, and lost ones cost the clean flag (R71, R86). -/
theorem State.openGaps_pool (s : State) (r : Record) : (s.openGaps r).pool =
    let entered := enterGaps s.pool.gaps 0 (s.gapsOf r)
    { s.pool with
      gaps := entered.1
      clean := if entered.2 = 0 then s.pool.clean else false
      agreement := if entered.2 = 0 then s.pool.agreement
        else if s.pool.agreement = .agreed then .uncertain else s.pool.agreement } := by
  unfold State.openGaps
  dsimp only
  split
  · rfl
  · rw [State.loseClean_pool]
    rfl

theorem State.openGaps_overflow (s : State) (r : Record) (lost : 0 < (enterGaps s.pool.gaps 0 (s.gapsOf r)).2) :
    (Block.pool, { kind := .gapOverflow, epoch := s.clock.cur, subject := none
                   value := BitVec.ofNat 16 (enterGaps s.pool.gaps 0 (s.gapsOf r)).2 }) ∈
      (s.openGaps r).port.arising := by
  unfold State.openGaps
  dsimp only
  rw [if_neg (by omega)]
  exact (State.loseClean_raised _).mem (State.raise_mem _ _ _ _ _)

theorem State.openGaps_unclipped (s : State) (r : Record) {x : Block × Event} (h : x ∈ (s.openGaps r).port.arising)
    (kind : x.2.kind = .clipped) : x ∈ s.port.arising := by
  unfold State.openGaps at h
  dsimp only at h
  split at h
  · exact h
  · rcases State.mem_loseClean h with before | agreement
    · rcases List.mem_append.mp before with before | overflow
      · exact before
      · rw [List.mem_singleton.mp overflow] at kind
        cases kind
    · rw [kind] at agreement
      cases agreement

/-! ### Gaps expired -/

/-- With no gap of the epoch nothing expires (R87). -/
theorem State.expireGaps_none (s : State) {e : Epoch} (h : ∀ g ∈ s.pool.gaps, g.epoch ≠ e) : s.expireGaps e = s := by
  unfold State.expireGaps
  exact if_pos (List.filter_eq_nil_iff.mpr fun g held => by simpa using h g held)

/-- The gaps of an epoch leave the list, and cost the clean flag (R87). -/
theorem State.expireGaps_pool (s : State) {e : Epoch} {g : Gap} (held : g ∈ s.pool.gaps) (same : g.epoch = e) :
    (s.expireGaps e).pool = { s.pool with
      gaps := s.pool.gaps.filter (fun g => g.epoch != e), clean := false
      agreement := if s.pool.agreement = .agreed then .uncertain else s.pool.agreement } := by
  have expired : s.pool.gaps.filter (fun g => g.epoch == e) ≠ [] :=
    List.ne_nil_of_mem (List.mem_filter.mpr ⟨held, by simpa using same⟩)
  unfold State.expireGaps
  dsimp only
  rw [if_neg expired, State.loseClean_pool,
    foldl_keeps State.pool (fun (s : State) (g : Gap) => s.raise .pool .gapExpired (some g.station) g.epoch) fun _ _ => rfl]

/-- Each raises GAP_EXPIRED (R87). -/
theorem raises_gapExpired (l : List Gap) (s : State) {g : Gap} (h : g ∈ l) :
    (Block.pool, { kind := .gapExpired, epoch := s.clock.cur, subject := some g.station, value := g.epoch }) ∈
      (l.foldl (fun s g => s.raise .pool .gapExpired (some g.station) g.epoch) s).port.arising := by
  induction l generalizing s with
  | nil => cases h
  | cons x t ih =>
    rcases List.mem_cons.mp h with rfl | later
    · exact (Raised.foldl _ (fun s (g : Gap) => s.raise_raised .pool .gapExpired (some g.station) g.epoch) t _).mem
        (s.raise_mem _ _ _ _)
    · exact ih _ later

theorem State.expireGaps_raises (s : State) {e : Epoch} {g : Gap} (held : g ∈ s.pool.gaps) (same : g.epoch = e) :
    (Block.pool, { kind := .gapExpired, epoch := s.clock.cur, subject := some g.station, value := g.epoch }) ∈
      (s.expireGaps e).port.arising := by
  have expired : g ∈ s.pool.gaps.filter (fun g => g.epoch == e) := List.mem_filter.mpr ⟨held, by simpa using same⟩
  unfold State.expireGaps
  dsimp only
  rw [if_neg (List.ne_nil_of_mem expired)]
  exact (State.loseClean_raised _).mem (raises_gapExpired _ _ expired)

/-! ### Ageing -/

theorem State.age_room (s : State) (h : s.window.records.length < 8) : s.age = s := if_pos h

/-- s once its oldest record has left the window (R64). -/
def State.oldestLeft (s : State) : State := { s with window := { s.window with records := s.window.records.dropLast } }

/-- With eight records held the oldest leaves, and its gaps expire (R64, R73). -/
theorem State.age_full (s : State) {r : Record} (full : 8 ≤ s.window.records.length) (oldest : s.oldest = some r) :
    s.age = s.oldestLeft.expireGaps r.epoch := by
  unfold State.age
  rw [if_neg (by omega), oldest]
  rfl

/-- The gaps of the epoch that leaves go with it, and where it has none the clean flag and the agreement state stand (R73,
R87). -/
theorem State.age_expires (s : State) {r : Record} (full : 8 ≤ s.window.records.length) (oldest : s.oldest = some r) :
    s.age.window = { s.window with records := s.window.records.dropLast } ∧
    s.age.pool.gaps = s.pool.gaps.filter (fun g => g.epoch != r.epoch) ∧ s.age.pool.table = s.pool.table ∧
    ((∀ g ∈ s.pool.gaps, g.epoch ≠ r.epoch) →
      s.age.pool.clean = s.pool.clean ∧ s.age.pool.agreement = s.pool.agreement) := by
  rw [s.age_full full oldest]
  refine ⟨by simp [State.oldestLeft], ?_⟩
  by_cases expires : ∃ g ∈ s.pool.gaps, g.epoch = r.epoch
  · obtain ⟨g, held, same⟩ := expires
    rw [s.oldestLeft.expireGaps_pool held same]
    exact ⟨rfl, rfl, fun stand => absurd same (stand g held)⟩
  · have stand : ∀ g ∈ s.pool.gaps, g.epoch ≠ r.epoch := fun g held same => expires ⟨g, held, same⟩
    have kept : s.pool.gaps.filter (fun g => g.epoch != r.epoch) = s.pool.gaps :=
      List.filter_eq_self.mpr fun g held => by simpa using stand g held
    rw [s.oldestLeft.expireGaps_none stand]
    exact ⟨kept.symm, rfl, fun _ => ⟨rfl, rfl⟩⟩

/-- A gap that expires by ageing costs the clean flag, with its GAP_EXPIRED event (R87). -/
theorem State.age_gapExpired (s : State) {r : Record} {g : Gap} (full : 8 ≤ s.window.records.length)
    (oldest : s.oldest = some r) (held : g ∈ s.pool.gaps) (same : g.epoch = r.epoch) :
    s.age.pool.clean = false ∧
    s.age.pool.agreement = (if s.pool.agreement = .agreed then .uncertain else s.pool.agreement) ∧
    (Block.pool, { kind := .gapExpired, epoch := s.clock.cur, subject := some g.station, value := g.epoch }) ∈
      s.age.port.arising := by
  have event := s.oldestLeft.expireGaps_raises held same
  rw [s.age_full full oldest, s.oldestLeft.expireGaps_pool held same]
  exact ⟨rfl, rfl, event⟩

end Sys2Proof.Machine
end


section
/-! The fold at a mark: the record, the pool unit, the adjustments due and the late pendings (R64, R71, R72, R81 to R83,
R110). -/

namespace Sys2Proof.Machine

/-! ### Which fold a mark makes -/

/-- The epoch whose record a mark folds (R64). -/
def State.foldEpoch (s : State) : Epoch := s.clock.cur - 1 - BitVec.ofNat 16 s.ctl.profile.foldLag

theorem State.record_epoch {s : State} {e : Epoch} {r : Record} (held : s.record e = some r) : r.epoch = e := by
  simpa using List.find?_some held

theorem State.foldAtMark_folds (s : State) {r : Record} (held : s.record s.foldEpoch = some r)
    (unfolded : r.state ≠ .folded) :
    s.foldAtMark = ((s.foldRecord r).lateFold (some r.epoch)).recordDigest r.epoch := by
  have due := State.record_epoch held
  unfold State.foldEpoch at held due
  simp only [State.foldAtMark, held]
  rw [if_neg unfolded, due]

theorem State.foldAtMark_late (s : State)
    (h : s.record s.foldEpoch = none ∨ ∃ r, s.record s.foldEpoch = some r ∧ r.state = .folded) :
    s.foldAtMark = s.lateFold none := by
  unfold State.foldEpoch at h
  unfold State.foldAtMark
  rcases h with unheld | ⟨r, held, folded⟩
  · simp only [unheld]
  · simp only [held]
    exact if_pos folded

/-! ### The adjustments due -/

/-- The adjustments due at epoch e (R110). -/
def State.dueAt (s : State) (e : Epoch) : List Adjustment := s.adjust.queue.filter (fun a => a.effective == e)

/-- s once the adjustments due at e have left the queue (R110). -/
def State.dueLeft (s : State) (e : Epoch) : State :=
  { s with adjust := { s.adjust with queue := s.adjust.queue.filter (fun a => a.effective != e) } }

theorem State.applyDueAt_eq (s : State) (e : Epoch) : s.applyDueAt e =
    ((s.dueAt e).foldl State.applyDue (s.dueLeft e)).changeRecord e fun r => { r with applied := s.dueAt e } := rfl

theorem State.applyDueAt_tableOnly (s : State) (e : Epoch) : TableOnly s (s.applyDueAt e) := by
  have left : TableOnly s (s.dueLeft e) := .of_pool rfl
  have applied := left.trans (TableOnly.foldl State.applyDue State.applyDue_tableOnly (s.dueAt e) (s.dueLeft e))
  exact applied.trans (.of_pool rfl)

theorem State.applyDueAt_adjust (s : State) (e : Epoch) : (s.applyDueAt e).adjust = (s.dueLeft e).adjust :=
  foldl_keeps State.adjust State.applyDue (by simp) _ _

/-- The record of e lists what was due (R81). -/
theorem State.applyDueAt_window (s : State) (e : Epoch) :
    (s.applyDueAt e).window = (s.changeRecord e fun r => { r with applied := s.dueAt e }).window := by
  have applied := foldl_keeps State.window State.applyDue (by simp) (s.dueAt e) (s.dueLeft e)
  rw [State.applyDueAt_eq]
  unfold State.changeRecord
  rw [applied]
  rfl

/-- The adjustments' items are the steps of each pool (R81, R110). -/
theorem State.applyDueAt_entry (s : State) (e : Epoch) (p : Fin 8) : (s.applyDueAt e).pool.table.get p =
    (itemSteps p ((s.dueAt e).flatMap (fun a => a.items))).foldl PoolEntry.stepped (s.pool.table.get p) :=
  foldl_adjustments_entry State.applyDue (fun s a p => s.applyItems_entry a p) (s.dueAt e) (s.dueLeft e) p

/-- With none due at e none is taken from the queue. -/
theorem State.due_none (s : State) {e : Epoch} (h : ∀ a ∈ s.adjust.queue, a.effective ≠ e) :
    s.dueAt e = [] ∧ s.dueLeft e = s := by
  have left : s.adjust.queue.filter (fun a => a.effective != e) = s.adjust.queue :=
    List.filter_eq_self.mpr fun a queued => by simpa using h a queued
  refine ⟨List.filter_eq_nil_iff.mpr fun a queued => by simpa using h a queued, ?_⟩
  rw [State.dueLeft, left]

theorem State.applyDueAt_none (s : State) {e : Epoch} (h : ∀ a ∈ s.adjust.queue, a.effective ≠ e) :
    s.applyDueAt e = s.changeRecord e fun r => { r with applied := [] } := by
  obtain ⟨due, left⟩ := s.due_none h
  rw [State.applyDueAt_eq, due, left]
  rfl

/-- Each adjustment that falls due raises ADJUST_APPLIED (R110). -/
theorem raises_adjustApplied (l : List Adjustment) (s : State) {a : Adjustment} (h : a ∈ l) :
    (Block.pool, { kind := .adjustApplied, epoch := s.clock.cur, subject := some a.originator
                   value := a.serial.setWidth 16 }) ∈ (l.foldl State.applyDue s).port.arising := by
  induction l generalizing s with
  | nil => cases h
  | cons x t ih =>
    rcases List.mem_cons.mp h with rfl | later
    · have raised := (s.applyItems a).raise_mem .pool .adjustApplied (some a.originator) (a.serial.setWidth 16)
      simp only [State.applyItems_frame] at raised
      exact (Raised.foldl State.applyDue State.applyDue_raised t _).mem raised
    · have event := ih (s.applyDue x) later
      simp only [State.applyDue_frame] at event
      exact event

theorem State.applyDueAt_applied (s : State) {e : Epoch} {a : Adjustment} (due : a ∈ s.dueAt e) :
    (Block.pool, { kind := .adjustApplied, epoch := s.clock.cur, subject := some a.originator
                   value := a.serial.setWidth 16 }) ∈ (s.applyDueAt e).port.arising :=
  raises_adjustApplied (s.dueAt e) (s.dueLeft e) due

theorem State.changeRecord_flags (s : State) (e : Epoch) (f : Record → Record) : FlagsReported s (s.changeRecord e f) :=
  .of_table rfl (.of_port rfl) rfl

theorem State.applyDueAt_flags (s : State) (e : Epoch) : FlagsReported s (s.applyDueAt e) := by
  have left : FlagsReported s (s.dueLeft e) := .of_table rfl (.of_port rfl) rfl
  have applied := left.trans (FlagsReported.foldl State.applyDue State.applyDue_flags (s.dueAt e) (s.dueLeft e))
  exact applied.trans (State.changeRecord_flags _ _ _)

/-! ### The record folded -/

/-- The record once it is folded with the adjustments due (R71, R81). -/
def Record.folded (r : Record) (due : List Adjustment) : Record := { r with applied := due, state := .folded }

@[simp] theorem Record.folded_epoch (r : Record) (due : List Adjustment) : (r.folded due).epoch = r.epoch := rfl

theorem State.foldRecord_adjust (s : State) (r : Record) : (s.foldRecord r).adjust = (s.dueLeft r.epoch).adjust := by
  unfold State.foldRecord
  rw [State.changeRecord_adjust, State.applyDueAt_adjust]
  simp [State.dueLeft]

theorem State.foldRecord_port (s : State) (r : Record) :
    (s.foldRecord r).port = (((s.addEach 0 r.sums).openGaps r).applyDueAt r.epoch).port := State.changeRecord_port _ _ _

theorem State.foldRecord_records (s : State) (r : Record) : (s.foldRecord r).window.records =
    s.window.records.map (fun x => if x.epoch = r.epoch then x.folded (s.dueAt r.epoch) else x) := by
  have due : ((s.addEach 0 r.sums).openGaps r).dueAt r.epoch = s.dueAt r.epoch := by simp [State.dueAt]
  unfold State.foldRecord
  rw [State.changeRecord_records, State.applyDueAt_window, State.changeRecord_records, due]
  simp only [State.openGaps_frame, State.addEach_frame, List.map_map]
  refine List.map_congr_left fun x _ => ?_
  by_cases same : x.epoch = r.epoch <;> simp [same, Record.folded]

theorem State.foldRecord_record (s : State) {e : Epoch} {r : Record} (held : s.record e = some r) :
    (s.foldRecord r).record e = some (r.folded (s.dueAt e)) := by
  have same := State.record_epoch held
  have found := s.record_changeRecord e (fun x => x.folded (s.dueAt e)) fun _ => rfl
  rw [held] at found
  rw [State.record, s.foldRecord_records, same]
  exact found

/-- A fold's sums and items move the table, and its gaps the rest of the pool unit (R71, R81). -/
theorem State.foldRecord_tableOnly (s : State) (r : Record) :
    TableOnly ((s.addEach 0 r.sums).openGaps r) (s.foldRecord r) :=
  (State.applyDueAt_tableOnly _ r.epoch).trans (.of_pool rfl)

/-- The record's sums come before the adjustments due (R81). -/
theorem State.foldRecord_entry (s : State) (r : Record) (p : Fin 8) : (s.foldRecord r).pool.table.get p =
    (recordSteps p r.sums (s.dueAt r.epoch)).foldl PoolEntry.stepped (s.pool.table.get p) := by
  have due : ((s.addEach 0 r.sums).openGaps r).dueAt r.epoch = s.dueAt r.epoch := by simp [State.dueAt]
  have applied := ((s.addEach 0 r.sums).openGaps r).applyDueAt_entry r.epoch p
  rw [due, State.openGaps_pool] at applied
  rw [recordSteps_eq, List.foldl_append]
  refine applied.trans ?_
  rw [State.addEach_entry]
  simp

theorem State.openGaps_flags (s : State) (r : Record) : FlagsReported s (s.openGaps r) :=
  .of_table (by simp) (s.openGaps_raised r) (by rw [State.openGaps_pool])

theorem State.foldRecord_flags (s : State) (r : Record) : FlagsReported s (s.foldRecord r) :=
  (((State.addEach_flags r.sums s 0).trans (State.openGaps_flags _ r)).trans (State.applyDueAt_flags _ r.epoch)).trans
    (State.changeRecord_flags _ _ _)

theorem State.foldRecord_applied (s : State) (r : Record) {a : Adjustment} (due : a ∈ s.dueAt r.epoch) :
    (Block.pool, { kind := .adjustApplied, epoch := s.clock.cur, subject := some a.originator
                   value := a.serial.setWidth 16 }) ∈ (s.foldRecord r).port.arising := by
  have queued : a ∈ ((s.addEach 0 r.sums).openGaps r).dueAt r.epoch := by simpa [State.dueAt] using due
  have event := State.applyDueAt_applied _ queued
  simp only [State.openGaps_frame, State.addEach_frame] at event
  rwa [s.foldRecord_port]

/-! ### The late fold -/

/-- A record after a late fold: its late pending is 0 if it took part (R72, R82). -/
def Record.afterLate (skip : Option Epoch) (r : Record) : Record :=
  if r.state = .folded ∧ some r.epoch ≠ skip then { r with late := r.late.map (fun _ => 0) } else r

theorem State.lateFold_records (s : State) (skip : Option Epoch) :
    (s.lateFold skip).window.records = s.window.records.map (Record.afterLate skip) := by
  unfold State.lateFold
  dsimp only
  rw [foldl_keeps State.window (fun (s : State) (r : Record) => s.addEach 0 r.late) (by simp)]
  rfl

theorem State.lateFold_zeroes (s : State) (skip : Option Epoch) : ∀ x ∈ (s.lateFold skip).window.records,
    x.state = .folded → some x.epoch ≠ skip → ∀ w ∈ x.late, w = 0 := by
  rw [s.lateFold_records]
  intro x after folded apart w pending
  obtain ⟨r, -, rfl⟩ := List.mem_map.mp after
  unfold Record.afterLate at folded apart pending
  split at pending
  next =>
    obtain ⟨-, -, zero⟩ := List.mem_map.mp pending
    exact zero.symm
  next kept =>
    rw [if_neg kept] at folded apart
    exact absurd ⟨folded, apart⟩ kept

/-- The record folded at the same mark stands at the late fold (R82). -/
theorem State.lateFold_skips (s : State) (e : Epoch) : (s.lateFold (some e)).record e = s.record e := by
  have kept (x : Record) : (x.afterLate (some e)).epoch = x.epoch := by
    unfold Record.afterLate
    split <;> rfl
  rw [State.record, s.lateFold_records, List.find?_map]
  simp only [Function.comp_def, kept]
  cases found : s.record e with
  | none => exact congrArg _ found
  | some r =>
    refine (congrArg _ found).trans (congrArg some (if_neg fun late => late.2 ?_))
    rw [State.record_epoch found]

theorem State.addLates_zeros (s : State) (l : List Record) (zero : ∀ x ∈ l, ∀ v ∈ x.late, v = 0) :
    l.foldl (fun s r => s.addEach 0 r.late) s = s := by
  induction l with
  | nil => rfl
  | cons r t ih =>
    obtain ⟨first, rest⟩ := List.forall_mem_cons.mp zero
    rw [List.foldl_cons, s.addEach_zeros r.late 0 first, ih rest]

/-- With no late pending a late fold changes nothing. -/
theorem State.lateFold_nothing (s : State) {skip : Option Epoch}
    (h : ∀ x ∈ s.window.records, x.state = .folded → some x.epoch ≠ skip → ∀ v ∈ x.late, v = 0) :
    s.lateFold skip = s := by
  have records : s.window.records.map (Record.afterLate skip) = s.window.records := by
    refine (List.map_congr_left fun r held => ?_).trans (List.map_id _)
    unfold Record.afterLate
    split
    next late =>
      have same : r.late.map (fun _ => 0) = r.late :=
        (List.map_congr_left fun v pending => (h r held late.1 late.2 v pending).symm).trans (List.map_id _)
      rw [same]
      rfl
    next => rfl
  have folded := s.addLates_zeros (s.window.records.filter (fun r => r.state == .folded && some r.epoch != skip)).reverse
    fun x due => by
      obtain ⟨held, state⟩ := List.mem_filter.mp (List.mem_reverse.mp due)
      simp only [Bool.and_eq_true, beq_iff_eq, bne_iff_ne] at state
      exact h x held state.1 state.2
  unfold State.lateFold
  dsimp only
  rw [folded]
  unfold Record.afterLate at records
  rw [records]

theorem State.lateFold_flags (s : State) (skip : Option Epoch) : FlagsReported s (s.lateFold skip) :=
  (FlagsReported.foldl (fun (s : State) (r : Record) => s.addEach 0 r.late) (fun s r => State.addEach_flags r.late s 0)
    _ s).trans (.of_table rfl (.of_port rfl) rfl)

/-- The late pendings beside a fold are those of the records FOLDED before it (R82). -/
theorem State.foldRecord_late (s : State) (r : Record) :
    ((s.foldRecord r).window.records.filter (fun x => x.state == .folded && some x.epoch != some r.epoch)).reverse =
      s.window.records.reverse.filter (fun x => x.state == .folded && x.epoch != r.epoch) := by
  rw [s.foldRecord_records, ← List.filter_reverse, ← List.map_reverse]
  induction s.window.records.reverse with
  | nil => rfl
  | cons x t ih =>
    rw [List.map_cons, List.filter_cons, List.filter_cons, ih]
    by_cases same : x.epoch = r.epoch
    · simp [same, Record.folded]
    · simp [same]

/-! ### The digest -/

/-- The newest history entry after a fold is of the balances as the fold leaves them (R81, R83). -/
theorem State.recordDigest_last (s : State) (e : Epoch) : (s.recordDigest e).pool.history.getLast? = some
    { point := e, digest := balanceDigest e (s.recordDigest e).balances
      complete := (s.recordDigest e).pool.gaps.isEmpty } := by
  simp [State.recordDigest, State.digestAt, State.balances]

@[simp] theorem State.recordDigest_table (s : State) (e : Epoch) : (s.recordDigest e).pool.table = s.pool.table := rfl

@[simp] theorem State.recordDigest_foldPoint (s : State) (e : Epoch) : (s.recordDigest e).pool.foldPoint = some e := rfl

theorem State.recordDigest_record (s : State) (e d : Epoch) : (s.recordDigest e).record d = s.record d := rfl

theorem State.recordDigest_flags (s : State) (e : Epoch) : FlagsReported s (s.recordDigest e) :=
  .of_table rfl (.of_port rfl) rfl

/-! ### The fold at a mark -/

theorem State.foldAtMark_flags (s : State) : FlagsReported s s.foldAtMark := by
  unfold State.foldAtMark
  dsimp only
  split
  · split
    · exact s.lateFold_flags _
    · exact ((s.foldRecord_flags _).trans (State.lateFold_flags _ _)).trans (State.recordDigest_flags _ _)
  · exact s.lateFold_flags _

/-- Gaps, clean flag and agreement state after a fold are those of the gaps it opens (R71, R86). -/
theorem State.foldAtMark_gaps (s : State) {r : Record} (held : s.record s.foldEpoch = some r)
    (unfolded : r.state ≠ .folded) : s.foldAtMark.pool.gaps = (s.openGaps r).pool.gaps ∧
    s.foldAtMark.pool.clean = (s.openGaps r).pool.clean ∧ s.foldAtMark.pool.agreement = (s.openGaps r).pool.agreement := by
  have only := (s.foldRecord_tableOnly r).trans (State.lateFold_tableOnly _ (some r.epoch))
  obtain ⟨-, gaps⟩ := s.addEach_gaps r.sums 0 r
  have sums : TableOnly s (s.addEach 0 r.sums) := s.addEach_tableOnly r.sums 0
  rw [s.foldAtMark_folds held unfolded]
  unfold TableOnly at only sums
  simp only [State.recordDigest]
  rw [only, State.openGaps_pool, State.openGaps_pool, gaps, sums]
  exact ⟨rfl, rfl, rfl⟩

end Sys2Proof.Machine
end


section
/-! The obligations about the fold at a mark and ageing (R64, R71 to R73, R80 to R83, R86, R87, R110). -/

namespace Sys2Proof.Machine

/-- A fold with no adjustment due and no late pending is its record's alone. -/
theorem State.foldAtMark_plain (s : State) {r : Record} (held : s.record s.foldEpoch = some r)
    (unfolded : r.state ≠ .folded) (late : ∀ x ∈ s.window.records, x.state = .folded → ∀ v ∈ x.late, v = 0) :
    s.foldAtMark = (s.foldRecord r).recordDigest r.epoch := by
  rw [s.foldAtMark_folds held unfolded, State.lateFold_nothing]
  intro x after folded apart
  rw [s.foldRecord_records] at after
  obtain ⟨y, before, rfl⟩ := List.mem_map.mp after
  split at folded
  next same => exact absurd same (by simp [same] at apart)
  next other =>
    rw [if_neg other]
    exact late y before folded

/-- With no adjustment due a fold raises the CLIPPED events of its record's sums, and no other (R80). -/
theorem State.foldRecord_mem_clipped (s : State) {r : Record} (undue : ∀ a ∈ s.adjust.queue, a.effective ≠ r.epoch)
    {x : Block × Event} (kind : x.2.kind = .clipped) : x ∈ (s.foldRecord r).port.arising ↔ x ∈ s.port.arising ∨
      ∃ (p : Fin 8) (v : BitVec 32), r.sums[p.val]? = some v ∧ (s.pool.table.get p).Clips s.clock.cur p v x := by
  have due : ∀ a ∈ ((s.addEach 0 r.sums).openGaps r).adjust.queue, a.effective ≠ r.epoch := by simpa using undue
  have port : (s.foldRecord r).port = ((s.addEach 0 r.sums).openGaps r).port := by
    rw [s.foldRecord_port, State.applyDueAt_none _ due, State.changeRecord_port]
  rw [port]
  have sums := State.mem_addEach r.sums s 0 x
  simp only [Nat.zero_le, true_and, Nat.sub_zero] at sums
  rw [← sums]
  exact ⟨fun h => State.openGaps_unclipped _ r h kind, (State.openGaps_raised _ r).mem⟩

/-- Settles O37: the fold is its record's alone, whose sums are the steps of the pools and raise the CLIPPED events. -/
theorem foldsAddSums : Obligations.FoldsAddSums := by
  unfold Obligations.FoldsAddSums
  intro s e r epoch held unfolded undue late
  obtain rfl : r.epoch = e := State.record_epoch held
  have due : s.record s.foldEpoch = some r := (congrArg s.record epoch).symm.trans held
  have plain := s.foldAtMark_plain due unfolded late
  obtain ⟨nothing, left⟩ := s.due_none undue
  have entry (p : Fin 8) : (s.foldRecord r).pool.table.get p =
      (r.sums[p.val]?.toList.map BalanceStep.add).foldl PoolEntry.stepped (s.pool.table.get p) := by
    rw [s.foldRecord_entry, nothing, recordSteps_eq]
    simp [itemSteps]
  have record : (s.foldRecord r).record r.epoch = some (r.folded []) := nothing ▸ s.foldRecord_record held
  have adjust : (s.foldRecord r).adjust = s.adjust := by rw [s.foldRecord_adjust, left]
  obtain ⟨-, -, clock, line, roster, builder, ctl, channels, drives, -⟩ := s.foldRecord_frame r
  have clips {x : Block × Event} (kind : x.2.kind = .clipped) := s.foldRecord_mem_clipped undue kind
  rw [plain]
  generalize s.foldRecord r = u at *
  refine ⟨rfl, fun p v sum => ?_, fun x arises kind => ?_, fun p without => ?_, u.recordDigest_last _,
    ⟨_, record, rfl, rfl, rfl, rfl⟩, clock, line, roster, builder, adjust, ctl, channels, drives⟩
  · have stepped : u.pool.table.get p = (s.pool.table.get p).stepped (.add v) := by simp [entry p, sum]
    exact ⟨congrArg PoolEntry.balance stepped, congrArg PoolEntry.clipped stepped,
      fun upper met clear => (clips rfl).mpr (.inr ⟨p, v, sum, clear, upper, met, rfl⟩)⟩
  · refine ((clips kind).mp arises).imp_right ?_
    rintro ⟨p, v, sum, clear, upper, met, rfl⟩
    exact ⟨p, v, sum, rfl, clear, by simp [met]⟩
  · exact (entry p).trans (by simp [without])

/-- A fold's steps on a pool: the record's sums, the adjustments due, and the late pendings of the records FOLDED before it
(R81, R82). -/
theorem State.foldAtMark_entry (s : State) {r : Record} (held : s.record s.foldEpoch = some r)
    (unfolded : r.state ≠ .folded) (p : Fin 8) : s.foldAtMark.pool.table.get p =
      (recordSteps p r.sums (s.dueAt r.epoch) ++
        lateSteps p (s.window.records.reverse.filter (fun x => x.state == .folded && x.epoch != r.epoch))).foldl
        PoolEntry.stepped (s.pool.table.get p) := by
  have late := (s.foldRecord r).lateFold_entry (some r.epoch) p
  rw [s.foldRecord_late, s.foldRecord_entry, ← List.foldl_append] at late
  rw [s.foldAtMark_folds held unfolded, State.recordDigest_table, late]

/-- After a mark only the record folded at it can have a late pending (R72, R82). -/
theorem State.foldAtMark_zeroes (s : State) : ∀ x ∈ s.foldAtMark.window.records, x.state = .folded →
    x.epoch ≠ s.foldEpoch → ∀ w ∈ x.late, w = 0 := by
  intro x after folded apart
  by_cases late : s.record s.foldEpoch = none ∨ ∃ r, s.record s.foldEpoch = some r ∧ r.state = .folded
  · rw [s.foldAtMark_late late] at after
    exact s.lateFold_zeroes none x after folded (by simp)
  · obtain ⟨missed, unfolded⟩ := not_or.mp late
    obtain ⟨r, held⟩ := Option.ne_none_iff_exists'.mp missed
    rw [s.foldAtMark_folds held fun f => unfolded ⟨r, held, f⟩] at after
    rw [State.recordDigest_window] at after
    have other : some x.epoch ≠ some r.epoch := by rw [State.record_epoch held]; simpa using apart
    exact State.lateFold_zeroes _ _ x after folded other

/-- Settles O38: the fold's steps in their order, and the late fold with its flags at every mark. -/
theorem foldsApplyAdjustments : Obligations.FoldsApplyAdjustments := by
  unfold Obligations.FoldsApplyAdjustments
  refine ⟨fun s e r epoch held unfolded => ?_, fun s => ⟨s.foldAtMark_zeroes, fun p clear set => ?_, fun late => ?_⟩⟩
  · obtain rfl : r.epoch = e := State.record_epoch held
    have due : s.record s.foldEpoch = some r := (congrArg s.record epoch).symm.trans held
    have folds := s.foldAtMark_folds due unfolded
    have queue : s.foldAtMark.adjust = (s.dueLeft r.epoch).adjust := by
      rw [folds, ← s.foldRecord_adjust]
      simp only [State.recordDigest_adjust, State.lateFold_frame]
    have record : s.foldAtMark.record r.epoch = some (r.folded (s.dueAt r.epoch)) := by
      rw [folds, State.recordDigest_record, State.lateFold_skips, s.foldRecord_record held]
    have entry := s.foldAtMark_entry due unfolded
    have applied {a : Adjustment} (h : a ∈ s.dueAt r.epoch) :
        (Block.pool, { kind := .adjustApplied, epoch := s.clock.cur, subject := some a.originator
                       value := a.serial.setWidth 16 }) ∈ s.foldAtMark.port.arising := by
      rw [folds, State.recordDigest_port]
      exact (State.lateFold_raised _ _).mem (s.foldRecord_applied r h)
    have foldPoint : s.foldAtMark.pool.foldPoint = some r.epoch := by rw [folds, State.recordDigest_foldPoint]
    have history := State.recordDigest_last ((s.foldRecord r).lateFold (some r.epoch)) r.epoch
    rw [← folds] at history
    generalize s.foldAtMark = t at *
    exact ⟨congrArg Adjuster.queue queue, (congrArg Adjuster.lastSerial queue).trans rfl, ⟨_, record, rfl, rfl, rfl⟩,
      fun a => applied, entry, foldPoint, history⟩
  · obtain ⟨upper, event⟩ := s.foldAtMark_flags.flags p clear set
    exact ⟨_, by cases upper <;> simp, event⟩
  · rw [s.foldAtMark_late late]
    have only : TableOnly s (s.lateFold none) := s.lateFold_tableOnly none
    unfold TableOnly at only
    refine ⟨by rw [only], by rw [only], by simp, by rw [only], fun p => ?_⟩
    have due : s.window.records.filter (fun r => r.state == .folded && some r.epoch != none) =
        s.window.records.filter (fun r => r.state == .folded) := List.filter_congr fun r _ => by
      rw [show (some r.epoch != none) = true from rfl, Bool.and_true]
    rw [s.lateFold_entry, due, List.filter_reverse]

/-- What a fold's gaps do to the gap list and the clean flag (R71, R86). -/
theorem State.foldAtMark_opens (s : State) {r : Record} (held : s.record s.foldEpoch = some r)
    (unfolded : r.state ≠ .folded) :
    let entered := enterGaps s.pool.gaps 0 (s.gapsOf r)
    s.foldAtMark.pool.gaps = entered.1 ∧
    s.foldAtMark.pool.clean = (if entered.2 = 0 then s.pool.clean else false) ∧
    s.foldAtMark.pool.agreement = (if entered.2 = 0 then s.pool.agreement
      else if s.pool.agreement = .agreed then .uncertain else s.pool.agreement) := by
  have gaps := s.foldAtMark_gaps held unfolded
  rwa [State.openGaps_pool] at gaps

/-- Lost gaps are reported at the fold (R86). -/
theorem State.foldAtMark_overflow (s : State) {r : Record} (held : s.record s.foldEpoch = some r)
    (unfolded : r.state ≠ .folded) (lost : 0 < (enterGaps s.pool.gaps 0 (s.gapsOf r)).2) :
    (Block.pool, { kind := .gapOverflow, epoch := s.clock.cur, subject := none
                   value := BitVec.ofNat 16 (enterGaps s.pool.gaps 0 (s.gapsOf r)).2 }) ∈
      s.foldAtMark.port.arising := by
  obtain ⟨gaps, opens⟩ := s.addEach_gaps r.sums 0 r
  have event := (s.addEach 0 r.sums).openGaps_overflow r
  simp only [gaps, opens, State.addEach_frame] at event
  rw [s.foldAtMark_folds held unfolded, State.recordDigest_port]
  refine (State.lateFold_raised _ _).mem ?_
  rw [s.foldRecord_port]
  exact (State.applyDueAt_raised _ r.epoch).mem (event lost)

/-- Settles O39: the gaps of a record, those that enter and are lost at its fold, and those that expire by ageing. -/
theorem gapsOpenAndExpire : Obligations.GapsOpenAndExpire := by
  unfold Obligations.GapsOpenAndExpire
  refine ⟨State.mem_gapsOf, fun s e r epoch held unfolded => ?_, fun s => ⟨s.age_room, fun r full oldest => ?_⟩⟩
  · obtain rfl : r.epoch = e := State.record_epoch held
    have due : s.record s.foldEpoch = some r := (congrArg s.record epoch).symm.trans held
    obtain ⟨gaps, clean, agreement⟩ := s.foldAtMark_opens due unfolded
    have overflow := s.foldAtMark_overflow due unfolded
    have once := s.gapsOf_nodup r
    intro t lost
    change t.pool.gaps = _ at gaps
    change t.pool.clean = _ at clean
    change t.pool.agreement = _ at agreement
    refine ⟨fun g opened => ?_, fun g opened => ?_, fun room => ?_, fun bound fresh => ?_, fun zero => ?_,
      fun lossy => ?_⟩
    · exact mem_of_mem_enterGaps (gaps ▸ opened)
    · exact gaps ▸ mem_enterGaps_of_mem _ 0 opened
    · have fit := enterGaps_fit 0 room
      exact ⟨fun g opens => by rw [gaps, fit]; exact (mem_insertGaps _ _).mpr (.inl opens), congrArg Prod.snd fit⟩
    · obtain ⟨count, length⟩ := enterGaps_count 0 bound once fresh
      exact ⟨count.trans (Nat.zero_add _), gaps ▸ length⟩
    · exact ⟨clean.trans (if_pos zero), agreement.trans (if_pos zero)⟩
    · have nonzero : lost ≠ 0 := Nat.ne_of_gt lossy
      exact ⟨clean.trans (if_neg nonzero), agreement.trans (if_neg nonzero), overflow lossy⟩
  · obtain ⟨window, gaps, table, stands⟩ := s.age_expires full oldest
    exact ⟨window, gaps, table, fun g held same => s.age_gapExpired full oldest held same, stands⟩

end Sys2Proof.Machine
end

section
/-! Every step keeps the agreement state NONE exactly outside RUN (R89): the agreement state's own moves, folds and marks. -/

namespace Sys2Proof.Machine

/-- What R89's rule reads of a state: its agreement state and its life-cycle state. -/
def State.standing (s : State) : Agreement × Life := (s.pool.agreement, s.ctl.life)

/-- t has the agreement state NONE exactly outside RUN if s has. -/
def KeepsAgreement (s t : State) : Prop := AgreementFollowsRun s → AgreementFollowsRun t

theorem KeepsAgreement.refl (s : State) : KeepsAgreement s s := id

theorem KeepsAgreement.trans {a b c : State} (h : KeepsAgreement a b) (k : KeepsAgreement b c) : KeepsAgreement a c := k ∘ h

theorem KeepsAgreement.of_standing {s t : State} (h : t.standing = s.standing) : KeepsAgreement s t := by
  obtain ⟨agreement, life⟩ := Prod.mk.inj h
  intro k
  rw [AgreementFollowsRun, agreement, life]
  exact k

/-- In RUN any agreement state but NONE will do. -/
theorem KeepsAgreement.of_run {s t : State} (life : t.ctl.life = .run) (some : t.pool.agreement ≠ .none) :
    KeepsAgreement s t := fun _ => iff_of_false some (not_not_intro life)

/-- Outside RUN the agreement state is to be NONE. -/
theorem KeepsAgreement.of_out {s t : State} (life : t.ctl.life ≠ .run) (none : t.pool.agreement = .none) :
    KeepsAgreement s t := fun _ => iff_of_true none life

/-- A life-cycle state other than RUN may follow another one. -/
theorem KeepsAgreement.of_still_out {s t : State} (before : s.ctl.life ≠ .run) (after : t.ctl.life ≠ .run)
    (agreement : t.pool.agreement = s.pool.agreement) : KeepsAgreement s t :=
  fun k => iff_of_true (agreement.trans (k.mpr before)) after

/-- A fold leaves AGREED for UNCERTAIN at most, which are both RUN's (R86, R87). -/
theorem KeepsAgreement.of_fold {s t : State} (h : FoldKeeps s t) (ctl : t.ctl = s.ctl) : KeepsAgreement s t := by
  rcases h.agreement with same | ⟨agreed, uncertain⟩
  · exact .of_standing (by rw [State.standing, same, ctl]; rfl)
  · intro k
    have run : s.ctl.life = .run := by
      by_contra out
      exact nomatch agreed.symm.trans (k.mpr out)
    exact KeepsAgreement.of_run (by rw [ctl, run]) (by simp [uncertain]) k

/-! ### The agreement state in RUN -/

theorem State.agree_keepsAgreement (s : State) {a : Agreement} (run : s.ctl.life = .run) (some : a ≠ .none) :
    KeepsAgreement s (s.agree a) := .of_run (by simp [run]) (by simpa using some)

theorem State.requestSnapshot_keepsAgreement (s : State) (run : s.ctl.life = .run) : KeepsAgreement s s.requestSnapshot := by
  have pool := s.requestSnapshot_effect.1
  split at pool
  · exact .of_run (by simp [run]) (by simp [pool])
  · exact .of_standing (by simp [State.standing, pool])

theorem State.compareWith_keepsAgreement (s : State) (h : HistEntry) (d : Digest) (c : Bool) (run : s.ctl.life = .run) :
    KeepsAgreement s (s.compareWith h d c) := by
  rw [State.compareWith_eq]
  split
  · exact .of_run (by simp [run]) (by simp)
  · split
    · exact .refl s
    · split
      · have diverged : s.divergedFrom.ctl.life = .run := by simp [State.divergedFrom, run]
        have asks := s.divergedFrom.requestSnapshot_keepsAgreement diverged
        exact .trans (.of_run diverged (by simp [State.divergedFrom])) asks
      · exact .of_standing rfl

theorem State.compare_keepsAgreement (s : State) (f : ReportFrame) : KeepsAgreement s (s.compare f) := by
  unfold State.compare
  split
  next compares =>
    split
    · exact .refl s
    · split
      · exact .refl s
      · exact s.compareWith_keepsAgreement _ _ _ compares.1
  next => exact .refl s

/-- The pool unit of a station that is its own reference, at a slot-phase end in RUN (R91). -/
theorem State.selfReference_pool (s : State) : s.selfReference.pool =
    if s.pool.clean then { s.pool with target := none, held := none, uncleanSelf := 0, agreement := .agreed }
    else if s.pool.uncleanSelf < 7 then
      { s.pool with target := none, held := none, uncleanSelf := s.pool.uncleanSelf + 1, agreement := .uncertain }
    else { s.pool with target := none, held := none, clean := true, uncleanSelf := 0, agreement := .agreed } := by
  simp only [State.selfReference]
  split
  · rw [State.agree_pool]
  · by_cases few : s.pool.uncleanSelf < 7
    · rw [if_neg (by omega), if_pos few, State.agree_pool]
    · rw [if_pos (by omega), if_neg few, State.raise_pool, State.agree_pool, State.agree_pool]

theorem State.selfReference_keepsAgreement (s : State) (run : s.ctl.life = .run) : KeepsAgreement s s.selfReference := by
  refine .of_run (by simp [run]) ?_
  rw [State.selfReference_pool]
  split
  · simp
  · split <;> simp

theorem State.countNoComparison_keepsAgreement (s : State) (run : s.ctl.life = .run) :
    KeepsAgreement s s.countNoComparison := by
  simp only [State.countNoComparison]
  split
  · exact .of_run (by simp [run]) (by simp)
  · exact .of_standing rfl

theorem State.poolPhaseEnd_keepsAgreement (s : State) (run : s.ctl.life = .run) : KeepsAgreement s s.poolPhaseEnd := by
  have start : KeepsAgreement s s.refersToOther := .of_standing rfl
  by_cases h : s.roster.reference = some s.own
  · rw [State.poolPhaseEnd, if_pos h]
    exact s.selfReference_keepsAgreement run
  · obtain ⟨uncertain, diverged, resyncing, settled⟩ := s.poolPhaseEnd_other h
    cases ha : s.pool.agreement with
    | none => rw [settled (.inl ha)]; exact start
    | agreed => rw [settled (.inr ha)]; exact start
    | uncertain => rw [uncertain ha]; exact start.trans (State.countNoComparison_keepsAgreement _ run)
    | diverged => rw [diverged ha]; exact start.trans (State.requestSnapshot_keepsAgreement _ run)
    | resyncing =>
      rw [resyncing ha]
      split
      · exact start.trans (.of_standing (by simp [State.standing]))
      · exact start

/-! ### Marks -/

/-- An install makes the station AGREED; it is made in RUN, or by a joiner that counts as in RUN (R99, R132). -/
theorem State.installHeld_keepsAgreement (s : State) (b : Bool) (installs : b = true → s.ctl.life = .run) :
    KeepsAgreement s (s.installHeld b) := by
  unfold State.installHeld
  split
  · exact .refl s
  next h _ =>
    split
    next test =>
      refine .of_run (Eq.trans (by simp) (?_ : s.ctl.life = .run)) (by simp [s.install_settled h])
      rcases Bool.or_eq_true_iff.mp test with joins | passes
      · exact installs joins
      · simpa using (Bool.and_eq_true_iff.mp passes).1
    next =>
      split
      · exact .of_standing rfl
      · exact .refl s

/-- The responses of window and pool unit to a mark (R64, R94, R95, R99). -/
theorem State.responses_keepAgreement (s : State) (inRun b : Bool) (installs : b = true → s.ctl.life = .run) :
    KeepsAgreement s ((s.windowMark inRun).countMark.installHeld b) := by
  have marked : KeepsAgreement s (s.windowMark inRun) := .of_fold (s.windowMark_keeps inRun) (by simp)
  have counted (x : State) : KeepsAgreement x x.countMark :=
    .of_standing (by simp [State.standing, x.countMark_alike.agreement])
  exact (marked.trans (counted _)).trans (State.installHeld_keepsAgreement _ b (by simpa using installs))

theorem State.controllerMark_life (s : State) (b : Bool) : (s.controllerMark b).ctl.life = s.ctl.life := by
  unfold State.controllerMark
  split
  · rfl
  · split <;> rfl

theorem State.takeMark_keepsAgreement (s : State) (direct : Bool) : KeepsAgreement s (s.takeMark direct) := by
  have counted : KeepsAgreement s s.reportDiscarded.conflictFreeMark := .of_standing (by simp [State.standing])
  have ended (x : State) (b : Bool) : KeepsAgreement x (x.controllerMark b) :=
    .of_standing (by simp [State.standing, x.controllerMark_life])
  have captured (x : State) (b : Bool) (ag : Agreement) :
      KeepsAgreement x (((x.capture direct).controllerMark b).driveMark ag) :=
    .of_standing (by simp [State.standing, State.controllerMark_life])
  by_cases run : s.ctl.life = .run
  · rw [s.takeMark_run direct run]
    exact (counted.trans (State.responses_keepAgreement _ true false nofun)).trans (captured _ _ _)
  · by_cases enters : s.installing = true
    · obtain ⟨h, held⟩ := s.joinInstall_held (s.installing_iff.mp enters).2
      obtain ⟨⟨-, -, agreed, -⟩, -⟩ := s.takeMark_pool_enters direct enters held
      exact .of_run (by rw [(s.takeMark_ctl_enters direct enters).1]) (by simp [agreed])
    · rw [s.takeMark_stays direct run (by simpa using enters)]
      have dropped (x : State) : KeepsAgreement x (if s.ctl.life = .joining then x.dropHeld else x) := by
        split
        · exact .of_standing rfl
        · exact .refl x
      exact ((counted.trans (dropped _)).trans (State.responses_keepAgreement _ false false nofun)).trans (ended _ _)

/-- An epoch begins and its mark is taken. -/
theorem State.markedEpoch_keepsAgreement (s : State) (x : Epoch) (p : Option Station) (o t : Instant) (n : Nat)
    (direct : Bool) : KeepsAgreement s (((s.beginEpoch x p o n).reloadInRun t).takeMark direct) :=
  .trans (.of_standing (by simp [State.standing])) (State.takeMark_keepsAgreement _ direct)

/-- A discontinuity makes a station in RUN RESYNCING, and leaves a joiner's NONE (R95). -/
theorem State.discontinuityResponses_keepsAgreement (s : State) : KeepsAgreement s s.discontinuityResponses := by
  have ctl : s.discontinuityBlocks.ctl = s.ctl := s.discontinuityBlocks_fields.2.2.1
  have pool := s.discontinuityBlocks_pool.2
  have blocks : KeepsAgreement s s.discontinuityBlocks := .of_standing (by rw [State.standing, ctl, pool]; rfl)
  rw [State.discontinuityResponses_eq]
  split
  next run => exact .of_run (by simp [run]) (by simp)
  next =>
    split
    · exact blocks.trans (.of_standing rfl)
    · exact blocks

theorem State.takeDiscontinuity_keepsAgreement (s : State) (x : Epoch) (n : Station) :
    KeepsAgreement s (s.takeDiscontinuity x n) :=
  .trans (.of_standing (by simp [State.standing])) (State.discontinuityResponses_keepsAgreement _)

/-! ### The slot-phase end -/

theorem State.phaseRoster_standing (s : State) : s.phaseRoster.standing = s.standing := by
  rw [State.standing, s.phaseRoster_pool, s.phaseRoster_frame.2.2.2.2.2.2.1]
  rfl

theorem State.phaseOffers_keepsAgreement (s : State) (run : s.ctl.life = .run) : KeepsAgreement s s.phaseOffers := by
  obtain ⟨x, -, xctl, xpool, pool⟩ := s.phaseOffers_pool
  have before : KeepsAgreement s x := .of_standing (by rw [State.standing, xpool, xctl]; rfl)
  have worked := x.poolPhaseEnd_keepsAgreement (by rw [xctl, run])
  refine (before.trans worked).trans (.of_standing ?_)
  rw [State.standing, State.standing, pool, s.phaseOffers_frame.2.2.2.2.2.2.1, (State.poolPhaseEnd_frame x).2.2.2.2.2.2.2.1, xctl]

/-! ### Changes of life -/

theorem State.enterFrozen_keepsAgreement (s : State) {l : Life} (c : MuteCause) (out : l ≠ .run) :
    KeepsAgreement s (s.enterFrozen l c) := by
  obtain ⟨ctl, -, -, -, pool⟩ := s.enterFrozen_fields l c
  exact .of_out (by rw [ctl]; exact out) (by rw [pool])

theorem State.countConflict_keepsAgreement (s : State) : KeepsAgreement s s.countConflict := by
  have counted : KeepsAgreement s s.conflictCounted := .of_standing rfl
  rw [s.countConflict_eq]
  split
  · exact counted.trans (State.enterFrozen_keepsAgreement _ _ nofun)
  · exact counted

theorem State.restartPath_keepsAgreement (s : State) : KeepsAgreement s s.restartPath := by
  obtain ⟨-, ctl, -, -, -, -, -, pool, -⟩ := s.restartListens_fields
  exact .of_out (by simp [s.restartPath_eq, ctl]) (by simp [s.restartPath_eq, pool, Pool.reset])

theorem State.leaveConfig_keepsAgreement (s : State) (config : s.ctl.life = .config) : KeepsAgreement s s.leaveConfig :=
  .of_still_out (by simp [config]) (by simp [State.leaveConfig]) (by simp [State.leaveConfig])

theorem State.found_keepsAgreement (s : State) : KeepsAgreement s s.found := by
  unfold State.found State.foundClock State.foundBlocks
  split <;> exact .of_run (by simp) (by simp [State.setAgreement_pool])

theorem State.enterJoining_keepsAgreement (s : State) (listen : s.ctl.life = .listen) : KeepsAgreement s s.enterJoining :=
  .of_still_out (by simp [listen]) (by simp [State.enterJoining]) (by simp [State.enterJoining])

theorem State.phaseEnd_keepsAgreement (s : State) : KeepsAgreement s s.phaseEnd := by
  have begun : KeepsAgreement s s.phaseBegun := .of_standing rfl
  have roster : KeepsAgreement s s.phaseBegun.phaseRoster := begun.trans (.of_standing (State.phaseRoster_standing _))
  cases h : s.ctl.life with
  | config => rw [State.phaseEnd, h]; exact begun
  | mute => rw [State.phaseEnd, h]; exact begun
  | quiet => rw [State.phaseEnd, h]; exact begun
  | listen => rw [s.phaseEnd_listen h]; exact begun.trans (.of_standing (by simp [State.standing]))
  | joining =>
    obtain ⟨unanswered, due, idle⟩ := s.phaseEnd_joining h
    by_cases hu : s.phaseBegun.phaseRoster.joinUnanswered
    · rw [unanswered hu]; exact roster.trans (State.enterFrozen_keepsAgreement _ _ nofun)
    · by_cases hd : s.phaseBegun.phaseRoster.joinDue
      · rw [due hu hd]; exact roster.trans (.of_standing (by simp [State.standing]))
      · rw [idle hu hd]; exact roster
  | run =>
    have life : s.phaseBegun.phaseRoster.ctl.life = .run :=
      (congrArg Controller.life s.phaseBegun.phaseRoster_frame.2.2.2.2.2.2.1).trans h
    rw [s.phaseEnd_run h]
    exact roster.trans (State.phaseOffers_keepsAgreement _ life)

end Sys2Proof.Machine
end

section
/-! Every step keeps the agreement state NONE exactly outside RUN (R89): receiver, timers, transmitter and service port, the
commands, and the obligation about it. -/

namespace Sys2Proof.Machine

/-! ### MARKs -/

theorem State.ownNumber_keepsAgreement (s : State) (n : Station) (overlap : Bool) : KeepsAgreement s (s.ownNumber n overlap) := by
  unfold State.ownNumber
  split
  · exact s.countConflict_keepsAgreement
  · exact .refl s

/-- The map is examined in LISTEN alone, which a MARK leaves for MUTE or JOINING (R51, R122, R126). -/
theorem State.listenMap_keepsAgreement (s : State) (f : MarkFrame) (listen : s.ctl.life = .listen) :
    KeepsAgreement s (s.listenMap f) := by
  unfold State.listenMap
  dsimp only
  split
  · exact .trans (.of_standing (by rfl)) (State.enterFrozen_keepsAgreement _ _ nofun)
  · split
    · exact .trans (.of_standing (by rfl)) (State.enterJoining_keepsAgreement _ listen)
    · exact .of_standing rfl

theorem State.listenClock_standing (s : State) (f : MarkFrame) : (s.listenClock f).standing = s.standing := by
  simp [State.standing, State.listenClock]

theorem State.listenMark_keepsAgreement (s : State) (f : MarkFrame) (listen : s.ctl.life = .listen) :
    KeepsAgreement s (s.listenMark f) :=
  .trans (.of_standing (s.listenClock_standing f)) (State.listenMap_keepsAgreement _ f
    ((congrArg Prod.snd (s.listenClock_standing f)).trans listen))

theorem State.continuity_keepsAgreement (s : State) (f : MarkFrame) : KeepsAgreement s (s.continuity f) := by
  unfold State.continuity
  split
  · exact s.markedEpoch_keepsAgreement _ _ _ _ _ _
  · split
    · exact .refl s
    · split
      · exact s.takeDiscontinuity_keepsAgreement _ _
      · exact .of_standing rfl

theorem State.probationMark_keepsAgreement (s : State) (f : MarkFrame) : KeepsAgreement s (s.probationMark f) := by
  unfold State.probationMark
  split
  · exact .of_standing rfl
  · exact s.restartPath_keepsAgreement

theorem State.clockMark_keepsAgreement (s : State) (f : MarkFrame) : KeepsAgreement s (s.clockMark f) := by
  unfold State.clockMark
  split
  next => exact .refl s
  next => exact .refl s
  next => exact .refl s
  next listen =>
    split
    · exact s.listenMark_keepsAgreement f listen
    · exact .of_standing rfl
  next joining =>
    split
    · exact s.continuity_keepsAgreement f
    · exact .of_standing rfl
  next run =>
    split
    · split
      · exact s.probationMark_keepsAgreement f
      · exact s.continuity_keepsAgreement f
    · exact .of_standing rfl

theorem State.draw_keepsAgreement (s : State) : KeepsAgreement s s.draw := .of_standing rfl

theorem State.ownNumberMark_keepsAgreement (s : State) (f : MarkFrame) : KeepsAgreement s (s.ownNumberMark f) := by
  unfold State.ownNumberMark
  dsimp only
  split
  · exact (s.draw_keepsAgreement.trans (State.countConflict_keepsAgreement _)).trans (State.clockMark_keepsAgreement _ f)
  · split
    · have listened : KeepsAgreement s (s.draw.listenClock f).countConflict :=
        (s.draw_keepsAgreement.trans (.of_standing (State.listenClock_standing _ f))).trans (State.countConflict_keepsAgreement _)
      split
      next listen => exact listened.trans (State.listenMap_keepsAgreement _ f listen)
      next => exact listened
    · exact (s.draw_keepsAgreement.trans (State.clockMark_keepsAgreement _ f)).trans (State.countConflict_keepsAgreement _)

theorem State.markIn_keepsAgreement (s : State) (f : MarkFrame) (overlap : Bool) : KeepsAgreement s (s.markIn f overlap) := by
  unfold State.markIn
  split
  · exact s.enterFrozen_keepsAgreement _ nofun
  · split
    · exact s.ownNumberMark_keepsAgreement f
    · exact s.clockMark_keepsAgreement f

/-! ### The other frames -/

theorem State.frameIn_keepsAgreement (s : State) (f : Frame) (blocks : Bool → State → State)
    (h : ∀ b x, KeepsAgreement x (blocks b x)) : KeepsAgreement s (s.frameIn f blocks) := by
  unfold State.frameIn
  split
  · split
    · exact .trans (.of_standing (by rfl)) (h _ _)
    · exact .of_standing rfl
  · exact .refl s

theorem State.takeReport_standing (s : State) (n : Station) (e : Epoch) (d : List (BitVec 16)) :
    (s.takeReport n e d).standing = s.standing := by
  simp [State.standing, State.takeReport_agreement]

theorem State.rosterReport_standing (s : State) (f : ReportFrame) : (s.rosterReport f).standing = s.standing := by
  unfold State.rosterReport
  split <;> simp [State.standing]

theorem State.windowTake_standing (s : State) (f : ReportFrame) : (s.windowTake f).standing = s.standing := by
  unfold State.windowTake
  split
  · exact s.takeReport_standing _ _ _
  · rfl

theorem State.windowReport_keepsAgreement (s : State) (f : ReportFrame) : KeepsAgreement s (s.windowReport f) := by
  have taken (x : State) : KeepsAgreement x (x.windowTake f) := .of_standing (x.windowTake_standing f)
  unfold State.windowReport
  split
  · split
    · exact .refl s
    · split
      · exact (s.markedEpoch_keepsAgreement _ _ _ _ _ _).trans (taken _)
      · exact taken s
  · exact .refl s

theorem State.impliedPhaseEnd_keepsAgreement (s : State) (f : ReportFrame) : KeepsAgreement s (s.impliedPhaseEnd f) := by
  have taken (x : State) : KeepsAgreement x (x.windowTake f) := .of_standing (x.windowTake_standing f)
  unfold State.impliedPhaseEnd
  dsimp only
  split
  · have ended := s.draw_keepsAgreement.trans (State.phaseEnd_keepsAgreement _)
    split
    · exact (ended.trans (.of_standing (State.rosterReport_standing _ f))).trans (taken _)
    · exact ended
  · exact (s.draw_keepsAgreement.trans (taken _)).trans (State.phaseEnd_keepsAgreement _)

theorem State.windowResend_keepsAgreement (s : State) (f : ReportFrame) : KeepsAgreement s (s.windowResend f) := by
  unfold State.windowResend
  split
  · split
    · exact .refl s
    · split
      · exact (s.markedEpoch_keepsAgreement _ _ _ _ _ _).trans (State.impliedPhaseEnd_keepsAgreement _ f)
      · exact .of_standing (s.windowTake_standing f)
  · exact .refl s

theorem State.reportIn_keepsAgreement (s : State) (f : ReportFrame) (overlap : Bool) (window : State → State)
    (h : ∀ x, KeepsAgreement x (window x)) : KeepsAgreement s (s.reportIn f overlap window) := by
  unfold State.reportIn
  dsimp only
  split
  · exact s.enterFrozen_keepsAgreement _ nofun
  · have numbered := s.ownNumber_keepsAgreement f.sender overlap
    split
    · exact ((numbered.trans (.of_standing (State.rosterReport_standing _ f))).trans
        (State.compare_keepsAgreement _ f)).trans (h _)
    · exact numbered

theorem State.requestIn_keepsAgreement (s : State) (f : RequestFrame) (overlap : Bool) :
    KeepsAgreement s (s.requestIn f overlap) := by
  have offered (x : State) (k : QKey) : KeepsAgreement x (x.offerKey k) := .of_standing (by simp [State.standing])
  have answered (x : State) : KeepsAgreement x (x.answerPairs f.pairs) :=
    .of_standing (foldl_keeps State.standing _ (by simp [State.standing]) _ x)
  have numbered := s.ownNumber_keepsAgreement f.sender overlap
  unfold State.requestIn State.answerTarget
  dsimp only
  split
  · refine (numbered.trans (answered _)).trans ?_
    split
    · exact .trans (.of_standing (by rfl)) (offered _ _)
    · exact .of_standing rfl
  · exact numbered

theorem State.snapshotIn_keepsAgreement (s : State) (f : SnapshotFrame) (overlap : Bool) :
    KeepsAgreement s (s.snapshotIn f overlap) := by
  have held (x : State) : KeepsAgreement x (x.holdSnapshot f) := by
    unfold State.holdSnapshot
    dsimp only
    split
    · exact .of_standing rfl
    · split <;> exact .of_standing rfl
  have numbered := s.ownNumber_keepsAgreement f.sender overlap
  unfold State.snapshotIn
  dsimp only
  split
  · exact numbered.trans (held _)
  · exact numbered

/-- A refused adjustment leaves AGREED for UNCERTAIN at most (R108). -/
theorem State.judgeAdjust_keepsAgreement (s : State) (f : AdjustFrame) : KeepsAgreement s (s.judgeAdjust f) := by
  have refused (r : RefusalReason) : KeepsAgreement s (s.refuseAdjust f r) :=
    KeepsAgreement.trans (b := s.loseClean) (.of_fold s.loseClean_keeps (by simp))
      (.of_standing (by simp [State.standing, State.refuseAdjust]))
  unfold State.judgeAdjust
  dsimp only
  split
  · exact .refl s
  split
  · exact .refl s
  split
  · exact .refl s
  split
  · exact .refl s
  split
  · exact refused _
  split
  · exact refused _
  split
  · exact refused _
  · exact .of_standing rfl

theorem State.adjustIn_keepsAgreement (s : State) (f : AdjustFrame) (overlap : Bool) :
    KeepsAgreement s (s.adjustIn f overlap) := by
  have numbered := s.ownNumber_keepsAgreement f.sender overlap
  unfold State.adjustIn
  dsimp only
  split
  · exact numbered.trans (State.judgeAdjust_keepsAgreement _ f)
  · exact numbered

theorem State.joinIn_keepsAgreement (s : State) (f : JoinFrame) (overlap : Bool) : KeepsAgreement s (s.joinIn f overlap) := by
  have entered (x : State) : KeepsAgreement x (if f.sender = x.own then x
      else x.setEntry f.sender ((x.entry f.sender).joined x.clock.cur)) := by
    split
    · exact .refl x
    · exact .of_standing (by simp [State.standing])
  have offered (x : State) (c : Prop) [Decidable c] : KeepsAgreement x (if c then x.offerKey .snapshot else x) := by
    split
    · exact .of_standing (by simp [State.standing])
    · exact .refl x
  have numbered := s.ownNumber_keepsAgreement f.sender overlap
  unfold State.joinIn
  dsimp only
  by_cases listens : (s.ownNumber f.sender overlap).listening = true
  · rw [if_pos listens]
    exact (numbered.trans (entered _)).trans (offered _ _)
  · rw [if_neg listens]
    exact numbered

theorem State.leaveIn_keepsAgreement (s : State) (f : LeaveFrame) (overlap : Bool) : KeepsAgreement s (s.leaveIn f overlap) := by
  have numbered := s.ownNumber_keepsAgreement f.sender overlap
  unfold State.leaveIn
  dsimp only
  split
  · exact numbered.trans (.of_standing (by simp [State.standing]))
  · exact numbered

theorem State.discardFrame_standing (s : State) (bytes : List Byte) : (s.discardFrame bytes).standing = s.standing := by
  unfold State.discardFrame
  split <;> rfl

theorem State.abandonFrame_standing (s : State) : s.abandonFrame.standing = s.standing := by
  unfold State.abandonFrame
  split <;> rfl

theorem State.abandonedEnd_standing (s : State) : s.abandonedEnd.standing = s.standing := by
  unfold State.abandonedEnd
  split <;> rfl

theorem State.glitched_standing (s : State) : s.glitched.standing = s.standing := by
  unfold State.glitched
  split
  · split <;> rfl
  all_goals rfl

/-! ### Timers -/

theorem State.autoExpiry_keepsAgreement (s : State) : KeepsAgreement s s.autoExpiry := by
  unfold State.autoExpiry
  split
  · exact .refl s
  · split
    next config =>
      split
      · exact .trans (.of_standing (by rfl)) (State.leaveConfig_keepsAgreement _ config)
      · exact .of_standing rfl
    next => exact .refl s

theorem State.listenExpiry_keepsAgreement (s : State) : KeepsAgreement s s.listenExpiry := by
  have decided (x : State) : KeepsAgreement x x.listenDecision := by
    unfold State.listenDecision
    split
    · split
      · exact x.found_keepsAgreement
      · exact x.enterFrozen_keepsAgreement _ nofun
    · exact .of_standing rfl
  unfold State.listenExpiry
  split
  · exact .refl s
  · split
    · exact .trans (.of_standing (by rfl)) (decided _)
    · exact .refl s

theorem State.silenceExpiry_keepsAgreement (s : State) : KeepsAgreement s s.silenceExpiry := by
  unfold State.silenceExpiry
  split
  · exact .refl s
  · split
    · exact .trans (.of_standing (by rfl)) (State.restartPath_keepsAgreement _)
    · exact .refl s

theorem State.markExpiry_standing (s : State) : s.markExpiry.standing = s.standing := by
  unfold State.markExpiry
  split
  · split <;> rfl
  all_goals rfl

theorem State.nextSlot_standing (s : State) : s.nextSlot.standing = s.standing := by
  have handed (x : State) : x.handOver.standing = x.standing := by
    unfold State.handOver
    split
    · rfl
    · split <;> rfl
  unfold State.nextSlot
  dsimp only
  split
  · rfl
  · split
    · split
      · exact handed _
      · rfl
    · rfl

theorem State.slotsOver_keepsAgreement (s : State) : KeepsAgreement s s.slotsOver := by
  unfold State.slotsOver
  split
  · exact .refl s
  · split
    · exact .trans (.of_standing (by rfl)) (State.phaseEnd_keepsAgreement _)
    · exact .refl s

theorem State.leaveDeadline_keepsAgreement (s : State) : KeepsAgreement s s.leaveDeadline := by
  unfold State.leaveDeadline
  split
  · exact .refl s
  · split
    · exact .trans (.of_standing (by rfl)) (State.enterFrozen_keepsAgreement _ _ nofun)
    · exact .refl s

/-! ### The transmitter -/

theorem State.markBegins_standing (s : State) : s.markBegins.standing = s.standing := by
  unfold State.markBegins
  split
  · split <;> rfl
  all_goals rfl

theorem State.slotReportBegins_standing (s : State) : s.slotReportBegins.standing = s.standing := by
  unfold State.slotReportBegins
  split
  · dsimp only
    split <;> rfl
  · rfl

theorem State.slotMissed_standing (s : State) : s.slotMissed.standing = s.standing := by
  unfold State.slotMissed
  split
  · split
    · simp [State.standing]
    · rfl
  · rfl

theorem State.gapComplete_standing (s : State) : s.gapComplete.standing = s.standing := by
  unfold State.gapComplete
  split
  · split
    · dsimp only
      split <;> rfl
    · rfl
  · rfl

theorem State.whenSent_keepsAgreement (s : State) (key : QKey) (f : State → State) (h : ∀ x, KeepsAgreement x (f x)) :
    KeepsAgreement s (s.whenSent key f) := by
  have out (t : Tx) : KeepsAgreement s (s.queueFrameOut t key) := by
    unfold State.queueFrameOut
    split <;> exact .of_standing rfl
  unfold State.whenSent
  split
  · exact .refl s
  · split
    · exact (out _).trans (h _)
    · exact .refl s

theorem State.ownMark_keepsAgreement (s : State) : KeepsAgreement s s.ownMark := by
  cases sends : s.line.tx with
  | none => rw [State.ownMark, sends]; exact .refl s
  | some x =>
    by_cases own : x.owner = .mark ∧ s.ctl.life = .run
    · have books := s.ownMarkTook_books x
      rw [s.ownMark_eq x sends own.1 own.2]
      exact .trans (.of_standing (by rw [State.standing, books.pool, books.ctl]; rfl)) (State.takeMark_keepsAgreement _ true)
    · rw [State.ownMark, sends]
      dsimp only
      rw [if_neg own]
      exact .refl s

theorem State.enterOwnReport_standing (s : State) (e : Epoch) : (s.enterOwnReport e).standing = s.standing := by
  unfold State.enterOwnReport
  split
  · rfl
  · exact s.takeReport_standing _ _ _

theorem State.slotReportSent_standing (s : State) : s.slotReportSent.standing = s.standing := by
  unfold State.slotReportSent
  split
  · rfl
  · split
    · exact State.enterOwnReport_standing _ _
    all_goals rfl

theorem State.resendSent_keepsAgreement (s : State) : KeepsAgreement s s.resendSent := by
  have out (e : Epoch) (x : State) : KeepsAgreement x (x.resendOut e) := by
    unfold State.resendOut
    split
    · exact .refl x
    · split
      · exact .of_standing rfl
      · exact .of_standing (State.enterOwnReport_standing _ _)
  unfold State.resendSent
  split
  · exact .refl s
  · split
    · exact s.whenSent_keepsAgreement _ _ (out _)
    · exact .refl s

theorem State.adjustSent_keepsAgreement (s : State) : KeepsAgreement s s.adjustSent := by
  unfold State.adjustSent
  split
  · exact .refl s
  · split
    · exact s.whenSent_keepsAgreement _ _ .refl
    · exact .refl s

theorem State.arbitrationLost_keepsAgreement (s : State) : KeepsAgreement s s.arbitrationLost := by
  cases h : s.line.tx with
  | none => rw [State.arbitrationLost, h]; exact .refl s
  | some t =>
    by_cases slot : ∃ e : Epoch, t.owner = .slot e
    · obtain ⟨e, owner⟩ := slot
      rw [s.arbitrationLost_slot t e h owner]
      exact .trans (.of_standing (by simp [State.standing, State.outbid])) (State.countConflict_keepsAgreement _)
    · rw [s.arbitrationLost_other t h fun e k => slot ⟨e, k⟩]
      exact .of_standing rfl

theorem State.driveFault_standing (s : State) : s.driveFault.standing = s.standing := by
  unfold State.driveFault
  split
  · rfl
  · dsimp only
    split
    · simp [State.standing]
    all_goals rfl

/-! ### The service port -/

theorem State.answer_keepsAgreement (s : State) (o : PortOutcome) (r : List Byte) : KeepsAgreement s (s.answer o r) :=
  .of_standing rfl

theorem State.startCommand_keepsAgreement (s : State) : KeepsAgreement s s.startCommand := by
  unfold State.startCommand
  split
  next config =>
    split
    · exact .of_standing rfl
    · exact (s.leaveConfig_keepsAgreement config).trans (State.answer_keepsAgreement _ _ _)
  next => exact .of_standing rfl

theorem State.restart_keepsAgreement (s : State) : KeepsAgreement s s.restart := by
  unfold State.restart
  split
  · exact .of_standing rfl
  · exact s.restartPath_keepsAgreement.trans (State.answer_keepsAgreement _ _ _)

theorem State.readPool_standing (s : State) (i : Byte) : (s.readPool i).standing = s.standing := by
  unfold State.readPool
  split <;> rfl

theorem State.readRoster_standing (s : State) (n : Byte) : (s.readRoster n).standing = s.standing := by
  unfold State.readRoster
  split <;> rfl

theorem State.readRecord_standing (s : State) (p : Byte) : (s.readRecord p).standing = s.standing := by
  unfold State.readRecord
  split
  · split <;> rfl
  · rfl

theorem State.readChannel_standing (s : State) (c : Byte) : (s.readChannel c).standing = s.standing := by
  unfold State.readChannel
  split <;> rfl

theorem State.takeBatch_standing (s : State) (c : Byte) : (s.takeBatch c).standing = s.standing := by
  unfold State.takeBatch
  split <;> rfl

theorem State.takeEvent_standing (s : State) : s.takeEvent.standing = s.standing := by
  unfold State.takeEvent
  split <;> rfl

theorem State.writeProfile_standing (s : State) (n : Byte) (v : BitVec 32) : (s.writeProfile n v).standing = s.standing := by
  unfold State.writeProfile
  split
  · split <;> rfl
  · rfl

theorem State.postAdjustment_standing (s : State) (count : Byte) (sent : List RawItem) :
    (s.postAdjustment count sent).standing = s.standing := by
  unfold State.postAdjustment
  dsimp only
  split
  · rfl
  · split
    · simp [State.standing, State.acceptPost]
    · rfl

theorem State.setDrive_standing (s : State) (i m : Byte) : (s.setDrive i m).standing = s.standing := by
  unfold State.setDrive
  split
  · split
    · rfl
    · simp [State.standing, State.setDriveMode]
  · rfl

theorem State.leaveTaken_standing (s : State) : s.leaveTaken.standing = s.standing := by
  unfold State.leaveTaken
  split <;> rfl

/-! ### Steps -/

/-- An outcome whose next state keeps R89's rule if s does. -/
def OutcomeAgrees (s : State) (o : Host.Outcome State Fault Refusal) : Prop := ∀ t : State, o = .next t → KeepsAgreement s t

theorem OutcomeAgrees.of_next {s t : State} (h : KeepsAgreement s t) : OutcomeAgrees s (.next t) := by
  rintro _ ⟨⟩; exact h

theorem OutcomeAgrees.after {s x : State} {o : Host.Outcome State Fault Refusal} (h : x.standing = s.standing)
    (k : OutcomeAgrees x o) : OutcomeAgrees s o := fun t ht => (KeepsAgreement.of_standing h).trans (k t ht)

theorem State.outside_agrees (s : State) (dt : Nat) (f : State → State) (h : ∀ x, KeepsAgreement x (f x)) :
    OutcomeAgrees s (s.outside dt f) := by
  have later : KeepsAgreement s { s with now := s.now + dt } := .of_standing rfl
  refine .of_next (KeepsAgreement.trans ?_ (.of_standing rfl))
  split
  · exact later
  · exact later.trans (h _)

theorem State.inside_agrees (s : State) (f : State → State) (h : ∀ x, KeepsAgreement x (f x)) :
    OutcomeAgrees s (s.inside f) := by
  refine .of_next (KeepsAgreement.trans ?_ (.of_standing rfl))
  split
  · exact .refl s
  · exact h s

theorem State.outside_stands (s : State) (dt : Nat) (f : State → State) (h : ∀ x, (f x).standing = x.standing) :
    OutcomeAgrees s (s.outside dt f) := s.outside_agrees dt f fun x => .of_standing (h x)

theorem State.inside_stands (s : State) (f : State → State) (h : ∀ x, (f x).standing = x.standing) :
    OutcomeAgrees s (s.inside f) := s.inside_agrees f fun x => .of_standing (h x)

theorem State.frame_agrees (s : State) (dt : Nat) (f : Frame) (blocks : Bool → State → State)
    (h : ∀ b x, KeepsAgreement x (blocks b x)) : OutcomeAgrees s (s.outside dt (fun x => x.frameIn f blocks)) :=
  s.outside_agrees dt _ fun x => x.frameIn_keepsAgreement f blocks h

/-- Every command keeps the agreement state NONE exactly outside RUN. -/
theorem exec_agrees (c : Instr) (s : State) : OutcomeAgrees s (exec c s) := by
  cases c with
  | hardwareReset dt => exact .of_next (.of_standing rfl)
  | hardwareResetEnd dt id rate auto =>
    refine .of_next ?_
    split
    · exact .of_out nofun rfl
    · exact .of_standing rfl
  | autoTimerExpiry => exact s.inside_agrees _ State.autoExpiry_keepsAgreement
  | listenTimerExpiry => exact s.inside_agrees _ State.listenExpiry_keepsAgreement
  | joinSilenceExpiry => exact s.inside_agrees _ State.silenceExpiry_keepsAgreement
  | markTimerExpiry => exact s.inside_stands _ State.markExpiry_standing
  | markBegin => exact s.inside_stands _ State.markBegins_standing
  | ownMark => exact s.inside_agrees _ State.ownMark_keepsAgreement
  | slotStart => exact s.inside_stands _ State.nextSlot_standing
  | slotReportBegin => exact s.inside_stands _ State.slotReportBegins_standing
  | slotReportMissed => exact s.inside_stands _ State.slotMissed_standing
  | slotReportSent => exact s.inside_stands _ State.slotReportSent_standing
  | slotPhaseEnd => exact s.inside_agrees _ State.slotsOver_keepsAgreement
  | openWindowGapComplete => exact s.inside_stands _ State.gapComplete_standing
  | resendSent => exact s.inside_agrees _ State.resendSent_keepsAgreement
  | snapshotSent =>
    exact s.inside_agrees (fun x => x.whenSent .snapshot (fun y => y)) fun x => x.whenSent_keepsAgreement _ _ .refl
  | adjustSent => exact s.inside_agrees _ State.adjustSent_keepsAgreement
  | requestSent =>
    exact s.inside_agrees (fun x => x.whenSent .request (fun y => y)) fun x => x.whenSent_keepsAgreement _ _ .refl
  | joinSent =>
    exact s.inside_agrees (fun x => x.whenSent .join State.joinOut) fun x =>
      x.whenSent_keepsAgreement _ _ fun _ => .of_standing rfl
  | leaveSent =>
    exact s.inside_agrees (fun x => x.whenSent .leave (fun y => y.enterFrozen .quiet .none)) fun x =>
      x.whenSent_keepsAgreement _ _ fun y => y.enterFrozen_keepsAgreement _ nofun
  | leaveDeadline => exact s.inside_agrees _ State.leaveDeadline_keepsAgreement
  | arbitrationLost dt => exact s.outside_agrees dt _ State.arbitrationLost_keepsAgreement
  | driveFault dt => exact s.outside_stands dt _ State.driveFault_standing
  | frameAbandoned dt => exact s.outside_stands dt _ State.abandonFrame_standing
  | frameDiscarded dt bytes =>
    exact s.outside_stands dt (fun x => x.discardFrame bytes) fun x => x.discardFrame_standing bytes
  | markReceived dt f => exact s.frame_agrees dt (.mark f) (fun b x => x.markIn f b) fun b x => x.markIn_keepsAgreement f b
  | reportReceived dt f =>
    exact s.frame_agrees dt (.report f) (fun b x => x.reportIn f b fun y => y.windowReport f) fun b x =>
      x.reportIn_keepsAgreement f b _ fun y => y.windowReport_keepsAgreement f
  | resendReceived dt f =>
    exact s.frame_agrees dt (.resend f) (fun b x => x.reportIn f b fun y => y.windowResend f) fun b x =>
      x.reportIn_keepsAgreement f b _ fun y => y.windowResend_keepsAgreement f
  | requestReceived dt f =>
    exact s.frame_agrees dt (.request f) (fun b x => x.requestIn f b) fun b x => x.requestIn_keepsAgreement f b
  | snapshotReceived dt f =>
    exact s.frame_agrees dt (.snapshot f) (fun b x => x.snapshotIn f b) fun b x => x.snapshotIn_keepsAgreement f b
  | adjustReceived dt f =>
    exact s.frame_agrees dt (.adjust f) (fun b x => x.adjustIn f b) fun b x => x.adjustIn_keepsAgreement f b
  | joinReceived dt f => exact s.frame_agrees dt (.join f) (fun b x => x.joinIn f b) fun b x => x.joinIn_keepsAgreement f b
  | leaveReceived dt f => exact s.frame_agrees dt (.leave f) (fun b x => x.leaveIn f b) fun b x => x.leaveIn_keepsAgreement f b
  | filteredCntRise dt i => exact s.outside_stands dt (fun x => (x.sawPin i .cnt true).cntEdge i) (by simp [State.standing])
  | filteredDirChange dt i =>
    exact s.outside_stands dt (fun x => (x.sawPin i .dir (!(x.channels.get i).dirHigh)).dirEdge i) (by simp [State.standing])
  | filteredGateRise dt i => exact s.outside_stands dt (fun x => (x.sawPin i .gate true).gateRise i) (by simp [State.standing])
  | filteredGateFall dt i => exact s.outside_stands dt (fun x => (x.sawPin i .gate false).gateFall i) (by simp [State.standing])
  | status dt => exact s.outside_stands dt State.readStatus fun _ => rfl
  | readPool dt i => exact s.outside_stands dt (fun x => x.readPool i) fun x => x.readPool_standing i
  | readRoster dt n => exact s.outside_stands dt (fun x => x.readRoster n) fun x => x.readRoster_standing n
  | readRecord dt p => exact s.outside_stands dt (fun x => x.readRecord p) fun x => x.readRecord_standing p
  | readGaps dt => exact s.outside_stands dt State.readGaps fun _ => rfl
  | readChannel dt c => exact s.outside_stands dt (fun x => x.readChannel c) fun x => x.readChannel_standing c
  | takeBatch dt c => exact s.outside_stands dt (fun x => x.takeBatch c) fun x => x.takeBatch_standing c
  | takeEvent dt => exact s.outside_stands dt _ State.takeEvent_standing
  | writeProfile dt n v => exact s.outside_stands dt (fun x => x.writeProfile n v) fun x => x.writeProfile_standing n v
  | start dt => exact s.outside_agrees dt _ State.startCommand_keepsAgreement
  | postAdjustment dt n l => exact s.outside_stands dt (fun x => x.postAdjustment n l) fun x => x.postAdjustment_standing n l
  | setDrive dt i m => exact s.outside_stands dt (fun x => x.setDrive i m) fun x => x.setDrive_standing i m
  | leaveCommand dt => exact s.outside_stands dt _ State.leaveTaken_standing
  | restart dt => exact s.outside_agrees dt _ State.restart_keepsAgreement
  | unknownCommand dt code =>
    refine s.outside_stands dt (fun x => if commandCodes.contains code then x else x.answer .badArgument []) fun x => ?_
    split <;> rfl
  | transactionAbandoned dt => exact s.outside_stands dt (fun x => x) fun _ => rfl
  | glitch dt => exact s.outside_stands dt _ State.glitched_standing
  | abandonedFrameEnd dt => exact s.outside_stands dt _ State.abandonedEnd_standing

theorem takeFilter_agrees (c : FilterChange) (s : State) : OutcomeAgrees s (takeFilter c s) :=
  .of_next (.of_standing (by simp [State.standing]))

theorem takeWire_agrees (dt : Nat) (w : Wire) (s : State) : OutcomeAgrees s (takeWire dt w s) := by
  have taken : (State.wireTakes { s with now := s.now + dt } w).1.standing = s.standing := by simp [State.standing]
  unfold takeWire
  dsimp only
  split
  · exact .of_next (.of_standing taken)
  · exact .after taken (exec_agrees _ _)

theorem takeSample_agrees (t : Instant) (s : State) : OutcomeAgrees s (takeSample t s) := by
  have sampled : (s.comeTo t).sample.1.standing = s.standing := by simp [State.standing, State.comeTo]
  unfold takeSample
  dsimp only
  split
  · exact .of_next (.of_standing sampled)
  next c at_ _ =>
    have kept := OutcomeAgrees.after (x := { (s.comeTo t).sample.1 with now := at_ }) sampled (exec_agrees c _)
    split
    next u hu => exact .of_next ((kept u hu).trans (.of_standing (by simp [State.standing])))
    next => exact fun _ h => nomatch h
    next => exact fun _ h => nomatch h

theorem tickPins_agrees (s : State) : OutcomeAgrees s (tickPins s) := by
  unfold tickPins
  split
  · split
    · exact .of_next (.refl s)
    · exact takeFilter_agrees _ s
  · split
    · exact .after rfl (takeWire_agrees _ _ _)
    · split
      · exact takeFilter_agrees _ s
      · exact .after rfl (takeWire_agrees _ _ _)

theorem tick_agrees (s : State) : OutcomeAgrees s (tick s) := by
  unfold tick
  split
  · exact tickPins_agrees s
  · exact takeSample_agrees _ s
  · split
    · exact takeSample_agrees _ s
    · split
      · exact tickPins_agrees s
      · split
        · exact .after rfl (takeSample_agrees _ s.draw)
        · exact .after rfl (tickPins_agrees s.draw)

/-- Settles O6: every operation of a step keeps the rule, and so does their composition. -/
theorem stepKeepsAgreement : Obligations.StepKeepsAgreement := by
  unfold Obligations.StepKeepsAgreement step
  intro s t follows stepped
  split at stepped
  next => exact tick_agrees s t stepped follows
  next c rest _ => exact exec_agrees c { s with pending := rest } t stepped follows

end Sys2Proof.Machine
end

section
/-! When a SNAPSHOT is installable, and when it is held (R98). -/

namespace Sys2Proof.Machine

/-! ### Epochs at or ahead, at or behind -/

theorem atOrAhead_iff (x y : Epoch) : atOrAhead x y = true ↔ (x - y).toNat ≤ 32767 := by
  have same : x = y ↔ (x - y).toNat = 0 := by bv_omega
  simp only [atOrAhead, ahead, Bool.or_eq_true, beq_iff_eq, Bool.and_eq_true, decide_eq_true_eq, same]
  omega

theorem atOrBehind_iff (x y : Epoch) : atOrBehind x y = true ↔ x = y ∨ 32768 ≤ (x - y).toNat := by
  simp [atOrBehind, behind]

/-! ### The snapshot -/

theorem State.installable_iff (s : State) (f : SnapshotFrame) : s.installable f = true ↔
    f.digest = balanceDigest f.point f.balances ∧
    (∃ r : Record, s.window.records.getLast? = some r ∧ (f.point + 1 - r.epoch).toNat ≤ 32767) ∧
    (f.point = s.clock.cur - BitVec.ofNat 16 s.ctl.profile.foldLag ∨
      32768 ≤ (f.point - (s.clock.cur - BitVec.ofNat 16 s.ctl.profile.foldLag)).toNat) := by
  simp only [State.installable, State.oldest, Bool.and_eq_true, beq_iff_eq, atOrBehind_iff, and_assoc]
  cases s.window.records.getLast? with
  | none => simp
  | some r => simp [atOrAhead_iff]

/-- A snapshot not older than one held is held. -/
theorem State.holdSnapshot_newer (s : State) (f : SnapshotFrame)
    (newer : ∀ h, s.pool.held = some h → atOrAhead f.point h.point = true) :
    s.holdSnapshot f =
      { s with pool := { s.pool with held := some { point := f.point, balances := f.balances, map := f.map } } } := by
  unfold State.holdSnapshot
  cases held : s.pool.held with
  | none => rfl
  | some h => exact if_pos (newer h held)

/-- A snapshot older than the one held is not held. -/
theorem State.holdSnapshot_older (s : State) (f : SnapshotFrame) {h : HeldSnapshot} (held : s.pool.held = some h)
    (older : atOrAhead f.point h.point = false) : s.holdSnapshot f = s := by
  simp [State.holdSnapshot, held, older]

/-- A SNAPSHOT of another number is taken in JOINING, and in RUN while RESYNCING, if it is installable (R98). -/
theorem State.snapshotIn_other (s : State) (f : SnapshotFrame) (overlap : Bool) (other : f.sender ≠ s.own) :
    s.snapshotIn f overlap =
      if (s.ctl.life = .joining ∨ (s.ctl.life = .run ∧ s.pool.agreement = .resyncing)) ∧ s.installable f = true
      then s.holdSnapshot f else s := by
  simp only [State.snapshotIn, s.ownNumber_other overlap other]

/-- Settles O45: the test of a SNAPSHOT clause by clause, and the branches of its reception. -/
theorem snapshotsAreHeld : Obligations.SnapshotsAreHeld := by
  unfold Obligations.SnapshotsAreHeld
  refine ⟨State.installable_iff, fun s dt f ready takes wf fits other => ?_⟩
  have good : (Frame.snapshot f).good s.ctl.profile.pools = true := by simp [Frame.good, wf, fits]
  have comes : exec (.snapshotReceived dt f) s = .next ((s.heard dt).snapshotIn f s.line.overlap).finish :=
    s.frameIn_outside dt (.snapshot f) (fun overlap s => s.snapshotIn f overlap) ready takes good
  rw [(s.heard dt).snapshotIn_other f _ other] at comes
  refine ⟨fun waits installable newer => ?_, fun refused => ?_⟩
  · rw [if_pos ⟨waits, installable⟩, (s.heard dt).holdSnapshot_newer f newer] at comes
    exact comes.trans (congrArg _ (Ready.finish ready))
  · have stays : (if (s.ctl.life = .joining ∨ (s.ctl.life = .run ∧ s.pool.agreement = .resyncing)) ∧
        s.installable f = true then (s.heard dt).holdSnapshot f else s.heard dt) = s.heard dt := by
      refine ite_eq_right_iff.mpr fun ⟨waits, installable⟩ => ?_
      rcases refused with fails | ⟨run, settled⟩ | listen | ⟨h, held, older⟩
      · exact absurd installable (by simp [fails])
      · exact absurd waits (by simp [run, settled])
      · exact absurd waits (by simp [listen])
      · exact (s.heard dt).holdSnapshot_older f held older
    exact comes.trans (congrArg _ ((congrArg State.finish stays).trans (ready.heard dt).finish))

end Sys2Proof.Machine
end

section
/-! What an install does, when it is made, and the marks at which it is made (R80, R99, R132). -/

namespace Sys2Proof.Machine

/-! ### The install -/

/-- The values set from pool i on replace the balances there; a value missing leaves the balance, and the flags stay. -/
theorem setBalances_get (l : List (BitVec 32)) (t : Tbl PoolEntry 8) (i : Nat) (p : Fin 8) : (setBalances t i l).get p =
    if i ≤ p.val then { t.get p with balance := l[p.val - i]?.getD (t.get p).balance } else t.get p := by
  induction l generalizing t i with
  | nil => simp [setBalances]
  | cons v rest ih =>
    rw [setBalances, ih]
    by_cases here : i = p.val
    · subst here
      simp
    · have elsewhere : (if h : i < 8 then t.set ⟨i, h⟩ { t.get ⟨i, h⟩ with balance := v } else t).get p = t.get p := by
        split
        · exact Tbl.get_set_ne t _ fun same => here (congrArg Fin.val same).symm
        · rfl
      rw [elsewhere]
      by_cases later : i + 1 ≤ p.val
      · rw [if_pos later, if_pos (by omega), show p.val - i = (p.val - (i + 1)) + 1 by omega, List.getElem?_cons_succ]
      · rw [if_neg later, if_neg (by omega)]

/-- The state with the balances of the snapshot (R99). -/
def State.withBalances (s : State) (h : HeldSnapshot) : State :=
  { s with pool := { s.pool with table := setBalances s.pool.table 0 (h.balances.take s.ctl.profile.pools) } }

/-- The state with the balances of the snapshot, past the replay of the records ahead of it (R99). -/
def State.replayedOn (s : State) (h : HeldSnapshot) : State :=
  (s.replayed h.point).foldl State.replayRecord (s.withBalances h)

theorem State.replayRecord_tableOnly (s : State) (r : Record) : TableOnly s (s.replayRecord r) :=
  (State.addEach_tableOnly r.sums s 0).trans
    (TableOnly.foldl _ (fun s (a : Adjustment) => TableOnly.foldl _ State.applyItem_tableOnly a.items s) _ _)

theorem State.replayedOn_tableOnly (s : State) (h : HeldSnapshot) : TableOnly s (s.replayedOn h) :=
  TableOnly.trans (b := s.withBalances h) rfl (TableOnly.foldl _ State.replayRecord_tableOnly _ _)

theorem State.replayedOn_ctl (s : State) (h : HeldSnapshot) : (s.replayedOn h).ctl = s.ctl :=
  foldl_keeps State.ctl _ (by simp) _ (s.withBalances h)

/-- Each pool takes the snapshot's balance and then the steps of the records replayed, oldest first (R80, R99). -/
theorem State.replayedOn_entry (s : State) (h : HeldSnapshot) (fits : h.balances.length = s.ctl.profile.pools) (p : Fin 8) :
    (s.replayedOn h).pool.table.get p =
      ((s.replayed h.point).flatMap (fun r => recordSteps p r.sums r.applied)).foldl PoolEntry.stepped
        { s.pool.table.get p with balance := h.balances[p.val]?.getD (s.pool.table.get p).balance } := by
  have start : (s.withBalances h).pool.table.get p =
      { s.pool.table.get p with balance := h.balances[p.val]?.getD (s.pool.table.get p).balance } := by
    rw [State.withBalances, List.take_of_length_le fits.le]
    exact setBalances_get h.balances s.pool.table 0 p
  rw [← start, State.replayedOn]
  generalize s.withBalances h = x
  induction s.replayed h.point generalizing x with
  | nil => rfl
  | cons r rest ih => rw [List.foldl_cons, ih, State.replayRecord_entry, List.flatMap_cons, List.foldl_append]

/-- The gaps that a snapshot does not cover (R99). -/
def HeldSnapshot.gapsLeft (h : HeldSnapshot) (gaps : List Gap) : List Gap :=
  gaps.filter (fun g => !(atOrBehind g.epoch h.point) && mapHas h.map g.station)

/-- The history that starts afresh with the digest of the balances at the fold point (R83, R99). -/
def State.freshHistory (s : State) (h : HeldSnapshot) : List HistEntry :=
  s.pool.foldPoint.toList.map fun e =>
    { point := e, digest := balanceDigest e (s.replayedOn h).balances, complete := (h.gapsLeft s.pool.gaps).isEmpty }

/-- The state past the replay, with no late pending, with the gaps left and no history (R99). -/
def State.replayedClean (s : State) (h : HeldSnapshot) : State :=
  let x := s.replayedOn h
  { x with
    window := { x.window with records := x.window.records.map (fun r => { r with late := r.late.map (fun _ => 0) }) }
    pool := { x.pool with gaps := h.gapsLeft x.pool.gaps, clean := true, history := [] } }

/-- The digest at the latest fold point, if there is one, enters the history (R99). -/
def State.digestKnown (s : State) : State :=
  match s.pool.foldPoint with
  | none => s
  | some f => s.recordDigest f

theorem State.install_eq (s : State) (h : HeldSnapshot) :
    s.install h = { (s.replayedClean h).digestKnown.setAgreement .agreed with
      pool := { ((s.replayedClean h).digestKnown.setAgreement .agreed).pool with
        target := none, held := none, wait := 0, holdBack := 0, noComparison := 0 } } := rfl

/-- The pool unit after an install: the replayed balances, the gaps left, the history afresh, clean and AGREED (R99). -/
theorem State.install_pool (s : State) (h : HeldSnapshot) : (s.install h).pool = { s.pool with
    table := (s.replayedOn h).pool.table, gaps := h.gapsLeft s.pool.gaps, history := s.freshHistory h, clean := true
    agreement := .agreed, target := none, held := none, wait := 0, holdBack := 0, noComparison := 0 } := by
  have only : (s.replayedOn h).pool = { s.pool with table := (s.replayedOn h).pool.table } := s.replayedOn_tableOnly h
  have point : (s.replayedClean h).pool.foldPoint = s.pool.foldPoint :=
    show (s.replayedOn h).pool.foldPoint = s.pool.foldPoint by rw [only]
  simp only [State.install_eq, State.setAgreement_pool, State.digestKnown, State.freshHistory, point]
  cases known : s.pool.foldPoint with
  | none =>
    simp only [State.replayedClean]
    rw [only]
    simp [known]
  | some e =>
    simp only [State.recordDigest, State.digestAt, State.balances, State.replayedClean]
    rw [only]
    rfl

/-! ### The test -/

theorem installTest_iff (p : Epoch) (oldest : Option Record) (point : Option Epoch) : installTest p oldest point = true ↔
    ∃ (r : Record) (f : Epoch), oldest = some r ∧ point = some f ∧ (p + 1 - r.epoch).toNat ≤ 32767 ∧
      (p = f ∨ 32768 ≤ (p - f).toNat) := by
  cases oldest with
  | none => simp [installTest]
  | some r =>
    cases point with
    | none => simp [installTest]
    | some f => simp [installTest, atOrAhead_iff, atOrBehind_iff]

theorem State.record_isSome_iff (s : State) (e : Epoch) :
    (s.record e).isSome = true ↔ ∃ r ∈ s.window.records, r.epoch = e := by
  simp [State.record, List.find?_isSome]

theorem State.joinInstall_iff (s : State) : s.joinInstall = true ↔
    ∃ h : HeldSnapshot, s.pool.held = some h ∧
      installTest h.point
        (if s.window.records.length < 8 then s.window.records else s.window.records.dropLast).getLast?
        (if ∃ r ∈ s.window.records, r.epoch = s.clock.cur - 1 - BitVec.ofNat 16 s.ctl.profile.foldLag
          then some (s.clock.cur - 1 - BitVec.ofNat 16 s.ctl.profile.foldLag) else s.pool.foldPoint) = true := by
  simp only [State.joinInstall, ← State.record_isSome_iff]
  cases s.pool.held with
  | none => simp
  | some h => simp

/-! ### MARKs in LISTEN -/

/-- A station that listens examines the map and moves to MUTE or JOINING or stays; the discarded count stays 0 (R51, R126). -/
theorem State.listenMap_discarded (s : State) (f : MarkFrame) (zero : s.line.discarded = 0) :
    (s.listenMap f).line.discarded = 0 := by
  cases own : mapHas f.map s.own with
  | true =>
    obtain ⟨-, -, line, -⟩ := (s.raise .roster .identityConflict (some f.sender) 0).enterFrozen_fields .mute .identity
    rw [s.listenMap_mutes f own, line]
  | false =>
    by_cases first : s.ctl.matching = 0
    · rw [s.listenMap_counts f own first]; exact zero
    · rw [s.listenMap_joins f own (by omega)]
      simpa [State.enterJoining, State.reloadSilence, State.countMatching] using zero

/-- A matching MARK in LISTEN counts as every mark does (R24, R50). -/
theorem State.listenMark_counted (s : State) (f : MarkFrame) :
    CountedAtMark s (s.listenMark f).finish f.epoch := by
  have shows := (s.listenMark f).finish_shows
  obtain ⟨-, -, -, -, roster, -⟩ := (s.listenClock f).listenMap_frame f
  refine ⟨?_, fun lost => ?_, ?_⟩
  · rw [shows.line]
    exact State.listenMap_discarded _ f (by simp [State.listenClock, State.reportDiscarded_line])
  · have event : (Block.line, { kind := .lineError, epoch := f.epoch, subject := none
                                value := BitVec.ofNat 16 s.line.discarded }) ∈ (s.listenClock f).port.arising := by
      have marked := (s.beginEpoch f.epoch (some f.sender) s.now 0).reportDiscarded_mem lost
      simpa [State.listenClock, State.beginEpoch] using marked
    exact shows.reported _ _ (((s.listenClock f).listenMap_raised f).mem event)
  · rw [ConflictFree, show (s.listenMark f).finish.roster = (s.listenClock f).roster from roster]
    exact s.listenClock_conflictFree f

/-- What obligation O35 asks of a MARK with a snapshot held, whatever the life-cycle state (R99). -/
def SnapshotAtMark (s t : State) (h : HeldSnapshot) : Prop :=
  CountedAtMark s t (s.clock.cur + 1) ∧
  ∃ m : State, AtMark s m (s.clock.cur + 1) ∧
    (s.ctl.life = .run →
      (installTest h.point (m.windowMark true).oldest (m.windowMark true).pool.foldPoint = true →
        InstalledAtMark m t h true ∧ t.window = ((m.windowMark true).install h).window) ∧
      (installTest h.point (m.windowMark true).oldest (m.windowMark true).pool.foldPoint = false →
        DiscardedAtMark m t true ∧ t.window = (m.windowMark true).window)) ∧
    (s.ctl.life = .joining →
      (m.joinInstall = true → JoinerInstalled s m t h (s.clock.cur + 1) true ∧
        t.window = ((m.windowMark true).install h).window) ∧
      (m.joinInstall = false → JoinerStays s m t ∧ t.window = (m.windowMark false).window))

theorem State.listenMark_snapshot (s : State) (f : MarkFrame) (h : HeldSnapshot) (listen : s.ctl.life = .listen)
    (next : f.epoch = s.clock.cur + 1) : SnapshotAtMark s (s.listenMark f).finish h := by
  refine ⟨next ▸ s.listenMark_counted f, { s with clock := { s.clock with cur := s.clock.cur + 1 } },
    ⟨rfl, rfl, rfl, rfl, rfl, rfl, rfl⟩, fun run => ?_, fun joining => ?_⟩
  · exact absurd (listen.symm.trans run) (by decide)
  · exact absurd (listen.symm.trans joining) (by decide)

/-! ### Marks in RUN and JOINING -/

/-- A mark on the books of s with a snapshot held: in RUN it is installed or discarded, in JOINING it brings the station into
RUN or leaves it (R99, R132). -/
theorem SnapshotAtMark.of_shows {s a t : State} {h : HeldSnapshot} (books : SameBooks s a)
    (next : a.clock.cur = s.clock.cur + 1) (held : s.pool.held = some h)
    (timer : s.ctl.life ≠ .run → a.clock.timer = s.clock.timer) (shows : Shows (a.takeMark true) t)
    (counts : ConflictFree s t) : SnapshotAtMark s t h := by
  have counted := CountedAtMark.of_shows books shows counts
  have atMark := books.atMark
  rw [next] at counted atMark
  refine ⟨counted, _, atMark, fun run => ?_, fun joining => ?_⟩
  · obtain ⟨pool, window⟩ := a.takeMark_pool_run true (by rw [books.ctl, run])
    have responses : PoolAtMark a.reportDiscarded.conflictFreeMark t := pool.congr shows.pool (by rw [shows.adjust])
    have stands : (a.reportDiscarded.conflictFreeMark).pool.held = some h := by simp [books.pool, held]
    obtain ⟨installed, discarded⟩ := responses.2 h stands
    have left : t.window = a.reportDiscarded.conflictFreeMark.windowInRun := shows.window.trans window
    rw [State.windowInRun, stands] at left
    refine ⟨fun passes => ⟨installed passes, ?_⟩, fun fails => ⟨discarded fails, ?_⟩⟩
    · simpa [passes] using left
    · simpa [fails] using left
  · rw [a.joinInstall_atMark]
    have waits : a.ctl.life = .joining := by rw [books.ctl, joining]
    refine ⟨fun passes => ?_, fun fails => ?_⟩
    · exact next ▸ JoinerInstalled.of_shows books (a.installing_iff.mpr ⟨waits, passes⟩) shows held
    · obtain ⟨stays, -, window, -⟩ :=
        JoinerStays.of_shows books joining fails (timer (by rw [joining]; decide)) shows
      exact ⟨stays, window⟩

/-- The next MARK that is accepted in RUN or JOINING with a snapshot held (R12, R99). -/
theorem State.continuity_snapshot (s : State) (f : MarkFrame) (h : HeldSnapshot) (next : f.epoch = s.clock.cur + 1)
    (held : s.pool.held = some h) : SnapshotAtMark s (s.continuity f).finish h := by
  have clock := s.tookEpoch_clock f.epoch f.sender
  have counts : ConflictFree s ((s.tookEpoch f.epoch f.sender).takeMark true).finish :=
    ConflictFree.of_books (State.takeMark_conflictFree _ true) (s.tookEpoch_frame f.epoch f.sender).2.2.2
  rw [s.continuity_next f next, State.acceptMark_eq]
  refine .of_shows (s.tookEpoch_books _ _) ?_ held (fun aside => ?_) (State.finish_shows _) counts
  · rw [clock]; exact next
  · rw [clock]; exact if_neg aside

theorem SnapshotAtMark.heard {s t : State} {h : HeldSnapshot} {dt : Nat} (k : SnapshotAtMark (s.heard dt) t h) :
    SnapshotAtMark s t h := k

/-- Settles O35: the install field by field, its tests, and the accepted MARK by the life-cycle state. -/
theorem snapshotsAreInstalled : Obligations.SnapshotsAreInstalled := by
  unfold Obligations.SnapshotsAreInstalled
  refine ⟨fun s h fits => ?_, installTest_iff, State.joinInstall_iff, ?_⟩
  · obtain ⟨-, -, clock, line, roster, builder, adjust, ctl, channels, drives, -⟩ := s.install_frame h
    have pool := s.install_pool h
    have balances : (s.install h).balances = (s.replayedOn h).balances := by
      rw [State.balances, State.balances, pool, ctl, s.replayedOn_ctl]
    dsimp only
    rw [balances, pool]
    refine ⟨rfl, rfl, rfl, rfl, rfl, rfl, rfl, rfl, rfl, rfl, s.install_window h, fun e known => ?_,
      s.replayedOn_entry h fits, clock, line, roster, builder, adjust, ctl, channels, drives⟩
    simp [State.freshHistory, known]
  · intro s dt f h ready takes matching probation stays apart next held
    have comes : exec (.markReceived dt f) s = .next ((s.heard dt).clockMark f).finish := by
      rw [exec_markReceived s dt f ready takes,
        (s.heard dt).markIn_clock f _ (.inl (State.inLeavingEpoch_false (.inr stays))) apart]
    refine ⟨_, comes, ?_, ?_⟩
    · rw [(State.finish_shows _).now, State.clockMark_now]; rfl
    · rcases State.canReceive_life takes with listen | stationed
      · rw [(s.heard dt).clockMark_listen f listen, if_pos (show (s.heard dt).ctl.digest = _ from matching)]
        exact ((s.heard dt).listenMark_snapshot f h listen next).heard
      · rw [(s.heard dt).clockMark_continuity f stationed.symm matching (fun _ => probation)]
        exact ((s.heard dt).continuity_snapshot f h next held).heard

end Sys2Proof.Machine
end

section
/-! The agreement state at a slot-phase end in RUN: the unclean reference of its own, the count without a comparison, and the
snapshot asked for (R91 to R95). -/

namespace Sys2Proof.Machine

/-! ### Offers with a target -/

/-- The queue can take an offer of a key: the key waits already, or there is room (R32). -/
def Admits (q : List QEntry) (k : QKey) : Prop := (∃ x ∈ q, x.key = k) ∨ q.length < 8

/-- The entry of a key that names station n as its target waits in the queue. -/
def Names (q : List QEntry) (k : QKey) (n : Station) : Prop := ∃ x ∈ q, x.key = k ∧ x.target = some n

theorem State.offer_admitted (s : State) {k : QKey} (n : Station) (run : s.ctl.life = .run)
    (admits : Admits s.line.queue k) :
    (s.offer k (some n) none).2 = true ∧ Names (s.offer k (some n) none).1.line.queue k n := by
  by_cases present : ∃ x ∈ s.line.queue, x.key = k
  · have queue := s.offer_present_queue (some n) none run present
    obtain ⟨x, waits, key⟩ := present
    refine ⟨?_, queue ▸ ⟨x.merged (some n) none, List.mem_map.mpr ⟨x, waits, if_pos key⟩, key, rfl⟩⟩
    unfold State.offer
    rw [if_neg (by simp [acceptsOffer, run])]
    split
    · rfl
    next absent => exact absurd key (by simpa using List.find?_eq_none.mp absent x waits)
  · have room : s.line.queue.length < 8 := admits.resolve_left present
    exact ⟨(s.offer_waits k (some n) none (by simp [acceptsOffer, run]) room).1, s.offer_names k n run room⟩

theorem State.offer_barred (s : State) {k : QKey} (t : Option Station) (p : Option (List Pair)) (run : s.ctl.life = .run)
    (bars : ¬Admits s.line.queue k) : s.offer k t p = (s, false) := by
  have absent : s.line.queue.find? (fun e => e.key == k) = none :=
    List.find?_eq_none.mpr fun x waits key => bars (.inl ⟨x, waits, by simpa using key⟩)
  unfold State.offer
  rw [if_neg (by simp [acceptsOffer, run]), absent]
  exact if_neg fun room => bars (.inr room)

/-! ### The snapshot part of the REQUEST -/

/-- With a target, a hold-back count of 0 and a queue that takes it, the snapshot part is offered (R93, R95). -/
theorem State.snapshotPart_asks (s : State) {n : Station} (run : s.ctl.life = .run) (target : s.pool.target = some n)
    (free : s.pool.holdBack = 0) (admits : Admits s.line.queue .request) :
    s.offerSnapshotPart.2 = true ∧ Names s.offerSnapshotPart.1.line.queue .request n := by
  have offers : s.offerSnapshotPart = s.offer .request (some n) none := by
    unfold State.offerSnapshotPart
    rw [target]
    exact if_pos free
  rw [offers]
  exact s.offer_admitted n run admits

/-- Without a target, or while held back, or where the queue takes no REQUEST, nothing is offered (R32, R95). -/
theorem State.snapshotPart_idle (s : State) (run : s.ctl.life = .run)
    (idle : s.pool.target = none ∨ 0 < s.pool.holdBack ∨ ¬Admits s.line.queue .request) :
    s.offerSnapshotPart = (s, false) := by
  unfold State.offerSnapshotPart
  cases target : s.pool.target with
  | none => rfl
  | some n =>
    dsimp only
    split
    next free =>
      have bars := idle.resolve_left (by simp [target]) |>.resolve_left (by omega)
      exact s.offer_barred _ _ run bars
    next => rfl

theorem State.requestSnapshot_idle (s : State) (idle : s.offerSnapshotPart = (s, false)) : s.requestSnapshot = s := by
  simp [State.requestSnapshot, idle]

/-- The snapshot part offered, the station is RESYNCING with the wait count at 0 (R93). -/
theorem State.requestSnapshot_accepted (s : State) (accepted : s.offerSnapshotPart.2 = true) :
    s.requestSnapshot.pool = { s.pool with wait := 0, agreement := .resyncing } ∧
    s.requestSnapshot.line = s.offerSnapshotPart.1.line :=
  ⟨by rw [s.requestSnapshot_effect.1, if_pos accepted], by simp [State.requestSnapshot, accepted]⟩

/-! ### The station's own reference, and the count without a comparison -/

/-- The eighth slot-phase end of an unclean station that is its own reference re-baselines (R91). -/
theorem State.selfReference_rebaselines (s : State) (unclean : s.pool.clean = false) (eighth : s.pool.uncleanSelf = 7) :
    (Block.pool, { kind := .rebaseline, epoch := s.clock.cur, subject := none, value := s.pool.foldPoint.getD 0 }) ∈
      s.selfReference.port.arising := by
  simp only [State.selfReference, unclean, Bool.false_eq_true, if_false]
  rw [if_pos (by omega)]
  simp [optEpoch]

theorem State.countNoComparison_counts (s : State) (few : s.pool.noComparison < 3) :
    s.countNoComparison = { s with pool := { s.pool with noComparison := s.pool.noComparison + 1 } } :=
  if_neg (by omega)

/-- The station resynchronises with its reference (R92). -/
def State.resynced (s : State) : State :=
  ({ s with pool := { s.pool with target := s.roster.reference, wait := 0, noComparison := 0 } }).agree .resyncing

theorem State.countNoComparison_resyncs (s : State) (many : 3 ≤ s.pool.noComparison) :
    s.countNoComparison = s.resynced.offerSnapshotPart.1 := if_pos (by omega)

theorem State.resynced_pool (s : State) : s.resynced.pool = { s.pool with
    target := s.roster.reference, wait := 0, noComparison := 0, agreement := .resyncing } := by
  simp [State.resynced]

theorem State.resynced_frame (s : State) : s.resynced.ctl = s.ctl ∧ s.resynced.line = s.line := by
  simp [State.resynced]

/-! ### The target as the roster leaves it -/

theorem State.countMisses_reference (s : State) : s.countMisses.roster.reference = s.roster.reference := by
  unfold State.countMisses
  split
  · rfl
  · exact foldl_keeps (fun s : State => s.roster.reference) State.countMiss (fun s n => s.setEntry_reference n _) _ s

/-- In DIVERGED and RESYNCING a changed reference is the new target, and the wait count is cleared (R94). -/
theorem State.chooseReference_target (s : State) (asks : s.pool.agreement = .diverged ∨ s.pool.agreement = .resyncing) :
    s.chooseReference.pool = { s.pool with
      target := if s.chosenReference = s.roster.reference then s.pool.target else s.chosenReference
      wait := if s.chosenReference = s.roster.reference then s.pool.wait else 0 } := by
  simp only [State.chooseReference, if_pos asks]
  split <;> rfl

theorem State.phaseRoster_target (s : State) (asks : s.pool.agreement = .diverged ∨ s.pool.agreement = .resyncing) :
    s.phaseRoster.pool = { s.pool with
      target := if s.countMisses.lapseJoins.chosenReference = s.roster.reference then s.pool.target
        else s.countMisses.lapseJoins.chosenReference
      wait := if s.countMisses.lapseJoins.chosenReference = s.roster.reference then s.pool.wait else 0 } := by
  have pool : s.countMisses.lapseJoins.pool = s.pool := by simp
  have reference : s.countMisses.lapseJoins.roster.reference = s.roster.reference :=
    s.countMisses.lapseJoins_reference.trans s.countMisses_reference
  rw [State.phaseRoster, State.chooseReference_target _ (by rwa [pool]), pool, reference]

/-! ### The send queue when the pool unit comes to it -/

/-- The state once the builder has offered its RESENDs and the window its pairs (R59, R74). -/
def State.pairsOffered (s : State) : State := (s.offerResends (s.builder.outbox.filter (fun e => !e.transmitted))).offerPairs

theorem State.pairsOffered_frame (s : State) : s.pairsOffered.clock = s.clock ∧ s.pairsOffered.roster = s.roster ∧
    s.pairsOffered.pool = s.pool ∧ s.pairsOffered.ctl = s.ctl := by
  simp [State.pairsOffered]

/-- The queue once the RESENDs are offered holds no REQUEST if it held none. -/
theorem State.resendsOffered_absent (s : State) (absent : ∀ x ∈ s.line.queue, x.key ≠ .request) :
    ∀ x ∈ s.owedKeys.foldl queueOffered s.line.queue, x.key ≠ .request := by
  intro x hx key
  rcases mem_queueOffered_all_cases _ hx with old | ⟨-, offered⟩
  · exact absent x old key
  · obtain ⟨e, -, resend⟩ := List.mem_map.mp (key ▸ offered)
    exact nomatch resend

/-- The window adds one REQUEST at most, without a target, where there is room (R74). -/
theorem State.pairsOffered_queue (s : State) (run : s.ctl.life = .run) (absent : ∀ x ∈ s.line.queue, x.key ≠ .request) :
    s.pairsOffered.line.queue = s.owedKeys.foldl queueOffered s.line.queue ∨
    (s.owedKeys.foldl queueOffered s.line.queue).length < 8 ∧ ∃ pairs : Option (List Pair), s.pairsOffered.line.queue =
      placeEntry (s.owedKeys.foldl queueOffered s.line.queue) { key := .request, target := none, pairs := pairs } := by
  let owed := s.offerResends (s.builder.outbox.filter (fun e => !e.transmitted))
  have queue : owed.line.queue = s.owedKeys.foldl queueOffered s.line.queue := State.offerResends_queue _ s run
  have orun : owed.ctl.life = .run := by simp [owed, run]
  change owed.offerPairs.line.queue = _ ∨ _ ∧ ∃ _, owed.offerPairs.line.queue = _
  rw [← queue]
  unfold State.offerPairs
  split
  · exact .inl rfl
  · rw [owed.offer_absent_queue _ _ orun (queue ▸ s.resendsOffered_absent absent)]
    split
    next room => exact .inr ⟨room, _, rfl⟩
    next => exact .inl rfl

/-- A REQUEST names no target before the pool unit offers its part (R74). -/
theorem State.pairsOffered_untargeted (s : State) (run : s.ctl.life = .run)
    (absent : ∀ x ∈ s.line.queue, x.key ≠ .request) :
    ∀ x ∈ s.pairsOffered.line.queue, x.key = .request → x.target = none := by
  have before := s.resendsOffered_absent absent
  rcases s.pairsOffered_queue run absent with same | ⟨-, pairs, placed⟩
  · rw [same]; exact fun x hx key => absurd key (before x hx)
  · rw [placed]
    intro x hx key
    rcases mem_placeEntry.mp hx with rfl | old
    · rfl
    · exact absurd key (before x old)

/-- With room for the RESENDs and one more the queue takes the snapshot part. -/
theorem State.pairsOffered_admits (s : State) (run : s.ctl.life = .run) (absent : ∀ x ∈ s.line.queue, x.key ≠ .request)
    (room : s.line.queue.length + s.owedKeys.length < 8) : Admits s.pairsOffered.line.queue .request := by
  have few := queueOffered_all_length s.owedKeys s.line.queue
  rcases s.pairsOffered_queue run absent with same | ⟨-, pairs, placed⟩
  · exact .inr (by rw [same]; omega)
  · exact .inl ⟨_, placed ▸ mem_placeEntry.mpr (.inl rfl), rfl⟩

/-- A full queue without a REQUEST takes none. -/
theorem State.pairsOffered_full (s : State) (run : s.ctl.life = .run) (absent : ∀ x ∈ s.line.queue, x.key ≠ .request)
    (full : 8 ≤ s.line.queue.length) : ¬Admits s.pairsOffered.line.queue .request := by
  have still := queueOffered_all_full s.owedKeys full
  rcases s.pairsOffered_queue run absent with same | ⟨room, -⟩
  · rw [same, still]
    rintro (⟨x, hx, key⟩ | room)
    · exact absent x hx key
    · omega
  · rw [still] at room
    omega

/-! ### What follows the pool unit -/

/-- t shows what the pool unit left of x at a slot-phase end: the pool unit itself, the queue with no REQUEST that was not
there, the events, and FAULT as it is wanted (R8). -/
structure ShowsPool (x t : State) : Prop where
  pool : t.pool = x.pool
  waits : ∀ q ∈ x.line.queue, q ∈ t.line.queue
  requests : ∀ q ∈ t.line.queue, q.key = .request → q ∈ x.line.queue
  reported : ∀ (b : Block) (e : Event), (b, e) ∈ x.port.arising → Reported t e
  fault : x.pool.agreement = .resyncing → t.drives.fault = true

theorem ShowsPool.names {x t : State} {n : Station} (h : ShowsPool x t) (names : Names x.line.queue .request n) :
    ∃ q ∈ t.line.queue, q.key = .request ∧ q.target = some n := by
  obtain ⟨q, hq, named⟩ := names
  exact ⟨q, h.waits q hq, named⟩

/-- The offers of ADJUST and LEAVE, which follow the pool unit (R106, R133). -/
def State.lastOffers (s : State) : State :=
  if s.offerAdjust.ctl.leave = .leaving then s.offerAdjust.offerKey .leave else s.offerAdjust

theorem State.phaseOffers_eq (s : State) : s.phaseOffers = s.pairsOffered.poolPhaseEnd.lastOffers := rfl

theorem State.lastOffers_frame (s : State) :
    s.lastOffers.pool = s.pool ∧ s.lastOffers.ctl = s.ctl ∧ s.lastOffers.port = s.port := by
  unfold State.lastOffers
  split <;> simp

theorem State.lastOffers_queue (s : State) (run : s.ctl.life = .run) :
    s.lastOffers.line.queue = (s.adjustKeys ++ s.offerAdjust.leaveKeys).foldl queueOffered s.line.queue := by
  rw [State.lastOffers, s.offerAdjust.offerLeave_queue (by simp [run]), s.offerAdjust_queue run, List.foldl_append]

/-- The last offers and the step's end show what the pool unit left (R162). -/
theorem State.lastOffers_showsPool (s : State) (run : s.ctl.life = .run) (awake : s.ctl.inReset = false) :
    ShowsPool s s.lastOffers.finish := by
  obtain ⟨pool, ctl, port⟩ := s.lastOffers_frame
  have queue := s.lastOffers_queue run
  have shows := s.lastOffers.finish_shows
  refine ⟨shows.pool.trans pool, fun q hq => ?_, fun q hq key => ?_, fun b e he => ?_, fun resyncs => ?_⟩
  · rw [shows.line, queue]
    exact mem_queueOffered_all _ hq
  · rw [shows.line, queue] at hq
    rcases mem_queueOffered_all_cases _ hq with old | ⟨-, offered⟩
    · exact old
    · rw [key] at offered
      rcases List.mem_append.mp offered with adjusts | leaves
      · obtain ⟨a, -, -, -, adjust⟩ := State.mem_adjustKeys adjusts
        exact nomatch adjust
      · exact nomatch (State.mem_leaveKeys.mp leaves).2
  · rw [← port] at he
    exact shows.reported b e he
  · rw [State.finish_fault _ (by rw [ctl, awake]), State.faultWanted, ctl, run, pool, resyncs]
    rfl

/-! ### The slot-phase end from the state before it -/

/-- Where the pool unit stands at the slot-phase end of s: after misses, lapses, the choice of the reference, and the offers
of RESENDs and pairs (R8). -/
def State.atPoolEnd (s : State) : State := s.phaseBegun.phaseRoster.pairsOffered

theorem State.rosterCounted_ctl (s : State) : s.phaseBegun.phaseRoster.ctl = s.ctl :=
  (State.phaseRoster_frame _).2.2.2.2.2.2.1

theorem State.atPoolEnd_reference (s : State) :
    s.atPoolEnd.roster.reference = s.countMisses.lapseJoins.chosenReference := by
  rw [State.atPoolEnd, (State.pairsOffered_frame _).2.1]
  exact s.phaseBegun_alike.phaseRoster.1

theorem State.atPoolEnd_ctl (s : State) : s.atPoolEnd.ctl = s.ctl :=
  (State.pairsOffered_frame _).2.2.2.trans s.rosterCounted_ctl

theorem State.atPoolEnd_cur (s : State) : s.atPoolEnd.clock.cur = s.clock.cur := by
  rw [State.atPoolEnd, (State.pairsOffered_frame _).1, (State.phaseRoster_frame _).2.1]
  rfl

theorem State.atPoolEnd_pool (s : State) : s.atPoolEnd.pool =
    { s.pool with target := s.atPoolEnd.pool.target, wait := s.atPoolEnd.pool.wait } := by
  have pool : s.atPoolEnd.pool = s.phaseBegun.phaseRoster.pool := (State.pairsOffered_frame _).2.2.1
  rw [pool]
  exact s.phaseBegun.phaseRoster_pool

theorem State.atPoolEnd_target (s : State) (asks : s.pool.agreement = .diverged ∨ s.pool.agreement = .resyncing) :
    s.atPoolEnd.pool.target = (if s.countMisses.lapseJoins.chosenReference = s.roster.reference then s.pool.target
      else s.countMisses.lapseJoins.chosenReference) ∧
    s.atPoolEnd.pool.wait =
      (if s.countMisses.lapseJoins.chosenReference = s.roster.reference then s.pool.wait else 0) := by
  have pool : s.atPoolEnd.pool = s.phaseBegun.phaseRoster.pool := (State.pairsOffered_frame _).2.2.1
  have chosen : s.phaseBegun.countMisses.lapseJoins.chosenReference = s.countMisses.lapseJoins.chosenReference :=
    s.phaseBegun_alike.countMisses.lapseJoins.chosenReference
  rw [pool, s.phaseBegun.phaseRoster_target asks, chosen]
  exact ⟨rfl, rfl⟩

/-- The queue that the roster leaves to the offers: what waited, without the REQUEST (R33, R34). -/
theorem State.phaseRoster_queue (s : State) :
    s.phaseBegun.phaseRoster.line.queue = s.line.queue.filter (fun e => e.key != .request) ∧
    (∀ x ∈ s.phaseBegun.phaseRoster.line.queue, x.key ≠ .request) ∧
    s.phaseBegun.phaseRoster.owedKeys.length = (s.builder.outbox.filter (fun e => !e.transmitted)).length := by
  have line : s.phaseBegun.phaseRoster.line = s.phaseBegun.line := (State.phaseRoster_frame _).2.2.1
  have builder : s.phaseBegun.phaseRoster.builder = s.phaseBegun.builder := (State.phaseRoster_frame _).2.2.2.1
  have queue : s.phaseBegun.phaseRoster.line.queue = s.line.queue.filter (fun e => e.key != .request) :=
    congrArg Line.queue line
  refine ⟨queue, ?_, ?_⟩
  · rw [queue]
    exact fun x hx => by simpa using (List.mem_filter.mp hx).2
  · rw [State.owedKeys, List.length_map, builder]
    rfl

section queue

variable {s : State} (run : s.ctl.life = .run)
include run

theorem State.rosterCounted_run : s.phaseBegun.phaseRoster.ctl.life = .run := by rw [s.rosterCounted_ctl, run]

theorem State.atPoolEnd_untargeted : ∀ x ∈ s.atPoolEnd.line.queue, x.key = .request → x.target = none := by
  rw [State.atPoolEnd]
  exact s.phaseBegun.phaseRoster.pairsOffered_untargeted (State.rosterCounted_run run) s.phaseRoster_queue.2.1

theorem State.atPoolEnd_admits (room : (s.line.queue.filter (fun e => e.key != .request)).length +
    (s.builder.outbox.filter (fun e => !e.transmitted)).length < 8) : Admits s.atPoolEnd.line.queue .request := by
  obtain ⟨queue, absent, owed⟩ := s.phaseRoster_queue
  rw [State.atPoolEnd]
  exact s.phaseBegun.phaseRoster.pairsOffered_admits (State.rosterCounted_run run) absent (by rw [queue, owed]; exact room)

theorem State.atPoolEnd_full (full : 8 ≤ (s.line.queue.filter (fun e => e.key != .request)).length) :
    ¬Admits s.atPoolEnd.line.queue .request := by
  obtain ⟨queue, absent, -⟩ := s.phaseRoster_queue
  rw [State.atPoolEnd]
  exact s.phaseBegun.phaseRoster.pairsOffered_full (State.rosterCounted_run run) absent (by rw [queue]; exact full)

end queue

theorem State.phaseEnd_showsPool (s : State) (run : s.ctl.life = .run) (awake : s.ctl.inReset = false) :
    ShowsPool s.atPoolEnd.poolPhaseEnd s.phaseEnd.finish := by
  have ctl : s.atPoolEnd.poolPhaseEnd.ctl = s.ctl := (State.poolPhaseEnd_frame _).2.2.2.2.2.2.2.1.trans s.atPoolEnd_ctl
  rw [s.phaseEnd_run run, State.phaseOffers_eq]
  exact State.lastOffers_showsPool _ ((congrArg Controller.life ctl).trans run) ((congrArg Controller.inReset ctl).trans awake)

/-! ### The obligation, by the agreement state -/

section ends

variable {x t : State} (shown : ShowsPool x.poolPhaseEnd t)
include shown

/-- A station that is its own reference (R91). -/
theorem ShowsPool.own (own : x.roster.reference = some x.own) : t.pool.target = none ∧ t.pool.held = none ∧
    (x.pool.clean = true → t.pool.agreement = .agreed ∧ t.pool.clean = true ∧ t.pool.uncleanSelf = 0) ∧
    (x.pool.clean = false → x.pool.uncleanSelf < 7 → t.pool.agreement = .uncertain ∧ t.pool.clean = false ∧
      t.pool.uncleanSelf = x.pool.uncleanSelf + 1) ∧
    (x.pool.clean = false → x.pool.uncleanSelf = 7 → t.pool.agreement = .agreed ∧ t.pool.clean = true ∧
      t.pool.uncleanSelf = 0 ∧ Reported t { kind := .rebaseline, epoch := x.clock.cur, subject := none
                                            value := x.pool.foldPoint.getD 0 }) := by
  have ends : x.poolPhaseEnd = x.selfReference := by rw [State.poolPhaseEnd, if_pos own]
  rw [shown.pool, ends, State.selfReference_pool]
  refine ⟨?_, ?_, fun clean => ?_, fun unclean few => ?_, fun unclean eighth => ?_⟩
  · split
    · rfl
    · split <;> rfl
  · split
    · rfl
    · split <;> rfl
  · rw [if_pos clean]
    exact ⟨rfl, clean, rfl⟩
  · rw [if_neg (by simp [unclean]), if_pos few]
    exact ⟨rfl, unclean, rfl⟩
  · have event := x.selfReference_rebaselines unclean eighth
    rw [← ends] at event
    rw [if_neg (by simp [unclean]), if_neg (by omega)]
    exact ⟨rfl, rfl, rfl, shown.reported _ _ event⟩

section other

variable (other : x.roster.reference ≠ some x.own)
include other

/-- An UNCERTAIN station counts a slot-phase end without a comparison, and at the fourth resynchronises (R92). -/
theorem ShowsPool.uncertain (run : x.ctl.life = .run) (uncertain : x.pool.agreement = .uncertain) :
    (x.pool.noComparison < 3 → t.pool.agreement = .uncertain ∧ t.pool.noComparison = x.pool.noComparison + 1) ∧
    (3 ≤ x.pool.noComparison → t.pool.agreement = .resyncing ∧ t.pool.noComparison = 0 ∧ t.pool.wait = 0 ∧
      t.pool.target = x.roster.reference ∧ t.drives.fault = true ∧
      (∀ n : Station, x.roster.reference = some n → x.pool.holdBack = 0 → Admits x.line.queue .request →
        ∃ q ∈ t.line.queue, q.key = .request ∧ q.target = some n)) := by
  have ends : x.poolPhaseEnd = x.refersToOther.countNoComparison := (x.poolPhaseEnd_other other).1 uncertain
  refine ⟨fun few => ?_, fun many => ?_⟩
  · rw [shown.pool, ends, x.refersToOther.countNoComparison_counts few]
    exact ⟨uncertain, rfl⟩
  · rw [x.refersToOther.countNoComparison_resyncs many] at ends
    have pool : x.poolPhaseEnd.pool = { x.refersToOther.pool with
        target := x.roster.reference, wait := 0, noComparison := 0, agreement := .resyncing } := by
      rw [ends, State.offerSnapshotPart_pool, State.resynced_pool]
      rfl
    have fault := shown.fault (by rw [pool])
    obtain ⟨ctl, line⟩ := x.refersToOther.resynced_frame
    refine ⟨?_, ?_, ?_, ?_, fault, fun n names free admits => shown.names ?_⟩
    · rw [shown.pool, pool]
    · rw [shown.pool, pool]
    · rw [shown.pool, pool]
    · rw [shown.pool, pool]
    · rw [ends]
      refine (State.snapshotPart_asks _ ((congrArg Controller.life ctl).trans run) ?_ ?_ ?_).2
      · rw [State.resynced_pool]; exact names
      · rw [State.resynced_pool]; exact free
      · rw [line]; exact admits

/-- A DIVERGED station asks its target and is RESYNCING, or cannot ask and stays (R93). -/
theorem ShowsPool.diverged (run : x.ctl.life = .run) (diverged : x.pool.agreement = .diverged) :
    t.pool.target = x.pool.target ∧
    (∀ n : Station, x.pool.target = some n → x.pool.holdBack = 0 → Admits x.line.queue .request →
      t.pool.agreement = .resyncing ∧ t.pool.wait = 0 ∧ ∃ q ∈ t.line.queue, q.key = .request ∧ q.target = some n) ∧
    (x.pool.target = none ∨ 0 < x.pool.holdBack ∨ ¬Admits x.line.queue .request →
      t.pool.agreement = .diverged ∧ t.pool.wait = x.pool.wait) := by
  have ends : x.poolPhaseEnd = x.refersToOther.requestSnapshot := (x.poolPhaseEnd_other other).2.1 diverged
  refine ⟨?_, fun n target free admits => ?_, fun idle => ?_⟩
  · rw [shown.pool, ends, (State.requestSnapshot_effect _).1]
    split <;> rfl
  · obtain ⟨accepted, names⟩ := x.refersToOther.snapshotPart_asks run target free admits
    obtain ⟨pool, line⟩ := x.refersToOther.requestSnapshot_accepted accepted
    rw [← line, ← ends] at names
    rw [shown.pool, ends, pool]
    exact ⟨rfl, rfl, shown.names names⟩
  · rw [shown.pool, ends, x.refersToOther.requestSnapshot_idle (x.refersToOther.snapshotPart_idle run idle)]
    exact ⟨diverged, rfl⟩

/-- A RESYNCING station asks while it holds no snapshot and may ask; else no REQUEST names a target (R93, R95). -/
theorem ShowsPool.resyncing (run : x.ctl.life = .run) (resyncing : x.pool.agreement = .resyncing)
    (untargeted : ∀ q ∈ x.line.queue, q.key = .request → q.target = none) :
    t.pool.agreement = .resyncing ∧ t.pool.target = x.pool.target ∧ t.pool.wait = x.pool.wait ∧
    (∀ n : Station, x.pool.target = some n → x.pool.holdBack = 0 → x.pool.held = none → Admits x.line.queue .request →
      ∃ q ∈ t.line.queue, q.key = .request ∧ q.target = some n) ∧
    (x.pool.target = none ∨ 0 < x.pool.holdBack ∨ x.pool.held ≠ none →
      ∀ q ∈ t.line.queue, q.key = .request → q.target = none) := by
  have ends := (x.poolPhaseEnd_other other).2.2.1 resyncing
  have pool : x.poolPhaseEnd.pool = x.refersToOther.pool := by
    rw [ends]
    split
    · exact State.offerSnapshotPart_pool _
    · rfl
  rw [shown.pool, pool]
  refine ⟨resyncing, rfl, rfl, fun n target free none_held admits => shown.names ?_, fun idle q hq key => ?_⟩
  · rw [ends, if_pos none_held]
    exact (x.refersToOther.snapshotPart_asks run target free admits).2
  · have unasked : x.poolPhaseEnd = x.refersToOther := by
      rw [ends]
      split
      next none_held =>
        have stays : x.pool.target = none ∨ 0 < x.pool.holdBack ∨ ¬Admits x.line.queue .request :=
          idle.imp_right fun k => .inl (k.resolve_right (fun held => held none_held))
        rw [x.refersToOther.snapshotPart_idle run stays]
      next => rfl
    have waits := shown.requests q hq key
    rw [unasked] at waits
    exact untargeted q waits key

/-- An AGREED station stays AGREED, and none loses its clean flag or its held snapshot (R92, R93). -/
theorem ShowsPool.settled : t.pool.uncleanSelf = 0 ∧ t.pool.clean = x.pool.clean ∧ t.pool.held = x.pool.held ∧
    (x.pool.agreement = .agreed → t.pool.agreement = .agreed ∧ t.pool.noComparison = x.pool.noComparison) := by
  obtain ⟨clean, held, -⟩ := x.poolPhaseEnd_settled other
  obtain ⟨uncertain, diverged, resyncing, settled⟩ := x.poolPhaseEnd_other other
  rw [shown.pool]
  refine ⟨?_, clean, held, fun agreed => ?_⟩
  · cases stands : x.pool.agreement with
    | none => rw [settled (.inl stands)]; rfl
    | agreed => rw [settled (.inr stands)]; rfl
    | uncertain =>
      rw [uncertain stands]
      by_cases few : x.refersToOther.pool.noComparison < 3
      · rw [State.countNoComparison_counts _ few]; rfl
      · rw [State.countNoComparison_resyncs _ (by omega), State.offerSnapshotPart_pool, State.resynced_pool]; rfl
    | diverged =>
      rw [diverged stands, (State.requestSnapshot_effect _).1]
      split <;> rfl
    | resyncing =>
      rw [resyncing stands]
      split
      · rw [State.offerSnapshotPart_pool]; rfl
      · rfl
  · rw [settled (.inr agreed)]
    exact ⟨agreed, rfl⟩

end other

end ends

/-- At the end of the slot phase the blocks take it at the instant that its last slot ends (R8). -/
theorem exec_slotPhaseEnd {s : State} {o : Instant} (ready : Ready s) (origin : s.clock.origin = some o)
    (timer : s.clock.slotTimer = .slots) :
    exec .slotPhaseEnd s = .next (s.until (o + s.bits 10240)).phaseEnd.finish := by
  have ends : s.slotsOver = (s.until (o + s.bits 10240)).phaseEnd := by
    unfold State.slotsOver
    rw [origin]
    exact if_pos timer
  rw [← ends]
  exact s.inside_eq _ ready.1

/-- Settles O22: the pool unit's work from where the roster and the offers before it leave the state, by the reference and
the agreement state. -/
theorem phaseEndSettlesAgreement : Obligations.PhaseEndSettlesAgreement := by
  unfold Obligations.PhaseEndSettlesAgreement
  intro s o ready run origin timer reference target wait queue room
  let u := s.until (o + s.bits 10240)
  have answer : exec .slotPhaseEnd s = .next u.phaseEnd.finish := exec_slotPhaseEnd ready origin timer
  have shown : ShowsPool u.atPoolEnd.poolPhaseEnd u.phaseEnd.finish := u.phaseEnd_showsPool run ready.1
  have keeps := u.phaseEnd_keeps (.inl run)
  have table : u.phaseEnd.finish.pool.table = s.pool.table := keeps.table
  have gaps : u.phaseEnd.finish.pool.gaps = s.pool.gaps := keeps.gaps
  have history : u.phaseEnd.finish.pool.history = s.pool.history := keeps.history
  have foldPoint : u.phaseEnd.finish.pool.foldPoint = s.pool.foldPoint := keeps.foldPoint
  have alike : RosterAlike u s := ⟨rfl, rfl, rfl, rfl, rfl⟩
  have chosen : u.countMisses.lapseJoins.chosenReference = reference := alike.countMisses.lapseJoins.chosenReference
  have refers : u.atPoolEnd.roster.reference = reference := u.atPoolEnd_reference.trans chosen
  have ctl : u.atPoolEnd.ctl = s.ctl := u.atPoolEnd_ctl
  have cur : u.atPoolEnd.clock.cur = s.clock.cur := u.atPoolEnd_cur
  have pool : u.atPoolEnd.pool =
      { s.pool with target := u.atPoolEnd.pool.target, wait := u.atPoolEnd.pool.wait } := u.atPoolEnd_pool
  have asks (h : s.pool.agreement = .diverged ∨ s.pool.agreement = .resyncing) :
      u.atPoolEnd.pool.target = target ∧ u.atPoolEnd.pool.wait = wait := by
    have moved := u.atPoolEnd_target h
    rwa [chosen] at moved
  have admits : room → Admits u.atPoolEnd.line.queue .request := u.atPoolEnd_admits run
  have bars : 8 ≤ queue.length → ¬Admits u.atPoolEnd.line.queue .request := u.atPoolEnd_full run
  have untargeted := u.atPoolEnd_untargeted run
  generalize u.phaseEnd.finish = t at answer shown table gaps history foldPoint
  generalize u.atPoolEnd = x at shown refers ctl cur pool asks admits bars untargeted
  have own : x.own = s.own := by rw [State.own, ctl]; rfl
  have life : x.ctl.life = .run := by rw [ctl, run]
  have agreement : x.pool.agreement = s.pool.agreement := by rw [pool]
  have clean : x.pool.clean = s.pool.clean := by rw [pool]
  have unclean : x.pool.uncleanSelf = s.pool.uncleanSelf := by rw [pool]
  have held : x.pool.held = s.pool.held := by rw [pool]
  have count : x.pool.noComparison = s.pool.noComparison := by rw [pool]
  have holdBack : x.pool.holdBack = s.pool.holdBack := by rw [pool]
  have point : x.pool.foldPoint = s.pool.foldPoint := by rw [pool]
  refine ⟨t, answer, fun self => ?_, fun apart => ?_, table, gaps, history, foldPoint⟩
  · have ends := shown.own (by rw [refers, own]; exact self)
    rwa [clean, unclean, cur, point] at ends
  · have other : x.roster.reference ≠ some x.own := by rw [refers, own]; exact apart
    obtain ⟨zero, cleans, holds, agreed⟩ := shown.settled other
    rw [clean] at cleans
    rw [held] at holds
    rw [agreement, count] at agreed
    have uncertain (h : s.pool.agreement = .uncertain) := shown.uncertain other life (agreement.trans h)
    have diverged (h : s.pool.agreement = .diverged) := shown.diverged other life (agreement.trans h)
    have resyncing (h : s.pool.agreement = .resyncing) := shown.resyncing other life (agreement.trans h) untargeted
    rw [count, refers, holdBack] at uncertain
    rw [holdBack] at diverged
    rw [holdBack, held] at resyncing
    refine ⟨zero, cleans, holds, agreed, fun h => (uncertain h).1, fun h many => ?_, fun h => ?_, fun h => ?_⟩
    · obtain ⟨moved, none_counted, waits, targets, fault, asked⟩ := (uncertain h).2 many
      exact ⟨moved, none_counted, waits, targets, fault, fun n names free roomy => asked n names free (admits roomy)⟩
    · obtain ⟨targets, asked, idle⟩ := diverged h
      obtain ⟨goal, waits⟩ := asks (.inl h)
      rw [goal] at targets asked idle
      rw [waits] at idle
      exact ⟨targets, fun n names free roomy => asked n names free (admits roomy),
        fun k => idle (k.imp_right fun k => k.imp_right bars)⟩
    · obtain ⟨stays, targets, still, asked, idle⟩ := resyncing h
      obtain ⟨goal, waits⟩ := asks (.inr h)
      rw [goal] at targets asked idle
      rw [waits] at still
      exact ⟨stays, targets, still, fun n names free unheld roomy => asked n names free unheld (admits roomy), idle⟩

end Sys2Proof.Machine
end

section
/-! The adjustment unit: the fold floor, the queue's order, and an ADJUST of another station (R101, R102, R107, R108). -/

namespace Sys2Proof.Machine

/-! ### The fold floor -/

theorem State.foldFloor_folded (s : State) {f : Epoch} (folded : s.pool.foldPoint = some f) : s.foldFloor = f + 1 := by
  simp only [State.foldFloor, folded]

theorem State.foldFloor_oldest (s : State) {r : Record} (unfolded : s.pool.foldPoint = none)
    (oldest : s.window.records.getLast? = some r) : s.foldFloor = r.epoch := by
  simp only [State.foldFloor, unfolded, State.oldest, oldest]

theorem State.foldFloor_empty (s : State) (unfolded : s.pool.foldPoint = none) (empty : s.window.records = []) :
    s.foldFloor = s.clock.cur := by
  simp only [State.foldFloor, unfolded, State.oldest, empty, List.getLast?_nil]

/-! ### The queue's order -/

theorem adjBefore_iff (x a : Adjustment) : adjBefore x a = true ↔
    32768 ≤ (x.effective - a.effective).toNat ∨ (x.effective = a.effective ∧
      (x.originator < a.originator ∨ (x.originator = a.originator ∧ x.serial.toNat < a.serial.toNat))) := by
  simp [adjBefore, behind]

/-- An adjustment stands behind those before it in the order, and the next one is not before it (R101). -/
theorem insertAdj_place (q : List Adjustment) (a : Adjustment) : ∃ front back : List Adjustment,
    q = front ++ back ∧ insertAdj q a = front ++ a :: back ∧
    (∀ x ∈ front, adjBefore x a = true) ∧ (∀ x ∈ back.head?, ¬adjBefore x a = true) := by
  let before := fun x : Adjustment => adjBefore x a
  refine ⟨q.takeWhile before, q.dropWhile before, List.takeWhile_append_dropWhile.symm, rfl,
    fun x front => List.mem_takeWhile_imp (p := before) front, fun x next => ?_⟩
  have stops := List.head?_dropWhile_not before q
  rw [Option.mem_def.mp next] at stops
  simpa [before] using stops

/-! ### Items -/

theorem RawItem.all_valid_iff (k : Nat) (items : List RawItem) : items.all (RawItem.valid k) = true ↔
    ∀ i ∈ items, i.pool.toNat < k ∧ i.kind.toNat ≤ 1 := by
  simp [RawItem.valid]

theorem RawItem.not_all_valid_iff (k : Nat) (items : List RawItem) : items.all (RawItem.valid k) = false ↔
    ∃ i ∈ items, k ≤ i.pool.toNat ∨ 1 < i.kind.toNat := by
  rw [← Bool.not_eq_true, RawItem.all_valid_iff]
  push Not
  exact exists_congr fun i => and_congr_right fun _ => by rw [← not_lt, ← imp_iff_not_or]

/-! ### The judgement -/

/-- The rows of R107 that ignore an ADJUST: its pool count or an item does not fit, or its originator and serial are queued
or listed as applied. -/
abbrev State.IgnoresAdjust (s : State) (f : AdjustFrame) : Prop :=
  f.pools.toNat ≠ s.ctl.profile.pools ∨
  (∃ i ∈ f.items, s.ctl.profile.pools ≤ i.pool.toNat ∨ 1 < i.kind.toNat) ∨
  (∃ a ∈ s.adjust.queue, a.originator = f.sender ∧ a.serial = f.serial) ∨
  (∃ r ∈ s.window.records, ∃ a ∈ r.applied, a.originator = f.sender ∧ a.serial = f.serial)

/-- The reason for which an ADJUST that is not ignored is refused, if any (R107, R108). -/
def State.adjustRefusal (s : State) (f : AdjustFrame) : Option RefusalReason :=
  if behind f.effective s.foldFloor then some .tooLate
  else if ahead f.effective (s.clock.cur + BitVec.ofNat 16 s.ctl.profile.lead + 1) then some .outOfReach
  else if 4 ≤ s.adjust.queue.length then some .queueFull
  else none

theorem State.adjustRefusal_none (s : State) (f : AdjustFrame) (late : behind f.effective s.foldFloor = false)
    (far : ahead f.effective (s.clock.cur + BitVec.ofNat 16 s.ctl.profile.lead + 1) = false)
    (room : s.adjust.queue.length < 4) : s.adjustRefusal f = none := by
  rw [State.adjustRefusal, if_neg (ne_true_of_eq_false late), if_neg (ne_true_of_eq_false far), if_neg (by omega)]

theorem State.adjustRefusal_some (s : State) (f : AdjustFrame) (refused : behind f.effective s.foldFloor = true ∨
    ahead f.effective (s.clock.cur + BitVec.ofNat 16 s.ctl.profile.lead + 1) = true ∨ 4 ≤ s.adjust.queue.length) :
    ∃ r, s.adjustRefusal f = some r ∧ r.code = (if behind f.effective s.foldFloor then 1#8
      else if ahead f.effective (s.clock.cur + BitVec.ofNat 16 s.ctl.profile.lead + 1) then 2#8 else 3#8) := by
  unfold State.adjustRefusal
  split
  · exact ⟨_, rfl, rfl⟩
  next punctual =>
    split
    · exact ⟨_, rfl, rfl⟩
    next near =>
      exact ⟨_, if_pos ((refused.resolve_left punctual).resolve_left near), rfl⟩

/-- What stands in the way of a judgement, as the blocks test it. -/
theorem State.ignoresAdjust_iff (s : State) (f : AdjustFrame) :
    let same := fun (a : Adjustment) => a.originator == f.sender && a.serial == f.serial
    s.IgnoresAdjust f ↔
      (f.pools.toNat ≠ s.ctl.profile.pools ∨ f.items.all (RawItem.valid s.ctl.profile.pools) = false) ∨
      s.adjust.queue.any same = true ∨ s.window.records.any (fun r => r.applied.any same) = true := by
  simp only [State.IgnoresAdjust, RawItem.not_all_valid_iff, List.any_eq_true, Bool.and_eq_true, beq_iff_eq, or_assoc]

theorem State.judgeAdjust_ignored (s : State) (f : AdjustFrame) (ignored : s.IgnoresAdjust f) : s.judgeAdjust f = s := by
  unfold State.judgeAdjust
  dsimp only
  split
  · rfl
  split
  · rfl
  next fits =>
    split
    · rfl
    next unqueued =>
      have applied := (((s.ignoresAdjust_iff f).mp ignored).resolve_left fits).resolve_left unqueued
      exact if_pos applied

/-- An ADJUST of another station that is not ignored is refused for a reason or queued (R107, R108). -/
theorem State.judgeAdjust_judged (s : State) (f : AdjustFrame) (other : f.sender ≠ s.own) (judged : ¬s.IgnoresAdjust f) :
    s.judgeAdjust f = (s.adjustRefusal f).elim (s.queueAdjust f) (s.refuseAdjust f) := by
  obtain ⟨fits, known⟩ := not_or.mp (mt (s.ignoresAdjust_iff f).mpr judged)
  obtain ⟨unqueued, unapplied⟩ := not_or.mp known
  unfold State.judgeAdjust
  dsimp only
  rw [if_neg other, if_neg fits, if_neg unqueued, if_neg unapplied]
  unfold State.adjustRefusal
  split
  · rfl
  split
  · rfl
  split <;> rfl

/-! ### A refusal -/

theorem State.refuseAdjust_pool (s : State) (f : AdjustFrame) (r : RefusalReason) : (s.refuseAdjust f r).pool =
    { s.pool with clean := false, agreement := if s.pool.agreement = .agreed then .uncertain else s.pool.agreement } := by
  simp [State.refuseAdjust, s.loseClean_pool]

theorem State.refuseAdjust_raised (s : State) (f : AdjustFrame) (r : RefusalReason) : Raised s (s.refuseAdjust f r) :=
  (s.loseClean_raised.trans (State.refreshDrives_raised _)).trans (State.raise_raised _ _ _ _ _)

/-- A refusal raises ADJUST_REFUSED with the sender, the reason and the serial (R108, R190). -/
theorem State.refuseAdjust_mem (s : State) (f : AdjustFrame) (r : RefusalReason) :
    (Block.adjust, { kind := .adjustRefused, epoch := s.clock.cur, subject := some f.sender
                     value := r.code ++ f.serial }) ∈ (s.refuseAdjust f r).port.arising := by
  have raised := s.loseClean.refreshDrives.raise_mem .adjust .adjustRefused (some f.sender) (r.code ++ f.serial)
  rwa [show s.loseClean.refreshDrives.clock = s.clock by simp] at raised

/-- A refusal leaves everything but pool unit, drives and port (R108). -/
theorem State.refuseAdjust_frame (s : State) (f : AdjustFrame) (r : RefusalReason) :
    (s.refuseAdjust f r).now = s.now ∧ (s.refuseAdjust f r).clock = s.clock ∧ (s.refuseAdjust f r).line = s.line ∧
    (s.refuseAdjust f r).roster = s.roster ∧ (s.refuseAdjust f r).builder = s.builder ∧
    (s.refuseAdjust f r).window = s.window ∧ (s.refuseAdjust f r).adjust = s.adjust ∧
    (s.refuseAdjust f r).ctl = s.ctl ∧ (s.refuseAdjust f r).channels = s.channels := by
  simp [State.refuseAdjust]

/-! ### The ADJUST -/

/-- An ADJUST of another number is judged in JOINING and RUN (R49, R107). -/
theorem State.adjustIn_other (s : State) (f : AdjustFrame) (overlap : Bool) (other : f.sender ≠ s.own)
    (works : s.ctl.life = .joining ∨ s.ctl.life = .run) : s.adjustIn f overlap = s.judgeAdjust f := by
  simp only [State.adjustIn, s.ownNumber_other overlap other]
  exact if_pos works

/-- Settles O46: the floor by its cases, the place by the order's test, and an ADJUST by the reason, if any, to refuse it. -/
theorem adjustsAreJudged : Obligations.AdjustsAreJudged := by
  unfold Obligations.AdjustsAreJudged
  refine ⟨fun s => ⟨fun _ => s.foldFloor_folded, fun _ => s.foldFloor_oldest, s.foldFloor_empty⟩, fun q a => ?_,
    fun s dt f ready takes wf works other => ?_⟩
  · simpa only [adjBefore_iff] using insertAdj_place q a
  · have comes : exec (.adjustReceived dt f) s = .next ((s.heard dt).adjustIn f s.line.overlap).finish :=
      s.frameIn_outside dt (.adjust f) (fun overlap s => s.adjustIn f overlap) ready takes wf
    rw [(s.heard dt).adjustIn_other f _ other works] at comes
    refine ⟨fun ignored => ?_, fun judged late far room => ?_, fun judged refused => ?_⟩
    · rw [(s.heard dt).judgeAdjust_ignored f ignored] at comes
      exact comes.trans (congrArg _ (ready.heard dt).finish)
    · have stays : Ready ((s.heard dt).queueAdjust f) := (ready.heard dt).of_same rfl rfl rfl rfl rfl
      rw [(s.heard dt).judgeAdjust_judged f other judged, (s.heard dt).adjustRefusal_none f late far room, Option.elim_none,
        stays.finish] at comes
      exact comes
    · obtain ⟨r, reason, code⟩ := (s.heard dt).adjustRefusal_some f refused
      rw [(s.heard dt).judgeAdjust_judged f other judged, reason, Option.elim_some] at comes
      have pool := (s.heard dt).refuseAdjust_pool f r
      have reply := ((s.heard dt).refuseAdjust_raised f r).reply
      have event := State.finish_reported _ ((s.heard dt).refuseAdjust_mem f r)
      rw [code] at event
      obtain ⟨now, clock, line, roster, builder, window, adjust, ctl, channels⟩ := (s.heard dt).refuseAdjust_frame f r
      generalize (s.heard dt).refuseAdjust f r = x at *
      exact ⟨x.finish, comes, now, congrArg Pool.clean pool, congrArg Pool.agreement pool, adjust, (congrArg Pool.table pool :),
        event, (congrArg Line.queue line :), clock, roster, builder, window, ctl, channels, reply⟩

end Sys2Proof.Machine
end

section
/-! A POST ADJUSTMENT, taken and refused (R103, R104, R181). -/

namespace Sys2Proof.Machine

/-! ### The tests of a post -/

/-- The station takes posts: it is in RUN and AGREED, and not leaving (R103). -/
abbrev State.TakesPosts (s : State) : Prop := s.ctl.life = .run ∧ s.pool.agreement = .agreed ∧ s.ctl.leave = .none

/-- A post's count and items are in range at this station (R103). -/
abbrev State.PostFits (s : State) (count : Byte) (items : List RawItem) : Prop :=
  (1 ≤ count.toNat ∧ count.toNat ≤ 4) ∧ ∀ i ∈ items, i.pool.toNat < s.ctl.profile.pools ∧ i.kind.toNat ≤ 1

theorem State.judgePost_wrongState (s : State) (count : Byte) (items : List RawItem) (shut : ¬s.TakesPosts) :
    s.judgePost count items = .wrongState := if_pos (by tauto)

theorem State.judgePost_badArgument (s : State) (count : Byte) (items : List RawItem) (takes : s.TakesPosts)
    (misfit : ¬s.PostFits count items) : s.judgePost count items = .badArgument := by
  rw [State.PostFits, ← RawItem.all_valid_iff, ← Bool.not_eq_false] at misfit
  unfold State.judgePost
  rw [if_neg (by tauto), if_pos (by by_contra fits; exact misfit ⟨by omega, by tauto⟩)]

/-- A post in range is judged by the room it finds (R103). -/
theorem State.judgePost_fits (s : State) (count : Byte) (items : List RawItem) (takes : s.TakesPosts)
    (fits : s.PostFits count items) : s.judgePost count items =
      if (∃ a ∈ s.adjust.queue, a.originator = s.own) ∨ 4 ≤ s.adjust.queue.length then .noRoom else .done := by
  obtain ⟨counted, valid⟩ := fits
  have valid := (RawItem.all_valid_iff _ _).mpr valid
  unfold State.judgePost
  rw [if_neg (by tauto), if_neg (by simp only [valid, Bool.true_eq_false, or_false]; omega)]
  by_cases own : ∃ a ∈ s.adjust.queue, a.originator = s.own
  · rw [if_pos (by simpa using own), if_pos (.inl own)]
  · rw [if_neg (by simpa using own)]
    exact if_congr (or_iff_right own).symm rfl rfl

/-! ### The answer -/

/-- A post with as many items as its count asks for is taken or answered with its refusal (R103, R174). -/
theorem State.postAdjustment_whole (s : State) (count : Byte) (items : List RawItem)
    (whole : items.length = postedItems count) : s.postAdjustment count items =
      if s.judgePost count items = .done
      then (s.acceptPost items).answer .done (s.nextSerial :: bytes16 s.postEpoch)
      else s.answer (s.judgePost count items) [] := by
  have all : items.take (postedItems count) = items := List.take_of_length_le (le_of_eq whole)
  unfold State.postAdjustment
  rw [if_neg (by omega), all]

/-- A refused post is answered, and nothing else changes (R103, R181). -/
theorem exec_postAdjustment_refused {s : State} (ready : Ready s) (dt : Nat) {count : Byte} {items : List RawItem}
    {o : PortOutcome} (whole : items.length = postedItems count) (judged : s.judgePost count items = o)
    (refused : o ≠ .done) : exec (.postAdjustment dt count items) s = .next (s.answered dt o []) := by
  have answers : (s.later dt).postAdjustment count items = s.answered dt o [] := by
    rw [State.postAdjustment_whole _ _ _ whole, show (s.later dt).judgePost count items = o from judged, if_neg refused]
    rfl
  have comes := s.outside_ready dt (fun s => s.postAdjustment count items) ready.1
    (by rw [answers]; exact (ready.later dt).answer o [])
  exact comes.trans (congrArg _ answers)

theorem State.acceptPost_adjust (s : State) (items : List RawItem) : (s.acceptPost items).adjust =
    { queue := insertAdj s.adjust.queue ⟨s.own, s.nextSerial, s.postEpoch, items.map RawItem.item⟩
      lastSerial := s.nextSerial } := by
  simp [State.acceptPost]

/-- An accepted post leaves everything but the adjustment unit and the line (R104). -/
theorem State.acceptPost_frame (s : State) (items : List RawItem) :
    (s.acceptPost items).now = s.now ∧ (s.acceptPost items).port = s.port ∧ (s.acceptPost items).clock = s.clock ∧
    (s.acceptPost items).roster = s.roster ∧ (s.acceptPost items).builder = s.builder ∧
    (s.acceptPost items).window = s.window ∧ (s.acceptPost items).pool = s.pool ∧ (s.acceptPost items).ctl = s.ctl ∧
    (s.acceptPost items).channels = s.channels ∧ (s.acceptPost items).drives = s.drives := by
  simp [State.acceptPost]

/-- An accepted post waits as an ADJUST if the send queue has room (R104). -/
theorem State.acceptPost_offers (s : State) (items : List RawItem) (run : s.ctl.life = .run)
    (room : s.line.queue.length < 8) : ∃ q ∈ (s.acceptPost items).line.queue, q.key = .adjust s.nextSerial :=
  State.offerKey_waits _ _ run room

/-- Settles O60, by the tests of a post in their order. -/
theorem postsAreTaken : Obligations.PostsAreTaken := by
  unfold Obligations.PostsAreTaken
  intro s dt count items ready whole
  refine ⟨fun run agreed staying low high valid unposted room => ?_, fun shut => ?_, fun run agreed staying misfit => ?_,
    fun run agreed staying low high valid full => ?_⟩
  · have judged : (s.later dt).judgePost count items = .done := by
      rw [(s.later dt).judgePost_fits count items ⟨run, agreed, staying⟩ ⟨⟨low, high⟩, valid⟩]
      exact if_neg fun full => full.elim (fun ⟨a, queued, own⟩ => unposted a queued own) (Nat.not_le.mpr room)
    let x := (s.later dt).acceptPost items
    have taken : (s.later dt).postAdjustment count items = x.answer .done (s.nextSerial :: bytes16 s.postEpoch) := by
      rw [State.postAdjustment_whole _ _ _ whole, if_pos judged]
      rfl
    obtain ⟨now, port, clock, roster, builder, window, pool, ctl, channels, drives⟩ := (s.later dt).acceptPost_frame items
    have adjust := (s.later dt).acceptPost_adjust items
    have accepted : Ready x := (ready.later dt).of_same (congrArg Controller.life ctl) (congrArg Controller.inReset ctl) port
      (congrArg Pool.agreement pool) (congrArg DriveUnit.fault drives)
    have comes := s.outside_ready dt (fun s => s.postAdjustment count items) ready.1
      (by rw [taken]; exact accepted.answer _ _)
    exact ⟨_, comes.trans (congrArg _ taken), now, congrArg Adjuster.lastSerial adjust, congrArg Adjuster.queue adjust,
      (s.later dt).acceptPost_offers items run, congrArg (fun p => p.answered .done (s.nextSerial :: bytes16 s.postEpoch)) port,
      clock, roster, builder, window, pool, ctl, channels, drives⟩
  · exact exec_postAdjustment_refused ready dt whole (s.judgePost_wrongState count items (by tauto)) (by decide)
  · refine exec_postAdjustment_refused ready dt whole
      (s.judgePost_badArgument count items ⟨run, agreed, staying⟩ fun ⟨⟨low, high⟩, valid⟩ => ?_) (by decide)
    rcases misfit with empty | many | invalid
    · omega
    · omega
    · exact invalid valid
  · refine exec_postAdjustment_refused ready dt whole ?_ (o := .noRoom) (by decide)
    rw [s.judgePost_fits count items ⟨run, agreed, staying⟩ ⟨⟨low, high⟩, valid⟩]
    exact if_pos full

end Sys2Proof.Machine
end

section
/-! Reset, the commands LEAVE and RESTART, and the departure's ends (R130, R133 to R137). -/

namespace Sys2Proof.Machine

/-- Settles O8: the reset state has no event, empty buffers, and every drive under CONFIG's row. -/
theorem resetHasInvariants : Obligations.ResetHasInvariants := by
  unfold Obligations.ResetHasInvariants
  refine ⟨⟨rfl, by decide, rfl, rfl⟩, by decide, ⟨fun _ => by decide, fun _ => rfl⟩, fun _ i => ?_⟩
  have drive : State.reset.drives.drives.get i = .reset := Tbl.get_fill _ _
  have row : pinRow State.reset.ctl.life State.reset.pool.agreement (State.reset.ctl.profile.drives.get i) .auto = .config :=
    if_pos rfl
  rw [drive]
  exact ⟨row.symm, rfl⟩

/-! ### Answers -/

/-- An answer latched before the step's end stands after it, and nothing else tells the two apart (R173). -/
theorem State.answer_finish (s : State) (o : PortOutcome) (result : List Byte) :
    (s.answer o result).finish = s.finish.answer o result := rfl

/-- A command whose effect is to answer alone answers that, and nothing else changes (R173, R181). -/
theorem Ready.outside_answered {s : State} {dt : Nat} {f : State → State} {o : PortOutcome} {result : List Byte}
    (ready : Ready s) (effect : f (s.later dt) = (s.later dt).answer o result) :
    s.outside dt f = .next (s.answered dt o result) :=
  ready.outside effect ((ready.later dt).answer o result)

/-! ### The path of RESTART -/

/-- The latched answer is none of what the path of RESTART is told by (R136, R173). -/
theorem RestartedFrom.answer {s t : State} {now : Instant} (h : RestartedFrom s t now) (o : PortOutcome)
    (result : List Byte) : RestartedFrom s (t.answer o result) now := h

/-- The path of RESTART once time has passed is that of the state before (R130, R136). -/
theorem RestartedFrom.of_later {s t : State} {now from_ : Instant}
    (h : RestartedFrom { s with now := from_ } t now) : RestartedFrom s t now := h

/-- Settles O14: command and timer share one path, which every block's column describes. -/
theorem restartClears : Obligations.RestartClears := by
  unfold Obligations.RestartClears
  intro s ready
  refine ⟨fun dt life => ?_, fun x life silence => ?_, fun dt life => ready.outside_answered (if_pos life)⟩
  · have effect : (s.later dt).restart = (s.later dt).restartPath.answer .done [] := if_neg life
    obtain ⟨restarted, -⟩ := (s.later dt).restartPath_finish ready.1
    have comes : exec (.restart dt) s = .next ((s.later dt).restartPath.finish.answer .done []) :=
      (s.outside_eq dt State.restart ready.1).trans (by rw [effect, State.answer_finish])
    exact ⟨_, comes, restarted.of_later.answer .done [], rfl⟩
  · have effect : s.silenceExpiry = (s.until x).restartPath := by simp only [State.silenceExpiry, silence, if_pos life]
    obtain ⟨restarted, -⟩ := (s.until x).restartPath_finish ready.1
    have comes : exec .joinSilenceExpiry s = .next (s.until x).restartPath.finish :=
      (s.inside_eq State.silenceExpiry ready.1).trans (by rw [effect])
    have reply : (s.until x).restartPath.finish.port.reply = s.port.reply :=
      (State.finish_shows _).reply.trans (State.restartPath_raised _).reply
    rw [State.until_now] at restarted
    exact ⟨_, comes, restarted.of_later, reply⟩

/-! ### Departures -/

/-- The state as the line access unit and the instant have moved on, and nothing else. -/
def State.movedOn (s : State) (now : Instant) (line : Line) : State := { s with now := now, line := line }

theorem State.until_moved (s : State) (t : Instant) : s.until t = s.movedOn (s.due t) s.line := s.until_eq t

theorem State.heard_moved (s : State) (dt : Nat) : s.heard dt =
    s.movedOn (s.now + dt) { s.line with state := .idle (s.now + dt), overlap := false, taken := false } := rfl

/-- A station that enters MUTE or QUIET once instant and line have moved on is frozen as it stood before: entering clears
what the line had (R134, R135). -/
theorem State.movedOn_frozen (s : State) (now : Instant) (line : Line) {l : Life} {c : MuteCause}
    (out : s.ctl.inReset = false) (life : l = .mute ∨ l = .quiet) :
    ((s.movedOn now line).enterFrozen l c).finish.now = now ∧
    FrozenFrom s ((s.movedOn now line).enterFrozen l c).finish l c := by
  have frozen := (s.movedOn now line).enterFrozen_finish l c life out
  exact ⟨by simp [State.movedOn], frozen⟩

/-- A step that moves instant and line on and enters QUIET completes a departure (R133). -/
theorem departs_of_moved {s : State} {c : Instr} {now : Instant} {line : Line} (out : s.ctl.inReset = false)
    (comes : exec c s = .next ((s.movedOn now line).enterFrozen .quiet .none).finish) :
    ∃ t, exec c s = .next t ∧ t.now = now ∧ FrozenFrom s t .quiet .none :=
  ⟨_, comes, s.movedOn_frozen now line out (.inr rfl)⟩

theorem State.wouldTake_true {s : State} {f : MarkFrame} (probation : s.clock.probation = 0)
    (digest : s.ctl.digest = some f.digest)
    (taken : f.epoch = s.clock.cur + 1 ∨ (f.epoch ≠ s.clock.cur ∧ ∃ p : Station, s.clock.pacing = some p ∧ f.sender ≤ p)) :
    s.wouldTake f = true := by
  rcases taken with next | ⟨apart, p, pacing, below⟩
  · simp [State.wouldTake, probation, digest, next]
  · simp [State.wouldTake, probation, digest, apart, State.atOrBelowPacing_some pacing, below]

theorem State.inLeavingEpoch_true {s : State} (run : s.ctl.life = .run) (leaving : s.ctl.leave = .leaving) :
    s.inLeavingEpoch = true := by
  simp [State.inLeavingEpoch, run, leaving]

/-- A MARK that would be taken ends the departure of a leaving station (R133). -/
theorem State.markIn_departs {s : State} {f : MarkFrame} (overlap : Bool) (leaving : s.inLeavingEpoch = true)
    (takes : s.wouldTake f = true) : s.markIn f overlap = s.enterFrozen .quiet .none :=
  if_pos (by rw [leaving, takes]; rfl)

/-- A REPORT or RESEND that would imply a mark ends the departure of a leaving station (R133). -/
theorem State.reportIn_departs {s : State} {f : ReportFrame} (overlap : Bool) (window : State → State)
    (leaving : s.inLeavingEpoch = true) (epoch : f.epoch = s.clock.cur) (other : f.sender ≠ s.own) :
    s.reportIn f overlap window = s.enterFrozen .quiet .none :=
  if_pos (by simp [leaving, State.wouldImply, epoch, other])

/-- Settles O15: each end of a departure is the entry into QUIET, after the frame's end or at the deadline. -/
theorem stationsDepart : Obligations.StationsDepart := by
  unfold Obligations.StationsDepart
  intro s ready
  refine ⟨fun dt run => ?_, fun dt apart => ready.outside_answered (if_neg apart), fun x sends owner => ?_,
    fun o run leaving origin => ?_, fun dt f run leaving takes probation digest taken => ?_,
    fun dt f c frame run leaving takes wf deltas epoch other => ?_⟩
  · exact ready.outside (f := State.leaveTaken) (if_pos run) ready
  · have comes : exec .leaveSent s = .next ((s.queueFrameOut x .leave).enterFrozen .quiet .none).finish :=
      (s.inside_eq (fun y => y.whenSent .leave fun z => z.enterFrozen .quiet .none) ready.1).trans
        (by rw [s.whenSent_eq _ sends owner])
    rw [State.queueFrameOut_eq] at comes
    exact departs_of_moved ready.1 comes
  · have effect : s.leaveDeadline = (s.until (o + s.period - s.bits 24)).enterFrozen .quiet .none := by
      simp only [State.leaveDeadline, origin, run, leaving, and_self, if_true]
    refine departs_of_moved (line := s.line) ready.1 ((s.inside_eq State.leaveDeadline ready.1).trans ?_)
    rw [effect, State.until_moved]
  · have departs := (s.heard dt).markIn_departs s.line.overlap (State.inLeavingEpoch_true run leaving)
      (State.wouldTake_true probation digest taken)
    have comes := exec_markReceived s dt f ready takes
    rw [departs, State.heard_moved] at comes
    exact departs_of_moved ready.1 comes
  · have good : (f.wf && f.deltas.length == s.ctl.profile.pools) = true := by simp [wf, deltas]
    have departs (window : State → State) := (s.heard dt).reportIn_departs s.line.overlap window
      (State.inLeavingEpoch_true run leaving) epoch other
    have comes : exec c s = .next ((s.heard dt).enterFrozen .quiet .none).finish := by
      rcases frame with rfl | rfl
      · exact (s.frameIn_outside dt (.report f) (fun overlap s => s.reportIn f overlap fun s => s.windowReport f) ready
          takes good).trans (by rw [departs])
      · exact (s.frameIn_outside dt (.resend f) (fun overlap s => s.reportIn f overlap fun s => s.windowResend f) ready
          takes good).trans (by rw [departs])
    rw [State.heard_moved] at comes
    exact departs_of_moved ready.1 comes

end Sys2Proof.Machine
end

section
/-! The end of the listen span: founding, MUTE, or a new span (R123, R124). -/

namespace Sys2Proof.Machine

/-! ### Founding -/

/-- The initial balance of a pool that the profile has (R124). -/
theorem setBalances_initial (t : Tbl PoolEntry 8) (initial : Tbl (BitVec 32) 8) {k : Nat} {p : Fin 8} (held : p.val < k) :
    ((setBalances t 0 (initial.rows.take k)).get p).balance = initial.get p := by
  have size : p.val < initial.rows.length := initial.size.symm ▸ p.isLt
  rw [setBalances_get]
  simp [held, List.getElem?_eq_getElem size, Tbl.get_eq_getElem]

/-- Every block but the epoch clock as a founding leaves it (R100, R124, R158). -/
structure FoundedBlocks (s t : State) : Prop where
  now : t.now = s.now
  ctl : t.ctl = { s.ctl with life := .run, cause := .none, listenTimer := none }
  agreement : t.pool.agreement = .agreed
  clean : t.pool.clean = true
  balances : ∀ p : Fin 8, p.val < s.ctl.profile.pools → (t.pool.table.get p).balance = s.ctl.profile.initial.get p
  line : t.line = s.line
  roster : t.roster = s.roster
  builder : t.builder = s.builder
  window : t.window = s.window
  adjust : t.adjust = s.adjust
  channels : t.channels = s.channels
  drives : ∀ i : Fin 4, t.drives.drives.get i =
    (s.drives.drives.get i).refreshed (s.ctl.profile.drives.get i) .run .agreed

theorem State.foundBlocks_founded (s : State) : FoundedBlocks s s.foundBlocks where
  now := by simp [State.foundBlocks]
  ctl := by simp [State.foundBlocks]
  agreement := by simp [State.foundBlocks, State.setAgreement_pool]
  clean := by simp [State.foundBlocks, State.setAgreement_pool]
  balances p held := by
    simp only [State.foundBlocks, State.refreshDrives_frame, State.setAgreement_pool, State.setLife_pool]
    exact setBalances_initial _ _ held
  line := by simp [State.foundBlocks]
  roster := by simp [State.foundBlocks]
  builder := by simp [State.foundBlocks]
  window := by simp [State.foundBlocks]
  adjust := by simp [State.foundBlocks]
  channels := by simp [State.foundBlocks]
  drives i := by
    simp [State.foundBlocks, State.refreshDrives, State.refreshDrivesFor_get, State.setAgreement_pool]

/-- The founding's STATE event is on its way (R116). -/
theorem State.foundBlocks_mem (s : State) :
    (Block.controller, { kind := .state, epoch := s.clock.cur, subject := none, value := 0x0300 }) ∈
      s.foundBlocks.port.arising := by
  refine ((State.setAgreement_raised _ _).trans (State.refreshDrives_raised _)).mem ?_
  simp [Life.code, MuteCause.code]

theorem State.foundBlocks_clock (s : State) : s.foundBlocks.clock = s.clock := by simp [State.foundBlocks]

/-- Founding blocks read neither the draws nor the clock (R124). -/
theorem FoundedBlocks.of_draw {s t : State} (h : FoundedBlocks s.draw t) : FoundedBlocks s t :=
  ⟨h.now, h.ctl, h.agreement, h.clean, h.balances, h.line, h.roster, h.builder, h.window, h.adjust, h.channels, h.drives⟩

theorem FoundedBlocks.of_foundClock {s t : State} (h : FoundedBlocks s.foundClock t) : FoundedBlocks s t :=
  ⟨h.now, h.ctl, h.agreement, h.clean, h.balances, h.line, h.roster, h.builder, h.window, h.adjust, h.channels, h.drives⟩

theorem FoundedBlocks.foundClock {s t : State} (h : FoundedBlocks s t) : FoundedBlocks s t.foundClock :=
  ⟨h.now, h.ctl, h.agreement, h.clean, h.balances, h.line, h.roster, h.builder, h.window, h.adjust, h.channels, h.drives⟩

/-- In either order of clock and blocks a founding is that of the blocks with a founder's clock (R15, R124,
notes/assumptions/34.md). -/
theorem State.found_founded (s : State) : FoundedBlocks s s.found ∧ s.found.clock = s.clock.founder s.own ∧
    ∃ e : Epoch, (Block.controller, { kind := .state, epoch := e, subject := none, value := 0x0300 }) ∈
      s.found.port.arising := by
  cases coin : s.coin with
  | true =>
    have founds : s.found = s.draw.foundBlocks.foundClock := if_pos coin
    have blocks := s.draw.foundBlocks_founded
    have clock : s.draw.foundBlocks.foundClock.clock = s.clock.founder s.own := by
      rw [State.foundClock, State.foundBlocks_clock, State.own, blocks.ctl]; rfl
    rw [founds]
    exact ⟨blocks.of_draw.foundClock, clock, _, s.draw.foundBlocks_mem⟩
  | false =>
    have founds : s.found = s.draw.foundClock.foundBlocks := if_neg (by rw [coin]; exact Bool.false_ne_true)
    rw [founds]
    exact ⟨s.draw.foundClock.foundBlocks_founded.of_foundClock.of_draw, s.draw.foundClock.foundBlocks_clock, _,
      s.draw.foundClock.foundBlocks_mem⟩

/-! ### The decision -/

theorem State.listenExpiry_eq {s : State} {x : Instant} (life : s.ctl.life = .listen) (timer : s.ctl.listenTimer = some x) :
    s.listenExpiry = (s.until x).listenDecision := by
  simp only [State.listenExpiry, timer, if_pos life]

/-- Settles O13, by the decision's three cases. -/
theorem listenSpanEnds : Obligations.ListenSpanEnds := by
  unfold Obligations.ListenSpanEnds
  intro s x ready life timer
  have comes : exec .listenTimerExpiry s = .next (s.until x).listenDecision.finish :=
    (s.inside_eq State.listenExpiry ready.1).trans (by rw [State.listenExpiry_eq life timer])
  refine ⟨fun unmatched unheard => ?_, fun unmatched heard => ?_, fun matched => ?_⟩
  · have founds : (s.until x).listenDecision = (s.until x).found := (if_pos unmatched).trans (if_pos unheard)
    obtain ⟨blocks, clock, e, event⟩ := (s.until x).found_founded
    have reported := State.finish_reported _ event
    rw [founds] at comes
    exact ⟨_, comes, blocks.now.trans (s.until_now x), blocks.ctl, clock, blocks.agreement, blocks.clean, blocks.balances,
      blocks.line, blocks.roster, blocks.builder, blocks.window, blocks.adjust, blocks.channels, blocks.drives, e, reported⟩
  · have mutes : (s.until x).listenDecision = (s.movedOn (s.due x) s.line).enterFrozen .mute .profile :=
      (if_pos unmatched).trans ((if_neg (Nat.ne_of_gt heard)).trans (by rw [State.until_moved]))
    rw [mutes] at comes
    exact ⟨_, comes, s.movedOn_frozen _ _ ready.1 (.inl rfl)⟩
  · have listens : (s.until x).listenDecision = { s with
        now := s.due x
        ctl := { s.ctl with listenTimer := some (s.due x + s.listenSpan), matching := 0, mismatched := 0 } } := by
      rw [State.until_eq]
      exact if_neg (Nat.ne_of_gt matched)
    have stays : Ready (s.until x).listenDecision := by rw [listens]; exact ready
    rw [comes, stays.finish, listens]

end Sys2Proof.Machine
end

section
/-! START and the AUTO timer: the first offending item of a profile, and the station out of CONFIG (R118 to R121, R169, R170,
R191). -/

namespace Sys2Proof.Machine

/-! ### The first offending item -/

/-- o is the least item that P names, or none where P names none. -/
def FindsLeast (P : Nat → Prop) : Option Byte → Prop
  | none => ∀ n : Nat, ¬P n
  | some item => P item.toNat ∧ ∀ n : Nat, P n → item.toNat ≤ n

theorem FindsLeast.none_iff {P : Nat → Prop} {o : Option Byte} (h : FindsLeast P o) : o = none ↔ ∀ n : Nat, ¬P n := by
  cases o with
  | none => exact ⟨fun _ => h, fun _ => rfl⟩
  | some item => exact ⟨nofun, fun fits => absurd h.1 (fits _)⟩

/-- The least item named is unique. -/
theorem FindsLeast.some_iff {P : Nat → Prop} {o : Option Byte} (h : FindsLeast P o) (item : Byte) :
    o = some item ↔ P item.toNat ∧ ∀ n : Nat, P n → item.toNat ≤ n := by
  cases o with
  | none => exact ⟨nofun, fun named => absurd named.1 (h _)⟩
  | some found =>
    refine ⟨fun same => Option.some.inj same ▸ h, fun named => congrArg some ?_⟩
    exact BitVec.eq_of_toNat_eq (Nat.le_antisymm (h.2 _ named.1) (named.2 _ h.1))

/-- One test names its own item or none. -/
theorem FindsLeast.of_test {P : Nat → Prop} (fails : Prop) [Decidable fails] (item : Byte)
    (names : ∀ n : Nat, P n ↔ n = item.toNat ∧ fails) : FindsLeast P (if fails then some item else none) := by
  split
  next h => exact ⟨(names _).mpr ⟨rfl, h⟩, fun n named => ((names n).mp named).1.ge⟩
  next h => exact fun n named => h ((names n).mp named).2

/-- Tests made one after another find the least item, when every item of the first is at or below those of the second. -/
theorem FindsLeast.or {P Q : Nat → Prop} {a b : Option Byte} (first : FindsLeast P a) (second : FindsLeast Q b)
    (below : ∀ m n : Nat, P m → Q n → m ≤ n) : FindsLeast (fun n => P n ∨ Q n) (a.or b) := by
  cases a with
  | some item =>
    exact ⟨.inl first.1, fun n named => named.elim (first.2 n) fun later => below _ _ first.1 later⟩
  | none =>
    cases b with
    | some item => exact ⟨.inr second.1, fun n named => named.elim (fun h => absurd h (first n)) (second.2 n)⟩
    | none => exact fun n named => named.elim (first n) (second n)

/-- The same along a list of tests whose items rise. -/
theorem FindsLeast.findSome {α : Type} {P : α → Nat → Prop} {f : α → Option Byte} (finds : ∀ a : α, FindsLeast (P a) (f a)) :
    ∀ l : List α, l.Pairwise (fun a b => ∀ m n : Nat, P a m → P b n → m ≤ n) →
      FindsLeast (fun n => ∃ a ∈ l, P a n) (l.findSome? f)
  | [], _ => fun _ ⟨_, listed, _⟩ => absurd listed List.not_mem_nil
  | a :: l, rises => by
    obtain ⟨above, rises⟩ := List.pairwise_cons.mp rises
    have both := (finds a).or (FindsLeast.findSome finds l rises) fun m n named ⟨b, listed, later⟩ =>
      above b listed m n named later
    have spelled : (a :: l).findSome? f = (f a).or (l.findSome? f) := by
      rw [List.findSome?_cons]; cases f a <;> rfl
    simpa [spelled] using both

/-- Tests of the four channels or drives, in order. -/
theorem FindsLeast.four {P : Fin 4 → Nat → Prop} {f : Fin 4 → Option Byte} (finds : ∀ i : Fin 4, FindsLeast (P i) (f i))
    (rises : ∀ i j : Fin 4, i < j → ∀ m n : Nat, P i m → P j n → m ≤ n) :
    FindsLeast (fun n => ∃ i : Fin 4, P i n) (indexes4.findSome? f) := by
  have ordered : indexes4.Pairwise (· < ·) := by decide
  have found := FindsLeast.findSome finds indexes4 (ordered.imp fun {i j} before => rises i j before)
  simpa [mem_indexes4] using found

theorem offendingChannel_least (p : Profile) (c : Fin 4) :
    FindsLeast (fun n => n = 17 + 5 * c.val ∧ p.pools ≤ (p.channels.get c).pool.val) (offendingChannel p c) := by
  refine .of_test _ _ fun n => ?_
  rw [BitVec.toNat_ofNat, Nat.mod_eq_of_lt (by omega), show 14 + 5 * c.val + 3 = 17 + 5 * c.val by omega]

/-- What R169 asks of drive d's pool index and marks fails at item n. -/
abbrev DriveOffends (p : Profile) (d : Fin 4) (n : Nat) : Prop := ∃ i : Fin 8, (p.drives.get d).pool = some i ∧
  ((n = 34 + 7 * d.val ∧ p.pools ≤ i.val) ∨
    (n = 36 + 7 * d.val ∧ (p.drives.get d).high.toInt ≤ (p.drives.get d).low.toInt))

theorem offendingDrive_least (p : Profile) (d : Fin 4) : FindsLeast (DriveOffends p d) (offendingDrive p d) := by
  cases pool : (p.drives.get d).pool with
  | none =>
    have passes : offendingDrive p d = none := by simp only [offendingDrive, pool]
    rw [passes]
    exact fun n ⟨i, driven, _⟩ => absurd (pool.symm.trans driven) nofun
  | some i =>
    have index : FindsLeast (fun n => n = 34 + 7 * d.val ∧ p.pools ≤ i.val)
        (if p.pools ≤ i.val then some (BitVec.ofNat 8 (34 + 7 * d.val)) else none) :=
      .of_test _ _ fun n => by rw [BitVec.toNat_ofNat, Nat.mod_eq_of_lt (by omega)]
    have marks : FindsLeast (fun n => n = 36 + 7 * d.val ∧ (p.drives.get d).high.toInt ≤ (p.drives.get d).low.toInt)
        (if (p.drives.get d).high.toInt ≤ (p.drives.get d).low.toInt then some (BitVec.ofNat 8 (34 + 7 * d.val + 2))
          else none) :=
      .of_test _ _ fun n => by
        rw [BitVec.toNat_ofNat, Nat.mod_eq_of_lt (by omega), show 34 + 7 * d.val + 2 = 36 + 7 * d.val by omega]
    have both := index.or marks fun m n first second => by omega
    have spelled : offendingDrive p d = (if p.pools ≤ i.val then some (BitVec.ofNat 8 (34 + 7 * d.val)) else none).or
        (if (p.drives.get d).high.toInt ≤ (p.drives.get d).low.toInt then some (BitVec.ofNat 8 (34 + 7 * d.val + 2))
          else none) := by
      simp only [offendingDrive, pool]
      split <;> rfl
    have named : DriveOffends p d = fun n => (n = 34 + 7 * d.val ∧ p.pools ≤ i.val) ∨
        (n = 36 + 7 * d.val ∧ (p.drives.get d).high.toInt ≤ (p.drives.get d).low.toInt) :=
      funext fun n => by simp [DriveOffends, pool]
    rw [spelled, named]
    exact both

/-- The first offending item is the lowest-numbered one that fails (R169, R191). -/
theorem firstOffending_least (rate : Bool) (p : Profile) : FindsLeast (Offends rate p) (firstOffending rate p) := by
  have period : FindsLeast (fun n => n = 1 ∧ rate = false ∧ p.period < 50)
      (if rate = false ∧ p.period < 50 then some 1 else none) := .of_test _ _ fun n => Iff.rfl
  have channels := FindsLeast.four (offendingChannel_least p) fun i j before m n first second => by
    have := Fin.lt_def.mp before; omega
  have drives := FindsLeast.four (offendingDrive_least p) fun i j before m n ⟨_, _, first⟩ ⟨_, _, second⟩ => by
    have := Fin.lt_def.mp before; omega
  have later := channels.or drives fun m n ⟨c, first, _⟩ ⟨d, _, _, second⟩ => by omega
  have all := period.or later fun m n ⟨first, _⟩ second => by
    rcases second with ⟨c, second, _⟩ | ⟨d, _, _, second⟩ <;> omega
  have spelled : firstOffending rate p = (if rate = false ∧ p.period < 50 then some 1 else none).or
      ((indexes4.findSome? (offendingChannel p)).or (indexes4.findSome? (offendingDrive p))) := by
    unfold firstOffending
    split
    · rfl
    · cases indexes4.findSome? (offendingChannel p) <;> rfl
  rw [spelled]
  exact all

/-- No item offends exactly when R169's conditions hold: P at the low rate, each channel's pool index, and each drive's pool
index and marks. -/
theorem offends_nothing_iff (rate : Bool) (p : Profile) : (∀ n : Nat, ¬Offends rate p n) ↔
    (rate = false → 50 ≤ p.period) ∧ (∀ c : Fin 4, (p.channels.get c).pool.val < p.pools) ∧
    (∀ (d : Fin 4) (i : Fin 8), (p.drives.get d).pool = some i →
      i.val < p.pools ∧ (p.drives.get d).low.toInt < (p.drives.get d).high.toInt) := by
  constructor
  · intro fits
    refine ⟨fun low => ?_, fun c => ?_, fun d i pool => ⟨?_, ?_⟩⟩ <;> by_contra fails
    · exact fits 1 (.inl ⟨rfl, low, Nat.not_le.mp fails⟩)
    · exact fits _ (.inr (.inl ⟨c, rfl, Nat.not_lt.mp fails⟩))
    · exact fits _ (.inr (.inr ⟨d, i, pool, .inl ⟨rfl, Nat.not_lt.mp fails⟩⟩))
    · exact fits _ (.inr (.inr ⟨d, i, pool, .inr ⟨rfl, not_lt.mp fails⟩⟩))
  · rintro ⟨period, channels, drives⟩ n (⟨-, low, fails⟩ | ⟨c, -, fails⟩ | ⟨d, i, pool, ⟨-, fails⟩ | ⟨-, fails⟩⟩)
    · exact absurd (period low) (Nat.not_le.mpr fails)
    · exact absurd (channels c) (Nat.not_lt.mpr fails)
    · exact absurd (drives d i pool).1 (Nat.not_lt.mpr fails)
    · exact absurd (drives d i pool).2 (not_lt.mpr fails)

/-! ### Out of CONFIG -/

/-- The station in LISTEN as it leaves CONFIG, its pins not yet found afresh (R120, R121, R170). -/
def State.configLeft (s : State) : State :=
  { s with
    line := { s.line with state := .idle s.now }
    roster := { s.roster with entries := s.roster.entries.set s.own { RosterEntry.blank with state := .self } }
    ctl := { s.ctl with
      frozen := true
      digest := some (Sys2Proof.Machine.profileDigest s.ctl.straps.rate s.ctl.profile)
      autoTimer := none, listenTimer := some (s.now + s.listenSpan), matching := 0, mismatched := 0 } }

theorem State.leaveConfig_eq (s : State) : s.leaveConfig = (s.configLeft.setLife .listen .none).refreshDrives := rfl

theorem State.leaveConfig_mem (s : State) :
    (Block.controller, { kind := .state, epoch := s.clock.cur, subject := none, value := 0x0100 }) ∈
      s.leaveConfig.port.arising := by
  rw [State.leaveConfig_eq]
  refine (State.refreshDrives_raised _).mem ?_
  simp [State.configLeft, Life.code, MuteCause.code]

theorem State.leaveConfig_raised (s : State) : Raised s s.leaveConfig := by
  rw [State.leaveConfig_eq]
  exact ((Raised.of_port rfl : Raised s s.configLeft).trans (State.setLife_raised _ _ _)).trans (State.refreshDrives_raised _)

/-- A state that shows the station out of CONFIG (R118, R120, R121, R158, R170). -/
theorem LeftConfig.of_shows {s t : State} (ht : Shows s.leaveConfig t) : LeftConfig s t s.now := by
  have follow : DrivesFollow s t s.clock.cur .listen s.pool.agreement :=
    DrivesFollow.of_refresh (s := s) (x := s.configLeft.setLife .listen .none) s.pool.agreement rfl rfl
      (by rw [State.leaveConfig_eq] at ht; exact ht)
  have entry (n : Station) : t.entry n = if n = s.own then { RosterEntry.blank with state := .self } else s.entry n := by
    rw [State.entry, ht.entries, State.leaveConfig_eq, (State.refreshDrives_frame _).2.2.2.2.1]
    exact Tbl.get_set _ _ _ _
  have reported := ht.reported _ _ s.leaveConfig_mem
  simp only [LeftConfig, ht.now, ht.ctl, ht.line, ht.clock, ht.builder, ht.window, ht.pool, ht.adjust, ht.channels]
  simp only [State.leaveConfig_eq, State.refreshDrives_frame]
  exact ⟨rfl, rfl, rfl, fun n other => (entry n).trans (if_neg other), (entry _).trans (if_pos rfl), rfl, rfl, rfl, rfl, rfl,
    rfl, follow, reported⟩

/-- The latched answer is none of what leaving CONFIG is told by (R118, R173). -/
theorem LeftConfig.answer {s t : State} {now : Instant} (h : LeftConfig s t now) (o : PortOutcome) (result : List Byte) :
    LeftConfig s (t.answer o result) now := h

/-- Leaving CONFIG once time has passed is that of the state before (R120). -/
theorem LeftConfig.of_later {s t : State} {now from_ : Instant} (h : LeftConfig { s with now := from_ } t now) :
    LeftConfig s t now := h

/-! ### START and the AUTO timer -/

theorem State.startCommand_valid {s : State} (config : s.ctl.life = .config)
    (valid : firstOffending s.ctl.straps.rate s.ctl.profile = none) :
    s.startCommand = s.leaveConfig.answer .done (bytes16 (Sys2Proof.Machine.profileDigest s.ctl.straps.rate s.ctl.profile)) := by
  simp only [State.startCommand, if_pos config, valid]

theorem State.startCommand_offending {s : State} {item : Byte} (config : s.ctl.life = .config)
    (offends : firstOffending s.ctl.straps.rate s.ctl.profile = some item) :
    s.startCommand = s.answer .badArgument [item] := by
  simp only [State.startCommand, if_pos config, offends]

theorem State.autoExpiry_valid {s : State} {x : Instant} (config : s.ctl.life = .config) (timer : s.ctl.autoTimer = some x)
    (valid : firstOffending s.ctl.straps.rate s.ctl.profile = none) : s.autoExpiry = (s.until x).leaveConfig := by
  simp only [State.autoExpiry, timer, if_pos config, valid]

theorem State.autoExpiry_offending {s : State} {x : Instant} {item : Byte} (config : s.ctl.life = .config)
    (timer : s.ctl.autoTimer = some x) (offends : firstOffending s.ctl.straps.rate s.ctl.profile = some item) :
    s.autoExpiry = { s with now := s.due x, ctl := { s.ctl with autoTimer := none } } := by
  simp only [State.autoExpiry, timer, if_pos config, offends]
  rw [State.until_eq]

/-- START with a valid profile (R118, R170). -/
theorem exec_start_valid {s : State} (dt : Nat) (ready : Ready s) (config : s.ctl.life = .config)
    (valid : firstOffending s.ctl.straps.rate s.ctl.profile = none) :
    ∃ t, exec (.start dt) s = .next t ∧ LeftConfig s t (s.now + dt) ∧
      t.port.reply = some
        { outcome := .done, result := bytes16 (Sys2Proof.Machine.profileDigest s.ctl.straps.rate s.ctl.profile) } := by
  have effect := State.startCommand_valid (s := s.later dt) config valid
  have left := LeftConfig.of_shows (s.later dt).leaveConfig.finish_shows
  have comes := (s.outside_eq dt State.startCommand ready.1).trans (by rw [effect, State.answer_finish])
  exact ⟨_, comes, left.of_later.answer _ _, rfl⟩

/-- The AUTO timer's expiry with a valid profile (R119). -/
theorem exec_autoTimerExpiry_valid {s : State} {x : Instant} (ready : Ready s) (config : s.ctl.life = .config)
    (timer : s.ctl.autoTimer = some x) (valid : firstOffending s.ctl.straps.rate s.ctl.profile = none) :
    ∃ t, exec .autoTimerExpiry s = .next t ∧ LeftConfig s t (s.due x) ∧ t.port.reply = s.port.reply := by
  have effect := State.autoExpiry_valid config timer valid
  have shows := (s.until x).leaveConfig.finish_shows
  have left := LeftConfig.of_shows shows
  have reply := shows.reply.trans (s.until x).leaveConfig_raised.reply
  have comes := (s.inside_eq State.autoExpiry ready.1).trans (by rw [effect])
  rw [State.until_now] at left
  exact ⟨_, comes, left.of_later, reply⟩

/-- Settles O12: the profile's test by its items in order, and leaving CONFIG as START and the AUTO timer share it. -/
theorem startIsTaken : Obligations.StartIsTaken := by
  unfold Obligations.StartIsTaken
  refine ⟨fun s ready config valid => ⟨fun dt => exec_start_valid dt ready config valid,
      fun x timer => exec_autoTimerExpiry_valid ready config timer valid⟩,
    fun rate p => (firstOffending_least rate p).none_iff.trans (offends_nothing_iff rate p),
    fun rate p item => (firstOffending_least rate p).some_iff item,
    fun s ready => ⟨fun item config offends => ⟨fun dt => ?_, fun x timer => ?_⟩, fun dt other => ?_⟩⟩
  · exact ready.outside_answered (State.startCommand_offending (s := s.later dt) config offends)
  · exact ready.inside (State.autoExpiry_offending config timer offends) ready
  · exact ready.outside_answered (f := State.startCommand) (if_neg other)

end Sys2Proof.Machine
end

section
/-! What every step keeps, from what commands, filtered changes, wires and samples keep; and the outputs at their conditions
(R162, R182, R184). -/

namespace Sys2Proof.Machine

/-! ### What every step keeps -/

/-- Each part of a step keeps P: the commands, and what comes at the pins while none waits. -/
structure StepKeeps (P : State → Prop) : Prop where
  command : ∀ (c : Instr) (s t : State), P s → exec c s = .next t → P t
  moved : ∀ (s : State) (now : Instant) (free : Nat) (wires : List WireChange) (pending : List Instr),
    P s → P { s with now := now, free := free, wires := wires, pending := pending }
  ended : ∀ s : State, P s → P s.finish
  filtered : ∀ (s : State) (i : Fin 4) (x : InputPin), P s → P (s.filtered i x).finish
  wire : ∀ (s : State) (w : Wire), P s → P (s.wireTakes w).1
  sampled : ∀ s : State, P s → P s.sample.1
  glitch : ∀ (s : State) (p : Pin), P s → P (s.idleFromGlitch p)

/-- P holds of the next state, if there is one. -/
def OutcomeMeets (P : State → Prop) (o : Host.Outcome State Fault Refusal) : Prop := ∀ t : State, o = .next t → P t

theorem OutcomeMeets.of_next {P : State → Prop} {t : State} (h : P t) : OutcomeMeets P (.next t) := by
  rintro _ ⟨⟩; exact h

section
variable {P : State → Prop}

theorem StepKeeps.takeFilter (k : StepKeeps P) (c : FilterChange) (s : State) (h : P s) :
    OutcomeMeets P (takeFilter c s) :=
  .of_next (k.moved _ _ _ _ _ (k.filtered (s.draw.until c.due) c.ch c.pin (k.moved s _ _ _ _ h)))

theorem StepKeeps.takeWire (k : StepKeeps P) (dt : Nat) (w : Wire) (s : State) (h : P s) :
    OutcomeMeets P (takeWire dt w s) := by
  have taken : P (State.wireTakes { s with now := s.now + dt } w).1 := k.wire _ w (k.moved s _ _ _ _ h)
  unfold Machine.takeWire
  dsimp only
  split
  · exact .of_next (k.ended _ taken)
  · exact fun t => k.command _ _ t taken

theorem StepKeeps.takeSample (k : StepKeeps P) (t : Instant) (s : State) (h : P s) : OutcomeMeets P (takeSample t s) := by
  have sampled : P (s.comeTo t).sample.1 := k.sampled _ (k.moved s _ _ _ _ h)
  unfold Machine.takeSample
  dsimp only
  split
  · exact .of_next (k.ended _ sampled)
  next c at_ _ =>
    split
    next u hu =>
      have ran : P u := k.command c _ u (k.moved _ _ _ _ _ sampled) hu
      exact .of_next (k.moved _ _ _ _ _ (k.glitch u _ ran))
    next => exact fun _ h => nomatch h
    next => exact fun _ h => nomatch h

theorem StepKeeps.tickPins (k : StepKeeps P) (s : State) (h : P s) : OutcomeMeets P (tickPins s) := by
  unfold Machine.tickPins
  split
  · split
    · exact .of_next h
    · exact k.takeFilter _ s h
  · split
    · exact k.takeWire _ _ _ (k.moved s _ _ _ _ h)
    · split
      · exact k.takeFilter _ s h
      · exact k.takeWire _ _ _ (k.moved s _ _ _ _ h)

theorem StepKeeps.tick (k : StepKeeps P) (s : State) (h : P s) : OutcomeMeets P (tick s) := by
  have drawn : P s.draw := k.moved s _ _ _ _ h
  unfold Machine.tick
  split
  · exact k.tickPins s h
  · exact k.takeSample _ s h
  · split
    · exact k.takeSample _ s h
    · split
      · exact k.tickPins s h
      · split
        · exact k.takeSample _ _ drawn
        · exact k.tickPins _ drawn

/-- What each part of a step keeps the step keeps. -/
theorem StepKeeps.step (k : StepKeeps P) (s : State) (h : P s) : OutcomeMeets P (step s) := by
  unfold Machine.step
  split
  · exact k.tick s h
  next c rest _ => exact fun t => k.command c _ t (k.moved s _ _ _ _ h)

end

/-! ### The outputs -/

/-- No event is on its way, and IRQ and FAULT follow their conditions (R137, R162, R184). -/
structure OutputsShown (s : State) : Prop where
  arising : s.port.arising = []
  irq : s.port.irq = (!s.ctl.inReset && (!s.port.events.isEmpty || s.port.lost))
  fault : s.drives.fault = (!s.ctl.inReset && s.faultWanted)

theorem outputsFollow_iff (s : State) : OutputsFollow s ↔ OutputsShown s ∧ s.port.events.length ≤ 32 :=
  ⟨fun ⟨arising, bound, irq, fault⟩ => ⟨⟨arising, irq, fault⟩, bound⟩,
    fun ⟨⟨arising, irq, fault⟩, bound⟩ => ⟨arising, bound, irq, fault⟩⟩

/-- The outputs are shown at the end of every step. -/
theorem State.finish_shown (s : State) : OutputsShown s.finish := ⟨rfl, rfl, rfl⟩

/-- The port without its transaction and its reply, on which no output depends. -/
def Port.signals (p : Port) : Port := { p with reply := none, txn := none }

theorem OutputsShown.of_same {s t : State} (h : OutputsShown s) (port : t.port.signals = s.port.signals)
    (ctl : t.ctl = s.ctl) (pool : t.pool = s.pool) (drives : t.drives = s.drives) : OutputsShown t := by
  obtain ⟨arising, irq, fault⟩ := h
  obtain ⟨events, lost, line, -, -, arises⟩ := Port.mk.inj port
  refine ⟨arises.trans arising, ?_, ?_⟩
  · rw [line, ctl, events, lost, irq]
  · rw [drives, State.faultWanted, ctl, pool]; exact fault

/-- A wire changes transaction and reply of the port at most (R172). -/
theorem State.wireTakes_signals (s : State) (w : Wire) : (s.wireTakes w).1.port.signals = s.port.signals := by
  cases w with
  | input i x high => simp [State.wireTakes]
  | cs high =>
    simp only [State.wireTakes, State.csTakes]
    split
    · rfl
    · split <;> rfl
  | sck high =>
    simp only [State.wireTakes, State.sckTakes]
    split
    · rfl
    · split
      · rfl
      · split <;> rfl
  | sdi high => rfl
  | line high => simp [State.wireTakes]
  | frameBegins =>
    simp only [State.wireTakes]
    split
    · rfl
    · simp

/-- Every command but those of hardware reset ends with State.finish, whatever it does before. -/
theorem exec_shown (c : Instr) (s : State) (h : OutputsShown s) : OutcomeMeets OutputsShown (exec c s) := by
  cases c with
  | hardwareReset dt => exact .of_next ⟨rfl, rfl, rfl⟩
  | hardwareResetEnd dt id rate auto =>
    refine .of_next ?_
    split
    · exact ⟨rfl, rfl, rfl⟩
    · exact h.of_same rfl rfl rfl rfl
  | _ => exact .of_next (State.finish_shown _)

theorem outputsShown_kept : StepKeeps OutputsShown where
  command c s t h := exec_shown c s h t
  moved _ _ _ _ _ h := h.of_same rfl rfl rfl rfl
  ended s _ := s.finish_shown
  filtered s i x _ := State.finish_shown (s.filtered i x)
  wire s w h := h.of_same (s.wireTakes_signals w) (by simp) (by simp) (by simp)
  sampled _ h := h.of_same (by simp) (by simp) (by simp) (by simp)
  glitch _ _ h := h.of_same (by simp) (by simp) (by simp) (by simp)

/-- Settles O3: State.finish shows IRQ and FAULT, and the event queue's bound is among the bounds every step keeps. -/
theorem stepKeepsOutputs : Obligations.StepKeepsOutputs := by
  unfold Obligations.StepKeepsOutputs
  intro s t follows stepped
  obtain ⟨shown, bound⟩ := (outputsFollow_iff s).mp follows
  exact (outputsFollow_iff t).mpr ⟨outputsShown_kept.step s shown t stepped, (step_keeps s t stepped).events bound⟩

end Sys2Proof.Machine
end

section
/-! Every step keeps the drive pins where R158 and R159 put them: comparison, marks, the slot-phase end, and changes of
life. -/

namespace Sys2Proof.Machine

/-- What decides the drive pins, and the drives themselves (R158, R159). -/
def State.pinParts (s : State) : Bool × Life × Agreement × Profile × Tbl Drive 4 :=
  (s.ctl.inReset, s.ctl.life, s.pool.agreement, s.ctl.profile, s.drives.drives)

/-- The agreement state is one that a run reaches, and the drive pins stand where they belong. -/
structure PinsSettled (s : State) : Prop where
  agreement : AgreementFollowsRun s
  pins : PinsFollow s

theorem PinsSettled.of_parts {s t : State} (h : PinsSettled s) (same : t.pinParts = s.pinParts) : PinsSettled t := by
  simp only [State.pinParts, Prod.mk.injEq] at same
  obtain ⟨inReset, life, agreement, profile, drives⟩ := same
  refine ⟨?_, ?_⟩
  · rw [AgreementFollowsRun, agreement, life]; exact h.agreement
  · rw [PinsFollow, inReset, life, agreement, profile, drives]; exact h.pins

/-- t's pins are settled if s's are. -/
def KeepsPins (s t : State) : Prop := PinsSettled s → PinsSettled t

theorem KeepsPins.refl (s : State) : KeepsPins s s := id

theorem KeepsPins.trans {a b c : State} (h : KeepsPins a b) (k : KeepsPins b c) : KeepsPins a c := k ∘ h

theorem KeepsPins.of_parts {s t : State} (same : t.pinParts = s.pinParts) : KeepsPins s t := fun h => h.of_parts same

/-- The pins follow the agreement state, whose own rule is kept. -/
theorem KeepsPins.of_agreement {s t : State} (agreement : KeepsAgreement s t) (pins : PinsFollow s → PinsFollow t) :
    KeepsPins s t := fun h => ⟨agreement h.agreement, pins h.pins⟩

/-- Every pin is found afresh, whatever moved before. -/
theorem KeepsPins.afresh {s t x : State} (agreement : KeepsAgreement s t) (found : t = x.refreshDrives) : KeepsPins s t :=
  .of_agreement agreement fun _ => found ▸ x.refreshDrives_follow

/-! ### The comparison -/

theorem State.compareWith_follow (s : State) (h : HistEntry) (d : Digest) (c : Bool) (pins : PinsFollow s) :
    PinsFollow (s.compareWith h d c) := by
  rw [State.compareWith_eq]
  split
  · exact State.refreshDrives_follow _
  · split
    · exact pins
    · split
      · have diverged : PhaseKeeps s s.divergedFrom :=
          ((s.withPool_keeps { s.pool with noComparison := 0 } rfl).trans (State.agree_keeps _ .diverged)).trans
            (State.withPool_keeps _ _ rfl)
        exact (diverged.trans s.divergedFrom.requestSnapshot_keeps).pins pins
      · exact pins

theorem State.compare_keepsPins (s : State) (f : ReportFrame) : KeepsPins s (s.compare f) := by
  refine .of_agreement (s.compare_keepsAgreement f) fun pins => ?_
  unfold State.compare
  split
  · split
    · exact pins
    · split
      · exact pins
      · exact s.compareWith_follow _ _ _ pins
  · exact pins

/-! ### Marks -/

/-- Outside RUN the agreement state is NONE before and after the fold, and so no row changes; in RUN, and where a joiner
enters it, the drive unit finds its pins at the mark's end (R89, R158). -/
theorem State.takeMark_keepsPins (s : State) (direct : Bool) : KeepsPins s (s.takeMark direct) := by
  have agreement := s.takeMark_keepsAgreement direct
  by_cases run : s.ctl.life = .run
  · refine .of_agreement agreement fun _ => ?_
    rw [s.takeMark_run direct run]
    exact (State.driveMark_drives _ _).2.1
  · by_cases enters : s.installing = true
    · refine .of_agreement agreement fun _ => ?_
      rw [s.takeMark_enters direct enters]
      exact (State.driveMark_drives _ _).2.1
    · intro settled
      have out := settled.agreement.mpr run
      have after := agreement settled.agreement
      rw [s.takeMark_stays direct run (by simpa using enters)] at after ⊢
      have dropped (x : State) : (if s.ctl.life = .joining then x.dropHeld else x).ctl = x.ctl ∧
          (if s.ctl.life = .joining then x.dropHeld else x).drives = x.drives := by
        split <;> exact ⟨rfl, rfl⟩
      have counted (x : State) : (x.controllerMark false).ctl.life = x.ctl.life ∧
          (x.controllerMark false).ctl.inReset = x.ctl.inReset ∧
          (x.controllerMark false).ctl.profile = x.ctl.profile := by
        unfold State.controllerMark
        split
        · exact ⟨rfl, rfl, rfl⟩
        · split <;> exact ⟨rfl, rfl, rfl⟩
      refine settled.of_parts ?_
      simp only [State.pinParts, Prod.mk.injEq]
      refine ⟨by simp [counted, dropped], by simp [counted, dropped], ?_, by simp [counted, dropped], by simp [dropped]⟩
      exact (after.mpr (by simpa [counted, dropped] using run)).trans out.symm

/-- An epoch begins and its mark is taken. -/
theorem State.markedEpoch_keepsPins (s : State) (x : Epoch) (p : Option Station) (o t : Instant) (n : Nat)
    (direct : Bool) : KeepsPins s (((s.beginEpoch x p o n).reloadInRun t).takeMark direct) :=
  .trans (.of_parts (by simp [State.pinParts])) (State.takeMark_keepsPins _ direct)

theorem State.discontinuityResponses_keepsPins (s : State) : KeepsPins s s.discontinuityResponses := by
  obtain ⟨-, -, ctl, -, -, -, -, -, -, drives, -⟩ := s.discontinuityBlocks_fields
  have blocks : s.discontinuityBlocks.pinParts = s.pinParts := by
    rw [State.pinParts, ctl, drives, s.discontinuityBlocks_pool.2]; rfl
  have agreement := s.discontinuityResponses_keepsAgreement
  rw [State.discontinuityResponses_eq] at agreement ⊢
  split at agreement
  next run => rw [if_pos run]; exact .afresh agreement rfl
  next out =>
    rw [if_neg out]
    split
    · exact .of_parts blocks
    · exact .of_parts blocks

theorem State.takeDiscontinuity_keepsPins (s : State) (x : Epoch) (n : Station) :
    KeepsPins s (s.takeDiscontinuity x n) :=
  .trans (.of_parts (by simp [State.pinParts])) (State.discontinuityResponses_keepsPins _)

/-! ### Changes of life -/

theorem State.enterFrozen_keepsPins (s : State) {l : Life} (c : MuteCause) (out : l ≠ .run) :
    KeepsPins s (s.enterFrozen l c) := .afresh (s.enterFrozen_keepsAgreement c out) (s.enterFrozen_eq l c)

theorem State.countConflict_keepsPins (s : State) : KeepsPins s s.countConflict := by
  have counted : KeepsPins s s.conflictCounted := .of_parts rfl
  rw [s.countConflict_eq]
  split
  · exact counted.trans (State.enterFrozen_keepsPins _ _ nofun)
  · exact counted

theorem State.restartPath_keepsPins (s : State) : KeepsPins s s.restartPath :=
  .afresh s.restartPath_keepsAgreement s.restartPath_eq

theorem State.leaveConfig_keepsPins (s : State) (config : s.ctl.life = .config) : KeepsPins s s.leaveConfig :=
  .afresh (s.leaveConfig_keepsAgreement config) rfl

theorem State.enterJoining_keepsPins (s : State) (listen : s.ctl.life = .listen) : KeepsPins s s.enterJoining :=
  .afresh (s.enterJoining_keepsAgreement listen) rfl

/-- Before its epoch clock's part or after it, a founding finds the pins afresh (R124). -/
theorem State.found_keepsPins (s : State) : KeepsPins s s.found := by
  have blocks (x : State) : PinsFollow x.foundBlocks := State.refreshDrives_follow _
  have clock (x : State) (h : PinsFollow x) : PinsFollow x.foundClock := h.congr rfl rfl rfl
  refine .of_agreement s.found_keepsAgreement fun _ => ?_
  unfold State.found
  split
  · exact clock _ (blocks _)
  · exact blocks _

/-! ### The slot-phase end -/

theorem State.phaseEnd_keepsPins (s : State) : KeepsPins s s.phaseEnd := by
  have begun : KeepsPins s s.phaseBegun := .of_parts rfl
  cases h : s.ctl.life with
  | config => rw [State.phaseEnd, h]; exact begun
  | mute => rw [State.phaseEnd, h]; exact begun
  | quiet => rw [State.phaseEnd, h]; exact begun
  | listen => rw [s.phaseEnd_listen h]; exact begun.trans (.of_parts (by simp [State.pinParts]))
  | joining =>
    by_cases unanswered : s.phaseBegun.phaseRoster.joinUnanswered
    · refine .of_agreement s.phaseEnd_keepsAgreement fun _ => ?_
      rw [(s.phaseEnd_joining h).1 unanswered, State.enterFrozen_eq]
      exact State.refreshDrives_follow _
    · exact .of_agreement s.phaseEnd_keepsAgreement (s.phaseEnd_keeps (.inr ⟨h, unanswered⟩)).pins
  | run => exact .of_agreement s.phaseEnd_keepsAgreement (s.phaseEnd_keeps (.inl h)).pins

end Sys2Proof.Machine
end

section
/-! Every step keeps the drive pins where R158 and R159 put them: the receiver. -/

namespace Sys2Proof.Machine

/-! ### MARKs -/

theorem State.ownNumber_keepsPins (s : State) (n : Station) (overlap : Bool) : KeepsPins s (s.ownNumber n overlap) := by
  unfold State.ownNumber
  split
  · exact s.countConflict_keepsPins
  · exact .refl s

theorem State.listenMap_keepsPins (s : State) (f : MarkFrame) (listen : s.ctl.life = .listen) :
    KeepsPins s (s.listenMap f) := by
  unfold State.listenMap
  dsimp only
  split
  · exact .trans (.of_parts (by rfl)) (State.enterFrozen_keepsPins _ _ nofun)
  · split
    · exact .trans (.of_parts (by rfl)) (State.enterJoining_keepsPins _ listen)
    · exact .of_parts rfl

theorem State.listenClock_pinParts (s : State) (f : MarkFrame) : (s.listenClock f).pinParts = s.pinParts := by
  simp [State.pinParts, State.listenClock]

theorem State.listenMark_keepsPins (s : State) (f : MarkFrame) (listen : s.ctl.life = .listen) :
    KeepsPins s (s.listenMark f) :=
  .trans (.of_parts (s.listenClock_pinParts f)) (State.listenMap_keepsPins _ f
    ((congrArg Prod.snd (s.listenClock_standing f)).trans listen))

theorem State.continuity_keepsPins (s : State) (f : MarkFrame) : KeepsPins s (s.continuity f) := by
  unfold State.continuity
  split
  · exact s.markedEpoch_keepsPins _ _ _ _ _ _
  · split
    · exact .refl s
    · split
      · exact s.takeDiscontinuity_keepsPins _ _
      · exact .of_parts rfl

theorem State.clockMark_keepsPins (s : State) (f : MarkFrame) : KeepsPins s (s.clockMark f) := by
  unfold State.clockMark
  split
  next => exact .refl s
  next => exact .refl s
  next => exact .refl s
  next listen =>
    split
    · exact s.listenMark_keepsPins f listen
    · exact .of_parts rfl
  next =>
    split
    · exact s.continuity_keepsPins f
    · exact .of_parts rfl
  next =>
    split
    · split
      · unfold State.probationMark
        split
        · exact .of_parts rfl
        · exact s.restartPath_keepsPins
      · exact s.continuity_keepsPins f
    · exact .of_parts rfl

theorem State.ownNumberMark_keepsPins (s : State) (f : MarkFrame) : KeepsPins s (s.ownNumberMark f) := by
  have drawn : KeepsPins s s.draw := .of_parts rfl
  unfold State.ownNumberMark
  dsimp only
  split
  · exact (drawn.trans (State.countConflict_keepsPins _)).trans (State.clockMark_keepsPins _ f)
  · split
    · have listened : KeepsPins s (s.draw.listenClock f).countConflict :=
        (drawn.trans (.of_parts (State.listenClock_pinParts _ f))).trans (State.countConflict_keepsPins _)
      split
      next listen => exact listened.trans (State.listenMap_keepsPins _ f listen)
      next => exact listened
    · exact (drawn.trans (State.clockMark_keepsPins _ f)).trans (State.countConflict_keepsPins _)

theorem State.markIn_keepsPins (s : State) (f : MarkFrame) (overlap : Bool) : KeepsPins s (s.markIn f overlap) := by
  unfold State.markIn
  split
  · exact s.enterFrozen_keepsPins _ nofun
  · split
    · exact s.ownNumberMark_keepsPins f
    · exact s.clockMark_keepsPins f

/-! ### REPORTs and RESENDs -/

theorem State.takeReport_pinParts (s : State) (n : Station) (e : Epoch) (d : List (BitVec 16)) :
    (s.takeReport n e d).pinParts = s.pinParts := by
  simp [State.pinParts, State.takeReport_agreement]

theorem State.rosterReport_pinParts (s : State) (f : ReportFrame) : (s.rosterReport f).pinParts = s.pinParts := by
  unfold State.rosterReport
  split
  · rfl
  · simp [State.pinParts]

theorem State.windowTake_keepsPins (s : State) (f : ReportFrame) : KeepsPins s (s.windowTake f) := by
  unfold State.windowTake
  split
  · exact .of_parts (s.takeReport_pinParts _ _ _)
  · exact .refl s

theorem State.windowReport_keepsPins (s : State) (f : ReportFrame) : KeepsPins s (s.windowReport f) := by
  unfold State.windowReport
  split
  · split
    · exact .refl s
    · split
      · exact (s.markedEpoch_keepsPins _ _ _ _ _ _).trans (State.windowTake_keepsPins _ f)
      · exact s.windowTake_keepsPins f
  · exact .refl s

theorem State.impliedPhaseEnd_keepsPins (s : State) (f : ReportFrame) : KeepsPins s (s.impliedPhaseEnd f) := by
  have drawn : KeepsPins s s.draw := .of_parts rfl
  unfold State.impliedPhaseEnd
  dsimp only
  split
  · have ended := drawn.trans (State.phaseEnd_keepsPins _)
    split
    · exact (ended.trans (.of_parts (State.rosterReport_pinParts _ f))).trans (State.windowTake_keepsPins _ f)
    · exact ended
  · exact (drawn.trans (State.windowTake_keepsPins _ f)).trans (State.phaseEnd_keepsPins _)

theorem State.windowResend_keepsPins (s : State) (f : ReportFrame) : KeepsPins s (s.windowResend f) := by
  unfold State.windowResend
  split
  · split
    · exact .refl s
    · split
      · exact (s.markedEpoch_keepsPins _ _ _ _ _ _).trans (State.impliedPhaseEnd_keepsPins _ f)
      · exact s.windowTake_keepsPins f
  · exact .refl s

theorem State.reportIn_keepsPins (s : State) (f : ReportFrame) (overlap : Bool) (window : State → State)
    (h : ∀ x, KeepsPins x (window x)) : KeepsPins s (s.reportIn f overlap window) := by
  unfold State.reportIn
  dsimp only
  split
  · exact s.enterFrozen_keepsPins _ nofun
  · have numbered := s.ownNumber_keepsPins f.sender overlap
    split
    · exact ((numbered.trans (.of_parts (State.rosterReport_pinParts _ f))).trans
        (State.compare_keepsPins _ f)).trans (h _)
    · exact numbered

/-! ### The other frames -/

theorem State.frameIn_keepsPins (s : State) (f : Frame) (blocks : Bool → State → State)
    (h : ∀ b x, KeepsPins x (blocks b x)) : KeepsPins s (s.frameIn f blocks) := by
  unfold State.frameIn
  split
  · split
    · exact .trans (.of_parts (by rfl)) (h _ _)
    · exact .of_parts rfl
  · exact .refl s

theorem State.offerKey_pinParts (s : State) (k : QKey) : (s.offerKey k).pinParts = s.pinParts := by simp [State.pinParts]

theorem State.requestIn_keepsPins (s : State) (f : RequestFrame) (overlap : Bool) :
    KeepsPins s (s.requestIn f overlap) := by
  have answered (x : State) : KeepsPins x (x.answerPairs f.pairs) :=
    .of_parts (foldl_keeps State.pinParts _ (fun x _ => x.offerKey_pinParts _) _ x)
  have numbered := s.ownNumber_keepsPins f.sender overlap
  unfold State.requestIn State.answerTarget
  dsimp only
  split
  · refine (numbered.trans (answered _)).trans ?_
    split
    · exact .trans (.of_parts (by rfl)) (.of_parts (State.offerKey_pinParts _ _))
    · exact .of_parts rfl
  · exact numbered

theorem State.snapshotIn_keepsPins (s : State) (f : SnapshotFrame) (overlap : Bool) :
    KeepsPins s (s.snapshotIn f overlap) := by
  have held (x : State) : KeepsPins x (x.holdSnapshot f) := by
    unfold State.holdSnapshot
    dsimp only
    split
    · exact .of_parts rfl
    · split <;> exact .of_parts rfl
  have numbered := s.ownNumber_keepsPins f.sender overlap
  unfold State.snapshotIn
  dsimp only
  split
  · exact numbered.trans (held _)
  · exact numbered

/-- A refused adjustment finds the pins afresh, since AGREED may be left (R108). -/
theorem State.judgeAdjust_keepsPins (s : State) (f : AdjustFrame) : KeepsPins s (s.judgeAdjust f) := by
  have raised (x : State) (b : Block) (k : EventKind) (n : Option Station) (v : BitVec 16) (h : PinsFollow x) :
      PinsFollow (x.raise b k n v) := h.congr rfl rfl rfl
  have refused (r : RefusalReason) : PinsFollow (s.refuseAdjust f r) := raised _ _ _ _ _ (State.refreshDrives_follow _)
  refine .of_agreement (s.judgeAdjust_keepsAgreement f) fun pins => ?_
  unfold State.judgeAdjust
  dsimp only
  split
  · exact pins
  split
  · exact pins
  split
  · exact pins
  split
  · exact pins
  split
  · exact refused _
  split
  · exact refused _
  split
  · exact refused _
  · exact pins

theorem State.adjustIn_keepsPins (s : State) (f : AdjustFrame) (overlap : Bool) : KeepsPins s (s.adjustIn f overlap) := by
  have numbered := s.ownNumber_keepsPins f.sender overlap
  unfold State.adjustIn
  dsimp only
  split
  · exact numbered.trans (State.judgeAdjust_keepsPins _ f)
  · exact numbered

theorem State.joinIn_keepsPins (s : State) (f : JoinFrame) (overlap : Bool) : KeepsPins s (s.joinIn f overlap) := by
  have entered (x : State) : KeepsPins x (if f.sender = x.own then x
      else x.setEntry f.sender ((x.entry f.sender).joined x.clock.cur)) := by
    split
    · exact .refl x
    · exact .of_parts (by simp [State.pinParts])
  have offered (x : State) (c : Prop) [Decidable c] : KeepsPins x (if c then x.offerKey .snapshot else x) := by
    split
    · exact .of_parts (x.offerKey_pinParts _)
    · exact .refl x
  have numbered := s.ownNumber_keepsPins f.sender overlap
  unfold State.joinIn
  dsimp only
  by_cases listens : (s.ownNumber f.sender overlap).listening = true
  · rw [if_pos listens]
    exact (numbered.trans (entered _)).trans (offered _ _)
  · rw [if_neg listens]
    exact numbered

theorem State.leaveIn_keepsPins (s : State) (f : LeaveFrame) (overlap : Bool) : KeepsPins s (s.leaveIn f overlap) := by
  have numbered := s.ownNumber_keepsPins f.sender overlap
  unfold State.leaveIn
  dsimp only
  split
  · exact numbered.trans (.of_parts (by simp [State.pinParts]))
  · exact numbered

theorem State.discardFrame_keepsPins (s : State) (bytes : List Byte) : KeepsPins s (s.discardFrame bytes) := by
  unfold State.discardFrame
  split <;> exact .of_parts rfl

theorem State.abandonFrame_keepsPins (s : State) : KeepsPins s s.abandonFrame := by
  unfold State.abandonFrame
  split <;> exact .of_parts rfl

theorem State.abandonedEnd_keepsPins (s : State) : KeepsPins s s.abandonedEnd := by
  unfold State.abandonedEnd
  split <;> exact .of_parts rfl

theorem State.glitched_keepsPins (s : State) : KeepsPins s s.glitched := by
  unfold State.glitched
  split
  · split <;> exact .of_parts rfl
  all_goals exact .refl s

end Sys2Proof.Machine
end

section
/-! Every step keeps the drive pins where R158 and R159 put them: timers, transmitter and service port, the commands, and the
obligation about it. -/

namespace Sys2Proof.Machine

/-! ### Timers -/

theorem State.autoExpiry_keepsPins (s : State) : KeepsPins s s.autoExpiry := by
  unfold State.autoExpiry
  split
  · exact .refl s
  · split
    next config =>
      split
      · exact .trans (.of_parts (by rfl)) (State.leaveConfig_keepsPins _ config)
      · exact .of_parts rfl
    next => exact .refl s

theorem State.listenExpiry_keepsPins (s : State) : KeepsPins s s.listenExpiry := by
  have decided (x : State) : KeepsPins x x.listenDecision := by
    unfold State.listenDecision
    split
    · split
      · exact x.found_keepsPins
      · exact x.enterFrozen_keepsPins _ nofun
    · exact .of_parts rfl
  unfold State.listenExpiry
  split
  · exact .refl s
  · split
    · exact .trans (.of_parts (by rfl)) (decided _)
    · exact .refl s

theorem State.silenceExpiry_keepsPins (s : State) : KeepsPins s s.silenceExpiry := by
  unfold State.silenceExpiry
  split
  · exact .refl s
  · split
    · exact .trans (.of_parts (by rfl)) (State.restartPath_keepsPins _)
    · exact .refl s

theorem State.markExpiry_keepsPins (s : State) : KeepsPins s s.markExpiry := by
  unfold State.markExpiry
  split
  · split <;> exact .of_parts rfl
  all_goals exact .refl s

theorem State.nextSlot_keepsPins (s : State) : KeepsPins s s.nextSlot := by
  have handed (x : State) : KeepsPins x x.handOver := by
    unfold State.handOver
    split
    · exact .refl x
    · split <;> exact .of_parts rfl
  unfold State.nextSlot
  dsimp only
  split
  · exact .refl s
  · split
    · split
      · exact .trans (.of_parts (by rfl)) (handed _)
      · exact .of_parts rfl
    · exact .refl s

theorem State.slotsOver_keepsPins (s : State) : KeepsPins s s.slotsOver := by
  unfold State.slotsOver
  split
  · exact .refl s
  · split
    · exact .trans (.of_parts (by rfl)) (State.phaseEnd_keepsPins _)
    · exact .refl s

theorem State.leaveDeadline_keepsPins (s : State) : KeepsPins s s.leaveDeadline := by
  unfold State.leaveDeadline
  split
  · exact .refl s
  · split
    · exact .trans (.of_parts (by rfl)) (State.enterFrozen_keepsPins _ _ nofun)
    · exact .refl s

/-! ### The transmitter -/

theorem State.markBegins_keepsPins (s : State) : KeepsPins s s.markBegins := by
  unfold State.markBegins
  split
  · split <;> exact .of_parts rfl
  all_goals exact .refl s

theorem State.slotReportBegins_keepsPins (s : State) : KeepsPins s s.slotReportBegins := by
  unfold State.slotReportBegins
  split
  · dsimp only
    split <;> exact .of_parts rfl
  · exact .refl s

theorem State.slotMissed_keepsPins (s : State) : KeepsPins s s.slotMissed := by
  unfold State.slotMissed
  split
  · split
    · exact .trans (.of_parts (by rfl)) (.of_parts (State.offerKey_pinParts _ _))
    · exact .refl s
  · exact .refl s

theorem State.gapComplete_keepsPins (s : State) : KeepsPins s s.gapComplete := by
  unfold State.gapComplete
  split
  · split
    · dsimp only
      split <;> exact .of_parts rfl
    · exact .refl s
  · exact .refl s

theorem State.whenSent_keepsPins (s : State) (key : QKey) (f : State → State) (h : ∀ x, KeepsPins x (f x)) :
    KeepsPins s (s.whenSent key f) := by
  have out (t : Tx) : KeepsPins s (s.queueFrameOut t key) := by
    unfold State.queueFrameOut
    split <;> exact .of_parts rfl
  unfold State.whenSent
  split
  · exact .refl s
  · split
    · exact (out _).trans (h _)
    · exact .refl s

theorem State.ownMark_keepsPins (s : State) : KeepsPins s s.ownMark := by
  cases sends : s.line.tx with
  | none => rw [State.ownMark, sends]; exact .refl s
  | some x =>
    by_cases own : x.owner = .mark ∧ s.ctl.life = .run
    · rw [s.ownMark_eq x sends own.1 own.2]
      exact .trans (b := s.ownMarkTook x) (.of_parts rfl) (State.takeMark_keepsPins _ true)
    · rw [State.ownMark, sends]
      dsimp only
      rw [if_neg own]
      exact .refl s

theorem State.enterOwnReport_keepsPins (s : State) (e : Epoch) : KeepsPins s (s.enterOwnReport e) := by
  unfold State.enterOwnReport
  split
  · exact .refl s
  · exact .of_parts (s.takeReport_pinParts _ _ _)

theorem State.slotReportSent_keepsPins (s : State) : KeepsPins s s.slotReportSent := by
  unfold State.slotReportSent
  split
  · exact .refl s
  · split
    · exact .trans (.of_parts (by rfl)) (State.enterOwnReport_keepsPins _ _)
    all_goals exact .refl s

theorem State.resendSent_keepsPins (s : State) : KeepsPins s s.resendSent := by
  have out (e : Epoch) (x : State) : KeepsPins x (x.resendOut e) := by
    unfold State.resendOut
    split
    · exact .refl x
    · split
      · exact .of_parts rfl
      · exact .trans (.of_parts (by rfl)) (State.enterOwnReport_keepsPins _ _)
  unfold State.resendSent
  split
  · exact .refl s
  · split
    · exact s.whenSent_keepsPins _ _ (out _)
    · exact .refl s

theorem State.adjustSent_keepsPins (s : State) : KeepsPins s s.adjustSent := by
  unfold State.adjustSent
  split
  · exact .refl s
  · split
    · exact s.whenSent_keepsPins _ _ .refl
    · exact .refl s

theorem State.arbitrationLost_keepsPins (s : State) : KeepsPins s s.arbitrationLost := by
  have outbid : KeepsPins s s.outbid := .of_parts rfl
  cases h : s.line.tx with
  | none => rw [State.arbitrationLost, h]; exact .refl s
  | some t =>
    by_cases slot : ∃ e : Epoch, t.owner = .slot e
    · obtain ⟨e, owner⟩ := slot
      rw [s.arbitrationLost_slot t e h owner]
      exact (outbid.trans (.of_parts (State.offerKey_pinParts _ _))).trans (State.countConflict_keepsPins _)
    · rw [s.arbitrationLost_other t h fun e k => slot ⟨e, k⟩]
      exact outbid

theorem State.driveFault_keepsPins (s : State) : KeepsPins s s.driveFault := by
  unfold State.driveFault
  split
  · exact .refl s
  · dsimp only
    split
    · exact .trans (.of_parts (by rfl)) (.of_parts (State.offerKey_pinParts _ _))
    all_goals exact .of_parts rfl

/-! ### The service port -/

theorem State.answer_keepsPins (s : State) (o : PortOutcome) (r : List Byte) : KeepsPins s (s.answer o r) := .of_parts rfl

theorem State.startCommand_keepsPins (s : State) : KeepsPins s s.startCommand := by
  unfold State.startCommand
  split
  next config =>
    split
    · exact s.answer_keepsPins _ _
    · exact (s.leaveConfig_keepsPins config).trans (State.answer_keepsPins _ _ _)
  next => exact s.answer_keepsPins _ _

theorem State.restart_keepsPins (s : State) : KeepsPins s s.restart := by
  unfold State.restart
  split
  · exact s.answer_keepsPins _ _
  · exact s.restartPath_keepsPins.trans (State.answer_keepsPins _ _ _)

theorem State.readPool_keepsPins (s : State) (i : Byte) : KeepsPins s (s.readPool i) := by
  unfold State.readPool
  dsimp only
  split <;> exact s.answer_keepsPins _ _

theorem State.readRoster_keepsPins (s : State) (n : Byte) : KeepsPins s (s.readRoster n) := by
  unfold State.readRoster
  split <;> exact s.answer_keepsPins _ _

theorem State.readRecord_keepsPins (s : State) (p : Byte) : KeepsPins s (s.readRecord p) := by
  unfold State.readRecord
  split
  · split <;> exact s.answer_keepsPins _ _
  · exact s.answer_keepsPins _ _

theorem State.readChannel_keepsPins (s : State) (c : Byte) : KeepsPins s (s.readChannel c) := by
  unfold State.readChannel
  dsimp only
  split <;> exact s.answer_keepsPins _ _

theorem State.takeBatch_keepsPins (s : State) (c : Byte) : KeepsPins s (s.takeBatch c) := by
  unfold State.takeBatch
  dsimp only
  split <;> exact .of_parts rfl

theorem State.takeEvent_keepsPins (s : State) : KeepsPins s s.takeEvent := by
  unfold State.takeEvent
  split <;> exact .of_parts rfl

/-- In CONFIG every drive is under CONFIG's row and its pin is low, whatever the profile (R158). -/
theorem pinsFollow_config_iff (s : State) (config : s.ctl.life = .config) : PinsFollow s ↔
    (s.ctl.inReset = false → ∀ i : Fin 4, (s.drives.drives.get i).row = .config ∧ (s.drives.drives.get i).pin = false) := by
  have row (cfg : DriveCfg) (m : DriveMode) : pinRow s.ctl.life s.pool.agreement cfg m = .config := if_pos config
  refine forall_congr' fun _ => forall_congr' fun i => ?_
  simp only [row]
  exact and_congr_right fun under => by rw [under]; rfl

theorem State.writeProfile_keepsPins (s : State) (n : Byte) (v : BitVec 32) : KeepsPins s (s.writeProfile n v) := by
  unfold State.writeProfile
  split
  next config =>
    split
    · exact s.answer_keepsPins _ _
    next p _ =>
      have follows : KeepsPins s { s with ctl := { s.ctl with profile := p } } := fun settled => by
        refine ⟨settled.agreement, (pinsFollow_config_iff _ ?_).mpr ((pinsFollow_config_iff s config).mp settled.pins)⟩
        exact config
      exact follows.trans (State.answer_keepsPins _ _ _)
  next => exact s.answer_keepsPins _ _

theorem State.postAdjustment_keepsPins (s : State) (count : Byte) (sent : List RawItem) :
    KeepsPins s (s.postAdjustment count sent) := by
  unfold State.postAdjustment
  dsimp only
  split
  · exact .refl s
  · split
    · refine .trans (?_ : KeepsPins s (s.acceptPost _)) (State.answer_keepsPins _ _ _)
      exact .of_parts (by simp [State.pinParts, State.acceptPost])
    · exact s.answer_keepsPins _ _

/-- SET DRIVE writes drive i alone, with its new mode and its pin found afresh (R157). -/
theorem State.setDriveMode_get (s : State) (i j : Fin 4) (m : DriveMode) :
    (s.setDriveMode i m).drives.drives.get j =
      if j = i then ({ s.drives.drives.get i with mode := m } : Drive).refreshed (s.ctl.profile.drives.get i) s.ctl.life
        s.pool.agreement
      else s.drives.drives.get j := by
  rw [State.setDriveMode, State.refreshDrive_get]
  by_cases here : j = i
  · rw [if_pos here, if_pos here]
    simp
  · rw [if_neg here, if_neg here, Tbl.get_set_ne _ _ here]

/-- The drive that takes a mode stands where its new row puts it, and the others stand as they stood (R157, R158). -/
theorem State.setDriveMode_follow (s : State) (i : Fin 4) (m : DriveMode) (pins : PinsFollow s) :
    PinsFollow (s.setDriveMode i m) := by
  have same : (s.setDriveMode i m).ctl = s.ctl ∧ (s.setDriveMode i m).pool = s.pool := by simp [State.setDriveMode]
  obtain ⟨ctl, pool⟩ := same
  rw [PinsFollow, ctl, pool]
  intro outside j
  rw [State.setDriveMode_get]
  by_cases here : j = i
  · subst here
    rw [if_pos rfl]
    exact Drive.refreshed_follows _ _ _ _
  · rw [if_neg here]
    exact pins outside j

theorem State.setDrive_keepsPins (s : State) (i m : Byte) : KeepsPins s (s.setDrive i m) := by
  refine .of_agreement (.of_standing (s.setDrive_standing i m)) fun pins => ?_
  have answered (x : State) (o : PortOutcome) (h : PinsFollow x) : PinsFollow (x.answer o []) := h.congr rfl rfl rfl
  unfold State.setDrive
  split
  · split
    · exact answered _ _ pins
    · exact answered _ _ (s.setDriveMode_follow _ _ pins)
  · exact answered _ _ pins

theorem State.leaveTaken_keepsPins (s : State) : KeepsPins s s.leaveTaken := by
  unfold State.leaveTaken
  split <;> exact .of_parts rfl

/-! ### Steps -/

/-- An outcome whose next state's pins are settled if those of s are. -/
def OutcomeKeepsPins (s : State) (o : Host.Outcome State Fault Refusal) : Prop := ∀ t : State, o = .next t → KeepsPins s t

theorem OutcomeKeepsPins.of_next {s t : State} (h : KeepsPins s t) : OutcomeKeepsPins s (.next t) := by
  rintro _ ⟨⟩; exact h

theorem State.finish_keepsPins (s : State) : KeepsPins s s.finish := .of_parts rfl

theorem State.outside_keepsPins (s : State) (dt : Nat) (f : State → State) (h : ∀ x, KeepsPins x (f x)) :
    OutcomeKeepsPins s (s.outside dt f) := by
  have later : KeepsPins s { s with now := s.now + dt } := .of_parts rfl
  refine .of_next (KeepsPins.trans ?_ (State.finish_keepsPins _))
  split
  · exact later
  · exact later.trans (h _)

theorem State.inside_keepsPins (s : State) (f : State → State) (h : ∀ x, KeepsPins x (f x)) :
    OutcomeKeepsPins s (s.inside f) := by
  refine .of_next (KeepsPins.trans ?_ (State.finish_keepsPins _))
  split
  · exact .refl s
  · exact h s

theorem State.frame_keepsPins (s : State) (dt : Nat) (f : Frame) (blocks : Bool → State → State)
    (h : ∀ b x, KeepsPins x (blocks b x)) : OutcomeKeepsPins s (s.outside dt (fun x => x.frameIn f blocks)) :=
  s.outside_keepsPins dt _ fun x => x.frameIn_keepsPins f blocks h

/-- After hardware reset the station is in CONFIG with every pin low (R137, R158). -/
theorem State.atReset_settled (now : Instant) (free : Nat) (straps : Straps) (inputs : Inputs) (wires : List WireChange)
    (pending : List Instr) : PinsSettled (State.atReset now free straps inputs wires pending) := by
  have drive (i : Fin 4) : DriveUnit.reset.drives.get i = .reset := Tbl.get_fill _ i
  refine ⟨iff_of_true rfl nofun, (pinsFollow_config_iff _ rfl).mpr fun _ i => ?_⟩
  have same : (State.atReset now free straps inputs wires pending).drives.drives.get i = .reset := drive i
  rw [same]
  exact ⟨rfl, rfl⟩

/-- Every command keeps the pins settled. -/
theorem exec_keepsPins (c : Instr) (s : State) : OutcomeKeepsPins s (exec c s) := by
  cases c with
  | hardwareReset dt => exact .of_next fun settled => ⟨settled.agreement, nofun⟩
  | hardwareResetEnd dt id rate auto =>
    refine .of_next ?_
    split
    · exact fun _ => State.atReset_settled _ _ _ _ _ _
    · exact .of_parts rfl
  | autoTimerExpiry => exact s.inside_keepsPins _ State.autoExpiry_keepsPins
  | listenTimerExpiry => exact s.inside_keepsPins _ State.listenExpiry_keepsPins
  | joinSilenceExpiry => exact s.inside_keepsPins _ State.silenceExpiry_keepsPins
  | markTimerExpiry => exact s.inside_keepsPins _ State.markExpiry_keepsPins
  | markBegin => exact s.inside_keepsPins _ State.markBegins_keepsPins
  | ownMark => exact s.inside_keepsPins _ State.ownMark_keepsPins
  | slotStart => exact s.inside_keepsPins _ State.nextSlot_keepsPins
  | slotReportBegin => exact s.inside_keepsPins _ State.slotReportBegins_keepsPins
  | slotReportMissed => exact s.inside_keepsPins _ State.slotMissed_keepsPins
  | slotReportSent => exact s.inside_keepsPins _ State.slotReportSent_keepsPins
  | slotPhaseEnd => exact s.inside_keepsPins _ State.slotsOver_keepsPins
  | openWindowGapComplete => exact s.inside_keepsPins _ State.gapComplete_keepsPins
  | resendSent => exact s.inside_keepsPins _ State.resendSent_keepsPins
  | snapshotSent =>
    exact s.inside_keepsPins (fun x => x.whenSent .snapshot (fun y => y)) fun x => x.whenSent_keepsPins _ _ .refl
  | adjustSent => exact s.inside_keepsPins _ State.adjustSent_keepsPins
  | requestSent =>
    exact s.inside_keepsPins (fun x => x.whenSent .request (fun y => y)) fun x => x.whenSent_keepsPins _ _ .refl
  | joinSent =>
    exact s.inside_keepsPins (fun x => x.whenSent .join State.joinOut) fun x =>
      x.whenSent_keepsPins _ _ fun _ => .of_parts rfl
  | leaveSent =>
    exact s.inside_keepsPins (fun x => x.whenSent .leave (fun y => y.enterFrozen .quiet .none)) fun x =>
      x.whenSent_keepsPins _ _ fun y => y.enterFrozen_keepsPins _ nofun
  | leaveDeadline => exact s.inside_keepsPins _ State.leaveDeadline_keepsPins
  | arbitrationLost dt => exact s.outside_keepsPins dt _ State.arbitrationLost_keepsPins
  | driveFault dt => exact s.outside_keepsPins dt _ State.driveFault_keepsPins
  | frameAbandoned dt => exact s.outside_keepsPins dt _ State.abandonFrame_keepsPins
  | frameDiscarded dt bytes =>
    exact s.outside_keepsPins dt (fun x => x.discardFrame bytes) fun x => x.discardFrame_keepsPins bytes
  | markReceived dt f => exact s.frame_keepsPins dt (.mark f) (fun b x => x.markIn f b) fun b x => x.markIn_keepsPins f b
  | reportReceived dt f =>
    exact s.frame_keepsPins dt (.report f) (fun b x => x.reportIn f b fun y => y.windowReport f) fun b x =>
      x.reportIn_keepsPins f b _ fun y => y.windowReport_keepsPins f
  | resendReceived dt f =>
    exact s.frame_keepsPins dt (.resend f) (fun b x => x.reportIn f b fun y => y.windowResend f) fun b x =>
      x.reportIn_keepsPins f b _ fun y => y.windowResend_keepsPins f
  | requestReceived dt f =>
    exact s.frame_keepsPins dt (.request f) (fun b x => x.requestIn f b) fun b x => x.requestIn_keepsPins f b
  | snapshotReceived dt f =>
    exact s.frame_keepsPins dt (.snapshot f) (fun b x => x.snapshotIn f b) fun b x => x.snapshotIn_keepsPins f b
  | adjustReceived dt f =>
    exact s.frame_keepsPins dt (.adjust f) (fun b x => x.adjustIn f b) fun b x => x.adjustIn_keepsPins f b
  | joinReceived dt f => exact s.frame_keepsPins dt (.join f) (fun b x => x.joinIn f b) fun b x => x.joinIn_keepsPins f b
  | leaveReceived dt f =>
    exact s.frame_keepsPins dt (.leave f) (fun b x => x.leaveIn f b) fun b x => x.leaveIn_keepsPins f b
  | filteredCntRise dt i =>
    exact s.outside_keepsPins dt (fun x => (x.sawPin i .cnt true).cntEdge i) fun _ => .of_parts (by simp [State.pinParts])
  | filteredDirChange dt i =>
    exact s.outside_keepsPins dt (fun x => (x.sawPin i .dir (!(x.channels.get i).dirHigh)).dirEdge i) fun _ =>
      .of_parts (by simp [State.pinParts])
  | filteredGateRise dt i =>
    exact s.outside_keepsPins dt (fun x => (x.sawPin i .gate true).gateRise i) fun _ => .of_parts (by simp [State.pinParts])
  | filteredGateFall dt i =>
    exact s.outside_keepsPins dt (fun x => (x.sawPin i .gate false).gateFall i) fun _ => .of_parts (by simp [State.pinParts])
  | status dt => exact s.outside_keepsPins dt State.readStatus fun _ => .of_parts rfl
  | readPool dt i => exact s.outside_keepsPins dt (fun x => x.readPool i) fun x => x.readPool_keepsPins i
  | readRoster dt n => exact s.outside_keepsPins dt (fun x => x.readRoster n) fun x => x.readRoster_keepsPins n
  | readRecord dt p => exact s.outside_keepsPins dt (fun x => x.readRecord p) fun x => x.readRecord_keepsPins p
  | readGaps dt => exact s.outside_keepsPins dt State.readGaps fun x => x.answer_keepsPins _ _
  | readChannel dt c => exact s.outside_keepsPins dt (fun x => x.readChannel c) fun x => x.readChannel_keepsPins c
  | takeBatch dt c => exact s.outside_keepsPins dt (fun x => x.takeBatch c) fun x => x.takeBatch_keepsPins c
  | takeEvent dt => exact s.outside_keepsPins dt _ State.takeEvent_keepsPins
  | writeProfile dt n v => exact s.outside_keepsPins dt (fun x => x.writeProfile n v) fun x => x.writeProfile_keepsPins n v
  | start dt => exact s.outside_keepsPins dt _ State.startCommand_keepsPins
  | postAdjustment dt n l =>
    exact s.outside_keepsPins dt (fun x => x.postAdjustment n l) fun x => x.postAdjustment_keepsPins n l
  | setDrive dt i m => exact s.outside_keepsPins dt (fun x => x.setDrive i m) fun x => x.setDrive_keepsPins i m
  | leaveCommand dt => exact s.outside_keepsPins dt _ State.leaveTaken_keepsPins
  | restart dt => exact s.outside_keepsPins dt _ State.restart_keepsPins
  | unknownCommand dt code =>
    refine s.outside_keepsPins dt (fun x => if commandCodes.contains code then x else x.answer .badArgument []) fun x => ?_
    split
    · exact .refl x
    · exact x.answer_keepsPins _ _
  | transactionAbandoned dt => exact s.outside_keepsPins dt (fun x => x) .refl
  | glitch dt => exact s.outside_keepsPins dt _ State.glitched_keepsPins
  | abandonedFrameEnd dt => exact s.outside_keepsPins dt _ State.abandonedEnd_keepsPins

theorem pinsSettled_kept : StepKeeps PinsSettled where
  command c s t h ran := exec_keepsPins c s t ran h
  moved _ _ _ _ _ h := h.of_parts rfl
  ended s := s.finish_keepsPins
  filtered s i x h := State.finish_keepsPins _ (h.of_parts (by simp [State.pinParts]))
  wire _ _ h := h.of_parts (by simp [State.pinParts])
  sampled _ h := h.of_parts (by simp [State.pinParts])
  glitch _ _ h := h.of_parts (by simp [State.pinParts])

/-- Settles O7: what moves a pin's row or level finds the pins afresh, and outside RUN no fold moves the agreement state. -/
theorem stepKeepsPins : Obligations.StepKeepsPins := by
  unfold Obligations.StepKeepsPins
  exact fun s t agreement pins stepped => (pinsSettled_kept.step s ⟨agreement, pins⟩ t stepped).pins

end Sys2Proof.Machine
end

section
/-! The drive rule: its table, its dwells, and the evaluation of every drive on its own pool (R155, R156). -/

namespace Sys2Proof.Machine

/-! ### A count that runs down -/

section
variable {σ β : Type} {f : σ → β → σ} {wait : Nat → σ} {done : σ} {ok : β → Prop}

/-- A count that every fitting input takes down by one, and from 1 to its goal, runs down to the goal in as many inputs. -/
theorem foldl_countdown (down : ∀ n b, 1 ≤ n → ok b → f (wait n) b = if n = 1 then done else wait (n - 1)) (l : List β)
    (fits : ∀ b ∈ l, ok b) (n : Nat) (some : 1 ≤ n) (few : l.length ≤ n) :
    l.foldl f (wait n) = if l.length = n then done else wait (n - l.length) := by
  induction l generalizing n with
  | nil => rw [List.foldl_nil, List.length_nil, if_neg (by omega), Nat.sub_zero]
  | cons b t ih =>
    rw [List.length_cons] at few ⊢
    rw [List.foldl_cons, down n b some (fits b List.mem_cons_self)]
    by_cases last : n = 1
    · have ended : t = [] := List.length_eq_zero_iff.mp (by omega)
      rw [if_pos last, ended, last]
      rfl
    · rw [if_neg last, ih (fun b h => fits b (List.mem_cons_of_mem _ h)) (n - 1) (by omega) (by omega)]
      by_cases all : t.length = n - 1
      · rw [if_pos all, if_pos (by omega)]
      · rw [if_neg all, if_neg (by omega), Nat.sub_sub, Nat.add_comm 1]

/-- A dwell of d that a first fitting input begins is over with d + 1 of them, and not with fewer (R156). -/
theorem foldl_dwell {start : σ} {d : Nat} (begins : ∀ b, ok b → f start b = if d = 0 then done else wait d)
    (down : ∀ n b, 1 ≤ n → ok b → f (wait n) b = if n = 1 then done else wait (n - 1)) (starts : start ≠ done)
    (waits : ∀ n, wait n ≠ done) (l : List β) (fits : ∀ b ∈ l, ok b) :
    (l.length = d + 1 → l.foldl f start = done) ∧ (l.length ≤ d → l.foldl f start ≠ done) := by
  cases l with
  | nil => exact ⟨fun h => by simp at h, fun _ => starts⟩
  | cons b t =>
    have first := begins b (fits b List.mem_cons_self)
    have rest := foldl_countdown down t fun b h => fits b (List.mem_cons_of_mem _ h)
    rw [List.length_cons, List.foldl_cons, first]
    by_cases none : d = 0
    · rw [if_pos none]
      refine ⟨fun h => ?_, fun h => by omega⟩
      rw [List.length_eq_zero_iff.mp (by omega : t.length = 0)]
      rfl
    · rw [if_neg none]
      refine ⟨fun h => ?_, fun h => ?_⟩
      · rw [rest d (by omega) (by omega), if_pos (by omega)]
      · rw [rest d (by omega) (by omega), if_neg (by omega)]
        exact waits _

end

/-! ### The table -/

section
variable (cfg : DriveCfg) (b : Int)

theorem RuleState.next_off : RuleState.next cfg b .off =
    if cfg.high.toInt ≤ b then (if cfg.riseDwell = 0 then .on else .arming cfg.riseDwell) else .off := rfl

theorem RuleState.next_on : RuleState.next cfg b .on =
    if b ≤ cfg.low.toInt then (if cfg.fallDwell = 0 then .off else .disarming cfg.fallDwell) else .on := rfl

/-- A dwell count below 1 does not arise: rise and fall dwells of 0 are passed over. -/
theorem RuleState.next_arming (n : Nat) (some : 1 ≤ n) (high : cfg.high.toInt ≤ b) :
    RuleState.next cfg b (.arming n) = if n = 1 then .on else .arming (n - 1) := by
  rw [RuleState.next, if_pos high]
  exact if_congr (by omega) rfl rfl

theorem RuleState.next_disarming (n : Nat) (some : 1 ≤ n) (low : b ≤ cfg.low.toInt) :
    RuleState.next cfg b (.disarming n) = if n = 1 then .off else .disarming (n - 1) := by
  rw [RuleState.next, if_pos low]
  exact if_congr (by omega) rfl rfl

end

/-! ### The evaluation -/

theorem State.evaluateDrives_disabled (s : State) (i : Fin 4) (h : (s.ctl.profile.drives.get i).pool = none) :
    s.evaluateDrives.drives.drives.get i = s.drives.drives.get i := by
  have one (x : State) (j : Fin 4) (same : x.ctl = s.ctl) :
      (x.evaluateDrive j).drives.drives.get i = x.drives.drives.get i := by
    cases pool : (x.ctl.profile.drives.get j).pool with
    | none => rw [x.evaluateDrive_disabled j pool]
    | some p =>
      have other : i ≠ j := fun k => by rw [same, ← k, h] at pool; exact nomatch pool
      rw [x.evaluateDrive_get j i p pool, if_neg other]
  simp [State.evaluateDrives, indexes4, one]

/-- Settles O53: the table row by row, the dwells as counts that run down, and each drive on its own pool's balance. -/
theorem driveRuleMoves : Obligations.DriveRuleMoves := by
  unfold Obligations.DriveRuleMoves
  refine ⟨fun cfg b => ⟨?_, ?_, ?_, ?_, ?_, ?_, ?_, ?_⟩, fun cfg bs high => ?_, fun s i => ⟨fun p pool => ?_, ?_⟩,
    fun cfg bs low => ?_⟩
  · exact fun high => (RuleState.next_off cfg b).trans (if_pos high)
  · exact fun below => (RuleState.next_off cfg b).trans (if_neg (by omega))
  · exact RuleState.next_arming cfg b
  · exact fun n below => if_neg (by omega)
  · exact fun low => (RuleState.next_on cfg b).trans (if_pos low)
  · exact fun above => (RuleState.next_on cfg b).trans (if_neg (by omega))
  · exact RuleState.next_disarming cfg b
  · exact fun n above => if_neg (by omega)
  · exact foldl_dwell (f := fun r b => RuleState.next cfg b r) (done := .on) (wait := RuleState.arming)
      (fun b high => (RuleState.next_off cfg b).trans (if_pos high))
      (fun n b => RuleState.next_arming cfg b n) nofun nofun bs high
  · rw [State.evaluateDrives_rule, pool]
  · exact s.evaluateDrives_disabled i
  · exact foldl_dwell (f := fun r b => RuleState.next cfg b r) (done := .off) (wait := RuleState.disarming)
      (fun b low => (RuleState.next_on cfg b).trans (if_pos low))
      (fun n b => RuleState.next_disarming cfg b n) nofun nofun bs low

end Sys2Proof.Machine
end

section
/-! The drive pins: the rows of R158, the held level of R159, and the DRIVE events of R161. -/

namespace Sys2Proof.Machine

/-! ### Rows and levels -/

section
variable {life : Life} {cfg : DriveCfg} (ag : Agreement) (m : DriveMode)

theorem pinRow_config (config : life = .config) : pinRow life ag cfg m = .config := if_pos config

theorem pinRow_disabled (out : life ≠ .config) (none : cfg.pool = none) : pinRow life ag cfg m = .disabled := by
  rw [pinRow, if_neg out, if_pos none]

theorem pinRow_forced (out : life ≠ .config) (some : cfg.pool ≠ none) (forced : m ≠ .auto) :
    pinRow life ag cfg m = .forced := by
  rw [pinRow, if_neg out, if_neg some, if_pos forced]

theorem pinRow_auto (out : life ≠ .config) (some : cfg.pool ≠ none) :
    pinRow life ag cfg .auto = if ag = .agreed then .rule else .uncertain := by
  rw [pinRow, if_neg out, if_neg some, if_neg (not_not_intro rfl)]

end

/-- The active level and the inactive one (R154). -/
theorem DriveCfg.level_eq (cfg : DriveCfg) : cfg.level true = cfg.activeHigh ∧ cfg.level false = !cfg.activeHigh := by
  cases h : cfg.activeHigh <;> simp [DriveCfg.level, h]

/-- The level of the rule row (R158). -/
theorem pinLevel_rule (cfg : DriveCfg) (d : Drive) (held : Bool) :
    (d.rule = .on ∨ (∃ n : Nat, d.rule = .disarming n) → pinLevel .rule cfg d held = cfg.activeHigh) ∧
    (d.rule = .off ∨ (∃ n : Nat, d.rule = .arming n) → pinLevel .rule cfg d held = !cfg.activeHigh) := by
  refine ⟨fun active => ?_, fun inactive => ?_⟩
  · have level : d.rule.active = true := by rcases active with h | ⟨n, h⟩ <;> rw [h] <;> rfl
    rw [pinLevel, level, cfg.level_eq.1]
  · have level : d.rule.active = false := by rcases inactive with h | ⟨n, h⟩ <;> rw [h] <;> rfl
    rw [pinLevel, level, cfg.level_eq.2]

/-- The level of the uncertain action (R158, R159). -/
theorem pinLevel_uncertain (cfg : DriveCfg) (d : Drive) (held : Bool) :
    pinLevel .uncertain cfg d held =
      match cfg.action with
      | .hold => cfg.level held
      | .assert => cfg.activeHigh
      | .release => !cfg.activeHigh := by
  cases h : cfg.action <;> simp [pinLevel, h, cfg.level_eq]

/-! ### The held level -/

theorem Drive.refreshed_held (d : Drive) (cfg : DriveCfg) (l : Life) (ag : Agreement) :
    (d.refreshed cfg l ag).held = heldLevel (d.refreshed cfg l ag).row cfg d := rfl

theorem heldLevel_leavesConfig (cfg : DriveCfg) {d : Drive} (config : d.row = .config) :
    heldLevel .uncertain cfg d = false := by
  rw [heldLevel, if_pos ⟨rfl, by simp [config]⟩, if_pos config]

theorem heldLevel_enters (cfg : DriveCfg) {d : Drive} (config : d.row ≠ .config) (other : d.row ≠ .uncertain) :
    heldLevel .uncertain cfg d = (d.pin == cfg.activeHigh) := by
  rw [heldLevel, if_pos ⟨rfl, other⟩, if_neg config]

theorem heldLevel_stands {row : PinRow} (cfg : DriveCfg) {d : Drive} (stays : row ≠ .uncertain ∨ d.row = .uncertain) :
    heldLevel row cfg d = d.held :=
  if_neg fun ⟨enters, other⟩ => stays.elim (fun h => h enters) other

/-! ### DRIVE events -/

/-- The event, if any, that drive i raises as its pin is found afresh (R161). -/
def State.driveNews (s : State) (ag : Agreement) (i : Fin 4) : List (Block × Event) :=
  let cfg := s.ctl.profile.drives.get i
  let d := (s.drives.drives.get i).refreshed cfg s.ctl.life ag
  if d.pin = (s.drives.drives.get i).pin then [] else [(.drive, driveEvent s.clock.cur i cfg d)]

/-- Finding drive i's pin afresh writes the drive and raises its event, and does nothing else (R158, R161). -/
theorem State.refreshDrive_eq (s : State) (ag : Agreement) (i : Fin 4) : s.refreshDrive ag i =
    { s with
      drives := { s.drives with drives := (s.refreshDrive ag i).drives.drives }
      port := { s.port with arising := s.port.arising ++ s.driveNews ag i } } := by
  simp only [State.refreshDrive, State.driveNews]
  split
  · simp
  · simp [State.raise, driveEvent]

theorem State.refreshDrive_arising (s : State) (ag : Agreement) (i : Fin 4) :
    (s.refreshDrive ag i).port.arising = s.port.arising ++ s.driveNews ag i := by rw [s.refreshDrive_eq]

/-- What one drive raises does not depend on another's pin. -/
theorem State.driveNews_other (s : State) (ag : Agreement) {i j : Fin 4} (other : j ≠ i) :
    (s.refreshDrive ag i).driveNews ag j = s.driveNews ag j := by
  simp only [State.driveNews, State.refreshDrive_get, if_neg other, State.refreshDrive_frame]

/-- Finding every pin afresh raises each drive's event in the order of the drives (R161). -/
theorem State.refreshDrivesFor_arising (s : State) (ag : Agreement) :
    (s.refreshDrivesFor ag).port.arising = s.port.arising ++ indexes4.flatMap (s.driveNews ag) := by
  have other (x : State) {i j : Fin 4} (h : j ≠ i) := x.driveNews_other ag h
  simp only [State.refreshDrivesFor, indexes4, List.foldl_cons, List.foldl_nil, State.refreshDrive_arising,
    List.flatMap_cons, List.flatMap_nil, List.append_assoc, List.append_nil]
  rw [other _ (by decide), other _ (by decide), other _ (by decide), other _ (by decide), other _ (by decide),
    other _ (by decide)]

/-- A drive's event arises if its level changes, with the new level and row (R161, R190). -/
theorem State.driveNews_mem (s : State) (ag : Agreement) (i : Fin 4) (x : Block × Event) : x ∈ s.driveNews ag i ↔
    ((s.refreshDrivesFor ag).drives.drives.get i).pin ≠ (s.drives.drives.get i).pin ∧
    x = (.drive, driveEvent s.clock.cur i (s.ctl.profile.drives.get i) ((s.refreshDrivesFor ag).drives.drives.get i)) := by
  rw [State.refreshDrivesFor_get]
  simp only [State.driveNews]
  split
  next same => simp [same]
  next changed => simp [changed]

/-- s with other drives, FAULT apart, and other events on their way. -/
def State.withPins (s : State) (drives : Tbl Drive 4) (arising : List (Block × Event)) : State :=
  { s with drives := { s.drives with drives := drives }, port := { s.port with arising := arising } }

theorem State.withPins_withPins (s : State) (d e : Tbl Drive 4) (a b : List (Block × Event)) :
    (s.withPins d a).withPins e b = s.withPins e b := rfl

/-- t is s but for its drives and the events that have arisen. -/
def MovesPins (s t : State) : Prop := t = s.withPins t.drives.drives t.port.arising

theorem MovesPins.trans {a b c : State} (h : MovesPins a b) (k : MovesPins b c) : MovesPins a c :=
  Eq.trans k (by rw [h, State.withPins_withPins])

theorem MovesPins.foldl {α : Type} (f : State → α → State) (h : ∀ s a, MovesPins s (f s a)) (l : List α) (s : State) :
    MovesPins s (l.foldl f s) := by
  induction l generalizing s with
  | nil => rfl
  | cons a t ih => exact (h s a).trans (ih _)

theorem State.refreshDrive_moves (s : State) (ag : Agreement) (i : Fin 4) : MovesPins s (s.refreshDrive ag i) := by
  rw [MovesPins, s.refreshDrive_arising]
  exact s.refreshDrive_eq ag i

theorem State.refreshDrives_moves (s : State) : MovesPins s s.refreshDrives :=
  .foldl _ (fun s i => s.refreshDrive_moves _ i) _ s

/-- Settles O54: the rows in their order, the held level by the row left, and the events drive by drive. -/
theorem drivePinsFollowTable : Obligations.DrivePinsFollowTable := by
  unfold Obligations.DrivePinsFollowTable
  refine ⟨fun life ag cfg d held => ⟨fun config => ?_, fun out none => ?_, fun out some => ⟨fun on => ?_, fun off => ?_,
    fun auto agreed => ?_, fun auto other => ?_⟩⟩, ⟨rfl, rfl, rfl, rfl, rfl⟩, fun d cfg life ag => ?_, fun s => ?_⟩
  · have row := pinRow_config (cfg := cfg) ag d.mode config
    rw [row]
    exact ⟨rfl, rfl⟩
  · have row := pinRow_disabled ag d.mode out none
    rw [row]
    exact ⟨rfl, rfl⟩
  · have row := pinRow_forced ag d.mode out some (by simp [on])
    rw [row]
    exact ⟨rfl, by rw [pinLevel, on]; exact cfg.level_eq.1⟩
  · have row := pinRow_forced ag d.mode out some (by simp [off])
    rw [row]
    exact ⟨rfl, by rw [pinLevel, off]; exact cfg.level_eq.2⟩
  · have row : pinRow life ag cfg d.mode = .rule := by rw [auto, pinRow_auto ag out some, if_pos agreed]
    rw [row]
    exact ⟨rfl, pinLevel_rule cfg d held⟩
  · have row : pinRow life ag cfg d.mode = .uncertain := by rw [auto, pinRow_auto ag out some, if_neg other]
    rw [row, pinLevel_uncertain]
    refine ⟨rfl, fun action => ?_, fun action => ?_, fun action high => ?_, fun action low => ?_⟩
    · rw [action]
    · rw [action]
    · rw [action, high]; exact cfg.level_eq.1
    · rw [action, low]; exact cfg.level_eq.2
  · refine ⟨rfl, rfl, rfl, rfl, fun under config => ?_, fun under config other => ?_, fun stays => ?_⟩
    · rw [Drive.refreshed_held, under]; exact heldLevel_leavesConfig cfg config
    · rw [Drive.refreshed_held, under]; exact heldLevel_enters cfg config other
    · rw [Drive.refreshed_held]; exact heldLevel_stands cfg stays
  · refine ⟨s.refreshDrivesFor_get _, s.refreshDrivesFor_mem _, fun x arose => ?_, s.refreshDrives_moves⟩
    rw [State.refreshDrives, s.refreshDrivesFor_arising, List.mem_append, List.mem_flatMap] at arose
    exact arose.imp_right fun ⟨i, _, news⟩ => ⟨i, (s.driveNews_mem _ i x).mp news⟩

end Sys2Proof.Machine
end

section
/-! SET DRIVE: the drive it writes, its pin, its held level and its DRIVE event, and its refusals (R157 to R159, R161). -/

namespace Sys2Proof.Machine

/-! ### The drive that takes a mode -/

/-- Drive i in a mode, its pin not yet found afresh (R157). -/
def State.withMode (s : State) (i : Fin 4) (m : DriveMode) : State :=
  { s with drives := { s.drives with drives := s.drives.drives.set i { s.drives.drives.get i with mode := m } } }

theorem State.setDriveMode_eq (s : State) (i : Fin 4) (m : DriveMode) :
    s.setDriveMode i m = (s.withMode i m).refreshDrive s.pool.agreement i := rfl

theorem State.withMode_pin (s : State) (i : Fin 4) (m : DriveMode) :
    ((s.withMode i m).drives.drives.get i).pin = (s.drives.drives.get i).pin := by
  simp [State.withMode]

theorem State.setDriveMode_frame (s : State) (i : Fin 4) (m : DriveMode) :
    (s.setDriveMode i m).now = s.now ∧ (s.setDriveMode i m).clock = s.clock ∧ (s.setDriveMode i m).line = s.line ∧
    (s.setDriveMode i m).roster = s.roster ∧ (s.setDriveMode i m).builder = s.builder ∧
    (s.setDriveMode i m).window = s.window ∧ (s.setDriveMode i m).pool = s.pool ∧ (s.setDriveMode i m).adjust = s.adjust ∧
    (s.setDriveMode i m).ctl = s.ctl ∧ (s.setDriveMode i m).channels = s.channels ∧
    (s.setDriveMode i m).drives.fault = s.drives.fault := by
  simp [State.setDriveMode]

/-- A change of the pin's level has its DRIVE event on its way (R161). -/
theorem State.setDriveMode_mem (s : State) (i : Fin 4) (m : DriveMode)
    (changed : ((s.setDriveMode i m).drives.drives.get i).pin ≠ (s.drives.drives.get i).pin) :
    (Block.drive, driveEvent s.clock.cur i (s.ctl.profile.drives.get i) ((s.setDriveMode i m).drives.drives.get i)) ∈
      (s.setDriveMode i m).port.arising :=
  (s.withMode i m).refreshDrive_mem s.pool.agreement i (by rw [s.withMode_pin]; exact changed)

/-- With the pin's level as it was nothing is raised (R161). -/
theorem State.setDriveMode_port (s : State) (i : Fin 4) (m : DriveMode)
    (same : ((s.setDriveMode i m).drives.drives.get i).pin = (s.drives.drives.get i).pin) :
    (s.setDriveMode i m).port = s.port := by
  have silent : (s.withMode i m).driveNews s.pool.agreement i = [] := by
    refine if_pos ?_
    rw [s.withMode_pin, ← same, State.setDriveMode_eq, State.refreshDrive_get, if_pos rfl]
  rw [State.setDriveMode_eq, State.refreshDrive_eq, silent, List.append_nil]
  rfl

/-! ### The command -/

theorem DriveMode.ofCode_none (mode : Byte) (h : 3 ≤ mode.toNat) : DriveMode.ofCode mode = none := by
  have other (b : Byte) (small : b.toNat < 3) : mode ≠ b := fun k => by rw [k] at h; omega
  rw [DriveMode.ofCode, if_neg (other 0 (by decide)), if_neg (other 1 (by decide)), if_neg (other 2 (by decide))]

/-- An index above 3 or a mode above 2 is only answered (R157). -/
theorem State.setDrive_refused (s : State) (index mode : Byte) (bad : 4 ≤ index.toNat ∨ 3 ≤ mode.toNat) :
    s.setDrive index mode = s.answer .badArgument [] := by
  unfold State.setDrive
  split
  next small => rw [DriveMode.ofCode_none mode (bad.resolve_left (by omega))]
  next => rfl

theorem State.setDrive_taken (s : State) {index mode : Byte} {i : Fin 4} {m : DriveMode} (drive : index.toNat = i.val)
    (code : DriveMode.ofCode mode = some m) : s.setDrive index mode = (s.setDriveMode i m).answer .done [] := by
  have small : index.toNat < 4 := drive ▸ i.isLt
  have same : (⟨index.toNat, small⟩ : Fin 4) = i := Fin.ext drive
  rw [State.setDrive, dif_pos small, code, same]

theorem exec_setDrive {s : State} (ready : Ready s) (dt : Nat) (index mode : Byte) :
    exec (.setDrive dt index mode) s = .next ((s.later dt).setDrive index mode).finish :=
  s.outside_eq dt (fun x => x.setDrive index mode) ready.1

/-- A step's end leaves FAULT as it is where neither life-cycle state nor agreement state has moved (R162). -/
theorem Ready.finish_fault {s u : State} (ready : Ready s) (ctl : u.ctl = s.ctl) (pool : u.pool = s.pool) :
    u.finish.drives.fault = s.drives.fault := by
  rw [State.finish_fault u (by rw [ctl]; exact ready.1), ready.fault, State.faultWanted, State.faultWanted, ctl, pool]

/-- Settles O55: a bad argument is only answered; else the drive is found afresh in its mode, and the step's end reports a
change of its level. -/
theorem setDriveForces : Obligations.SetDriveForces := by
  unfold Obligations.SetDriveForces
  refine fun s dt index mode ready => ⟨fun bad => ?_, fun i m drive code => ?_⟩
  · rw [exec_setDrive ready, State.setDrive_refused _ _ _ bad, ((ready.later dt).answer _ _).finish]
    rfl
  · rw [exec_setDrive ready, State.setDrive_taken _ drive code]
    obtain ⟨now, clock, line, roster, builder, window, pool, adjust, ctl, channels, fault⟩ :=
      (s.later dt).setDriveMode_frame i m
    have get := fun j => (s.later dt).setDriveMode_get i j m
    have reports := (s.later dt).setDriveMode_mem i m
    have silent := (s.later dt).setDriveMode_port i m
    generalize (s.later dt).setDriveMode i m = u at *
    have here : (u.answer .done []).finish.drives.drives.get i =
        ({ s.drives.drives.get i with mode := m } : Drive).refreshed (s.ctl.profile.drives.get i) s.ctl.life
          s.pool.agreement := (get i).trans (if_pos rfl)
    obtain ⟨row, pin⟩ := Drive.refreshed_follows { s.drives.drives.get i with mode := m } (s.ctl.profile.drives.get i)
      s.ctl.life s.pool.agreement
    refine ⟨_, rfl, now, ?_, ?_, ?_, ?_, fun under other config => ?_, fun stays => ?_, fun changed => ?_, fun same => ?_,
      fun j other => (get j).trans (if_neg other), Ready.finish_fault ready ctl pool, rfl, clock, line, roster, builder,
      window, pool, adjust, ctl, channels⟩
    · rw [here]; rfl
    · rw [here]; rfl
    · rw [here]; exact pin
    · rw [here]; exact row
    · rw [here] at under ⊢
      rw [Drive.refreshed_held, under]
      exact heldLevel_enters _ config other
    · rw [here] at stays ⊢
      rw [Drive.refreshed_held]
      exact heldLevel_stands _ stays
    · exact State.finish_reported (u.answer .done []) (reports changed)
    · have still : Ready u := ready.of_same (by rw [ctl]; rfl) (by rw [ctl]; rfl) (silent same) (by rw [pool]; rfl) fault
      rw [(still.answer _ _).finish]
      exact congrArg (fun p : Port => p.answered .done []) (silent same)

end Sys2Proof.Machine
end
